-- ==== Sys2Proof/Word.lean ====
section
/-! DEFINITION. The word types of Thor2021 and their plainest readings: 64-bit values, bytes, selectors
(00_scope R8, R9). Wrapping arithmetic is `BitVec`'s own. -/

namespace Sys2Proof

/-- A 64-bit general-register value (10_state R20). -/
abbrev Word := BitVec 64

/-- The smallest addressable unit of memory (20_memory R140). -/
abbrev Byte := BitVec 8

/-- A 32-bit selector: PL 31:24, T 23, Index 22:0 (10_state R47). -/
abbrev Selector := BitVec 32

/-- A 6-bit register number (10_state R20). -/
abbrev RegNum := BitVec 6

/-- A 256-bit descriptor as its four octas n, n+1, n+2, n+3 (20_memory R165). -/
structure Descriptor where
  o0 : Word
  o1 : Word
  o2 : Word
  o3 : Word
  deriving DecidableEq, Repr, Inhabited

end Sys2Proof
end

