-- ==== Sys2Proof/Syntax.lean ====
section
/-! DEFINITION. The instructions of Thor2021: one constructor per row of spec/opcode_table.json, over one structure
per instruction format. A structure holds EVERY bit of the format that is not its opcode or function code, pads and
fields without a role included, so that no bit of a word is lost; which values are well formed is WellFormed's. -/

namespace Sys2Proof

namespace Fmt

/-- R1 and FP/DFP R1: one source (30 R245, 43 R521 a). -/
structure R1 where
  v : BitVec 1
  rt : BitVec 6
  ra : BitVec 6
  z : BitVec 1
  m : BitVec 3
  deriving DecidableEq, Repr, Inhabited

/-- R2 short: two sources, one-bit Tb (30 R246, R251). -/
structure R2 where
  v : BitVec 1
  rt : BitVec 6
  ra : BitVec 6
  rb : BitVec 6
  tb : BitVec 1
  z : BitVec 1
  m : BitVec 3
  deriving DecidableEq, Repr, Inhabited

/-- R3: three sources and Func7 (30 R247); CHK keeps cn in the low half of the Rt place (40 R335). -/
structure R3 where
  v : BitVec 1
  rt : BitVec 6
  ra : BitVec 6
  rb : BitVec 6
  tb : BitVec 2
  rc : BitVec 6
  tc : BitVec 2
  z : BitVec 1
  m : BitVec 3
  deriving DecidableEq, Repr, Inhabited

/-- R3 with bits 47:41 outside the function codes: 30 R247 gives them no role in BLEND, SM4ED and SM4KS; BMAP draws
Func7 = 00h there, and a nonzero one counts as a field drawn as a constant, not as an unmatched function code: DEDUCED
(30 R242, R254, 41 R436, log 52). -/
structure R3P where
  v : BitVec 1
  rt : BitVec 6
  ra : BitVec 6
  rb : BitVec 6
  tb : BitVec 2
  rc : BitVec 6
  tc : BitVec 2
  z : BitVec 1
  m : BitVec 3
  pad : BitVec 7
  deriving DecidableEq, Repr, Inhabited

/-- RI: 11-bit immediate (30 R248); CPUID and BYTNDXI draw the same places (40 R338, 41 R442). -/
structure RI where
  v : BitVec 1
  rt : BitVec 6
  ra : BitVec 6
  imm : BitVec 11
  deriving DecidableEq, Repr, Inhabited

/-- RIL: 23-bit immediate, m3 and z (30 R249). -/
structure RIL where
  v : BitVec 1
  rt : BitVec 6
  ra : BitVec 6
  imm : BitVec 23
  z : BitVec 1
  m : BitVec 3
  deriving DecidableEq, Repr, Inhabited

/-- CHKI (40 R336). -/
structure CHKI where
  v : BitVec 1
  cn : BitVec 3
  immLo : BitVec 3
  ra : BitVec 6
  rb : BitVec 6
  tb : BitVec 2
  immHi : BitVec 19
  deriving DecidableEq, Repr, Inhabited

/-- F1: control format (43 R521 b); FSTAT has its Rt in the place of uimm6 (43 R571). -/
structure F1 where
  u : BitVec 6
  ra : BitVec 6
  pad : BitVec 4
  deriving DecidableEq, Repr, Inhabited

/-- FP R2 and DFP R2: 40 bits drawn, 48 stored (43 R521 c, 30 R252 a). -/
structure FR2 where
  v : BitVec 1
  rt : BitVec 6
  ra : BitVec 6
  rb : BitVec 6
  tb : BitVec 2
  z : BitVec 1
  m : BitVec 3
  pad : BitVec 8
  deriving DecidableEq, Repr, Inhabited

/-- FP R2L and DFP R2L: R2 with a rounding mode (43 R521 d). -/
structure FR2L where
  v : BitVec 1
  rt : BitVec 6
  ra : BitVec 6
  rb : BitVec 6
  tb : BitVec 2
  z : BitVec 1
  m : BitVec 3
  rm : BitVec 3
  pad : BitVec 5
  deriving DecidableEq, Repr, Inhabited

/-- FP R3 (43 R521 e). -/
structure FR3 where
  v : BitVec 1
  rt : BitVec 6
  ra : BitVec 6
  rb : BitVec 6
  tb : BitVec 2
  rc : BitVec 6
  tc : BitVec 2
  z : BitVec 1
  m : BitVec 3
  rm : BitVec 3
  deriving DecidableEq, Repr, Inhabited

/-- DFP R3L: 56 bits drawn, 64 stored (44 R601 f, 30 R252 b). -/
structure FR3L where
  v : BitVec 1
  rt : BitVec 6
  ra : BitVec 6
  rb : BitVec 6
  tb : BitVec 2
  rc : BitVec 6
  tc : BitVec 2
  z : BitVec 1
  m : BitVec 3
  rm : BitVec 3
  padLo : BitVec 5
  padHi : BitVec 8
  deriving DecidableEq, Repr, Inhabited

/-- LSD: displacement loads and stores (45 R661); CACHE keeps DC and IC in the Rt place (45 R725). -/
structure LSD where
  rt : BitVec 6
  ra : BitVec 6
  disp : BitVec 24
  sel : BitVec 3
  deriving DecidableEq, Repr, Inhabited

/-- LSDS: short displacement (45 R662). -/
structure LSDS where
  rt : BitVec 6
  ra : BitVec 6
  disp : BitVec 8
  sel : BitVec 3
  deriving DecidableEq, Repr, Inhabited

/-- LSX: scaled indexed (45 R663); CACHEX keeps DC and IC in the Rt place (45 R726). -/
structure LSX where
  v : BitVec 1
  rt : BitVec 6
  ra : BitVec 6
  rb : BitVec 6
  tb : BitVec 2
  sc : BitVec 3
  sel : BitVec 3
  disp : BitVec 8
  c : BitVec 1
  z : BitVec 1
  m : BitVec 3
  deriving DecidableEq, Repr, Inhabited

/-- LSR: store with long addressing (45 R664). -/
structure LSR where
  dispLo : BitVec 6
  ra : BitVec 6
  rb : BitVec 6
  tb : BitVec 2
  dispHi : BitVec 16
  sel : BitVec 3
  deriving DecidableEq, Repr, Inhabited

/-- BR: compare and branch (46 R741). -/
structure BR where
  lk : BitVec 2
  tgt : BitVec 4
  ra : BitVec 6
  rb : BitVec 6
  tb : BitVec 2
  ca : BitVec 3
  target : BitVec 16
  deriving DecidableEq, Repr, Inhabited

/-- BZ: compare with zero and branch (46 R743). -/
structure BZ where
  lk : BitVec 2
  tgtLo : BitVec 4
  ra : BitVec 6
  tgtHi : BitVec 8
  ca : BitVec 3
  deriving DecidableEq, Repr, Inhabited

/-- JMP: unconditional (46 R742). -/
structure JMP where
  lk : BitVec 2
  targetLo : BitVec 18
  ca : BitVec 3
  targetHi : BitVec 16
  deriving DecidableEq, Repr, Inhabited

/-- JGATE (46 R800). -/
structure JGATE where
  lk : BitVec 2
  selector : BitVec 32
  pad : BitVec 5
  deriving DecidableEq, Repr, Inhabited

/-- RTS (46 R805). -/
structure RTS where
  lk : BitVec 2
  const6 : BitVec 6
  const15 : BitVec 15
  deriving DecidableEq, Repr, Inhabited

/-- NOP: the short format with a free v (46 R810). -/
structure NOP where
  v : BitVec 1
  pad : BitVec 7
  deriving DecidableEq, Repr, Inhabited

/-- CSR group (47 R822). -/
structure CSR where
  rt : BitVec 6
  ra : BitVec 6
  regno : BitVec 16
  pad : BitVec 4
  z : BitVec 1
  m : BitVec 3
  deriving DecidableEq, Repr, Inhabited

/-- 16-bit short format (47 R820). -/
structure S16 where
  pad : BitVec 7
  deriving DecidableEq, Repr, Inhabited

/-- SYS (47 R824). -/
structure SYS where
  cause : BitVec 8
  pad : BitVec 15
  deriving DecidableEq, Repr, Inhabited

/-- INT (47 R825). -/
structure INT where
  cause : BitVec 8
  lvl : BitVec 3
  pad : BitVec 12
  deriving DecidableEq, Repr, Inhabited

/-- OSR2 (47 R820); REX keeps Tm in the low bits of the Rt place (47 R843), RTE keeps Constant12 in the Ra and Rt places (47 R844). -/
structure OSR2 where
  rt : BitVec 6
  ra : BitVec 6
  rb : BitVec 6
  tb : BitVec 2
  pad : BitVec 8
  z : BitVec 1
  m : BitVec 3
  deriving DecidableEq, Repr, Inhabited

/-- Vector mask group: bits 17:9 as three 3-bit parts (48 R897). -/
structure VM where
  lo : BitVec 3
  mid : BitVec 3
  hi : BitVec 3
  b18 : BitVec 1
  pad : BitVec 8
  deriving DecidableEq, Repr, Inhabited

/-- VMSLL and VMSRL (48 R916, R917). Bit 19, the low bit of the function code that 30 R258 calls a selector of a register
or an immediate count, is the top bit of the amount, as 48 R916 and R917 and the opcode table draw it: DEDUCED
(log 51). -/
structure VMS where
  lo : BitVec 3
  mid : BitVec 3
  amount : BitVec 5
  pad : BitVec 8
  deriving DecidableEq, Repr, Inhabited

/-- VMFILL (48 R918). -/
structure VMF where
  vmt : BitVec 3
  mb : BitVec 6
  me : BitVec 6
  pad : BitVec 8
  deriving DecidableEq, Repr, Inhabited

/-- EXI7 (30 R264). -/
structure EXI7 where
  v : BitVec 1
  imm : BitVec 7
  deriving DecidableEq, Repr, Inhabited

/-- EXI23 (30 R265). -/
structure EXI23 where
  v : BitVec 1
  imm : BitVec 23
  deriving DecidableEq, Repr, Inhabited

/-- EXI41: bits 1:0 of the root are immediate bits (30 R266). -/
structure EXI41 where
  v : BitVec 1
  immHi : BitVec 39
  immLo : BitVec 2
  deriving DecidableEq, Repr, Inhabited

/-- EXI55 (30 R267). -/
structure EXI55 where
  v : BitVec 1
  imm : BitVec 55
  deriving DecidableEq, Repr, Inhabited

end Fmt

/-- The instructions: one constructor per row of the opcode table, in the table's order. -/
inductive Instr
  /-- EXI7 (30 R264) -/
  | exi7 (f : Fmt.EXI7)
  /-- EXI23 (30 R265) -/
  | exi23 (f : Fmt.EXI23)
  /-- EXI41 (30 R266) -/
  | exi41 (f : Fmt.EXI41)
  /-- EXI55 (30 R267) -/
  | exi55 (f : Fmt.EXI55)
  /-- ADD (40 R308) -/
  | add (f : Fmt.R3)
  /-- ADD (40 R307) -/
  | addS (f : Fmt.R2)
  /-- ADDI (40 R309) -/
  | addi (f : Fmt.RI)
  /-- ADDIL (40 R310) -/
  | addil (f : Fmt.RIL)
  /-- LDI (40 R311, alias of ADDI) -/
  | ldi (f : Fmt.RI)
  /-- SUB (40 R312) -/
  | sub (f : Fmt.R3)
  /-- SUBFI (40 R313) -/
  | subfi (f : Fmt.RI)
  /-- NEG (40 R314, alias of SUB) -/
  | neg (f : Fmt.R3)
  /-- MUL (40 R315) -/
  | mul (f : Fmt.R3)
  /-- MULH (40 R316) -/
  | mulh (f : Fmt.R3)
  /-- MULI (40 R317) -/
  | muli (f : Fmt.RI)
  /-- MULF (40 R318) -/
  | mulf (f : Fmt.R3)
  /-- MULFI (40 R319) -/
  | mulfi (f : Fmt.RI)
  /-- DIV (40 R320) -/
  | div (f : Fmt.R3)
  /-- DIVI (40 R321) -/
  | divi (f : Fmt.RI)
  /-- DIVIL (40 R322) -/
  | divil (f : Fmt.RIL)
  /-- DIVU (40 R323) -/
  | divu (f : Fmt.R3)
  /-- DIVUI (40 R324) -/
  | divui (f : Fmt.RI)
  /-- DIVSU (40 R325) -/
  | divsu (f : Fmt.R3)
  /-- PTRDIF (40 R327) -/
  | ptrdif (f : Fmt.R3)
  /-- DIF (40 R326, alias of PTRDIF) -/
  | dif (f : Fmt.R3)
  /-- ABS (40 R306, alias of PTRDIF) -/
  | abs (f : Fmt.R3)
  /-- MIN (40 R328) -/
  | min (f : Fmt.R3)
  /-- MAX (40 R329) -/
  | max (f : Fmt.R3)
  /-- CMP (40 R330) -/
  | cmp (f : Fmt.R3)
  /-- CMPI (40 R331) -/
  | cmpi (f : Fmt.RI)
  /-- CMPIL (40 R332) -/
  | cmpil (f : Fmt.RIL)
  /-- CMPU (40 R333) -/
  | cmpu (f : Fmt.R3)
  /-- CMPUI (40 R334) -/
  | cmpui (f : Fmt.RI)
  /-- CHK (40 R335) -/
  | chk (f : Fmt.R3)
  /-- CHKI (40 R336) -/
  | chki (f : Fmt.CHKI)
  /-- CMOVNZ (40 R337) -/
  | cmovnz (f : Fmt.R3)
  /-- CPUID (40 R338) -/
  | cpuid (f : Fmt.RI)
  /-- MKBOOL (40 R339, alias of CMOVNZ) -/
  | mkbool (f : Fmt.R3)
  /-- NOT (40 R340, alias of CMOVNZ) -/
  | not (f : Fmt.R3)
  /-- SEQ (40 R341) -/
  | seq (f : Fmt.R3)
  /-- SEQI (40 R342) -/
  | seqi (f : Fmt.RI)
  /-- SEQIL (40 R343) -/
  | seqil (f : Fmt.RIL)
  /-- SNE (40 R344) -/
  | sne (f : Fmt.R3)
  /-- SNEI (40 R345) -/
  | snei (f : Fmt.RI)
  /-- SNEIL (40 R346) -/
  | sneil (f : Fmt.RIL)
  /-- SLT (40 R347) -/
  | slt (f : Fmt.R3)
  /-- SLTI (40 R348) -/
  | slti (f : Fmt.RI)
  /-- SLTIL (40 R349) -/
  | sltil (f : Fmt.RIL)
  /-- SLTU (40 R350) -/
  | sltu (f : Fmt.R3)
  /-- SGE (40 R351) -/
  | sge (f : Fmt.R3)
  /-- SGEU (40 R352) -/
  | sgeu (f : Fmt.R3)
  /-- SGTI (40 R353) -/
  | sgti (f : Fmt.RI)
  /-- SGTIL (40 R354) -/
  | sgtil (f : Fmt.RIL)
  /-- SGTUI (40 R355) -/
  | sgtui (f : Fmt.RI)
  /-- SGTUIL (40 R356) -/
  | sgtuil (f : Fmt.RIL)
  /-- SLEI (40 R357, alias of SLTI) -/
  | slei (f : Fmt.RI)
  /-- AND (41 R400) -/
  | andS (f : Fmt.R2)
  /-- AND (41 R401) -/
  | and (f : Fmt.R3)
  /-- ANDC (41 R402) -/
  | andc (f : Fmt.R3)
  /-- OR (41 R403) -/
  | orS (f : Fmt.R2)
  /-- OR (41 R404) -/
  | or (f : Fmt.R3)
  /-- ORC (41 R405) -/
  | orc (f : Fmt.R3)
  /-- EOR (41 R406) -/
  | eorS (f : Fmt.R2)
  /-- EOR (41 R407) -/
  | eor (f : Fmt.R3)
  /-- ENOR (41 R408) -/
  | enor (f : Fmt.R3)
  /-- NAND (41 R409) -/
  | nand (f : Fmt.R3)
  /-- NOR (41 R410) -/
  | nor (f : Fmt.R3)
  /-- MUX (41 R411) -/
  | mux (f : Fmt.R3)
  /-- ANDI (41 R412) -/
  | andi (f : Fmt.RI)
  /-- ANDIL (41 R413) -/
  | andil (f : Fmt.RIL)
  /-- ORI (41 R414) -/
  | ori (f : Fmt.RI)
  /-- ORIL (41 R415) -/
  | oril (f : Fmt.RIL)
  /-- EORI (41 R416) -/
  | eori (f : Fmt.RI)
  /-- EORIL (41 R417) -/
  | eoril (f : Fmt.RIL)
  /-- SLL (41 R421) -/
  | sllS (f : Fmt.R2)
  /-- SLLP (41 R422) -/
  | sllp (f : Fmt.R3)
  /-- SRLP (41 R423) -/
  | srlp (f : Fmt.R3)
  /-- SRL (41 R424, alias of SRLP) -/
  | srl (f : Fmt.R3)
  /-- SRA (41 R425) -/
  | sra (f : Fmt.R3)
  /-- ROL (41 R426, alias of SLLP) -/
  | rol (f : Fmt.R3)
  /-- ROR (41 R427, alias of SRLP) -/
  | ror (f : Fmt.R3)
  /-- CNTLZ (41 R430) -/
  | cntlz (f : Fmt.R1)
  /-- CNTPOP (41 R431) -/
  | cntpop (f : Fmt.R1)
  /-- REVBIT (41 R432), Sz in bits 26:25 -/
  | revbit (sz : BitVec 2) (f : Fmt.R1)
  /-- MOR (41 R435) -/
  | mor (f : Fmt.R3)
  /-- MXOR (41 R435) -/
  | mxor (f : Fmt.R3)
  /-- MORT (41 R435) -/
  | mort (f : Fmt.R3)
  /-- MXORT (41 R435) -/
  | mxort (f : Fmt.R3)
  /-- BMAP (41 R436) -/
  | bmap (f : Fmt.R3P)
  /-- CLMUL (41 R437) -/
  | clmul (f : Fmt.R3)
  /-- CLMULH (41 R438) -/
  | clmulh (f : Fmt.R3)
  /-- BYTNDX (41 R440) -/
  | bytndx (f : Fmt.R3)
  /-- BYTNDXI (41 R442) -/
  | bytndxi (f : Fmt.RI)
  /-- WYDENDX (41 R443) -/
  | wydendx (f : Fmt.R3)
  /-- WYDENDXI (41 R444) -/
  | wydendxi (f : Fmt.RIL)
  /-- UTF21NDX (41 R445) -/
  | utf21ndx (f : Fmt.R3)
  /-- UTF21NDXI (41 R446) -/
  | utf21ndxi (f : Fmt.RIL)
  /-- BFALIGN (42 R483) -/
  | bfalign (f : Fmt.R3)
  /-- BFFFO (42 R484) -/
  | bfffo (f : Fmt.R3)
  /-- BFEXTU (42 R485) -/
  | bfextu (f : Fmt.R3)
  /-- BFEXT (42 R486) -/
  | bfext (f : Fmt.R3)
  /-- ANDM (42 R487) -/
  | andm (f : Fmt.R3)
  /-- BFSET (42 R488) -/
  | bfset (f : Fmt.R3)
  /-- BFCHG (42 R489) -/
  | bfchg (f : Fmt.R3)
  /-- BFCLR (42 R490) -/
  | bfclr (f : Fmt.R3)
  /-- COM (42 R491, alias of BFCHG) -/
  | com (f : Fmt.R3)
  /-- MOV (42 R492, alias of BFEXTU) -/
  | mov (f : Fmt.R3)
  /-- MOVSXB (42 R493, alias of BFEXT) -/
  | movsxb (f : Fmt.R3)
  /-- MOVSXW (42 R493, alias of BFEXT) -/
  | movsxw (f : Fmt.R3)
  /-- MOVSXT (42 R493, alias of BFEXT) -/
  | movsxt (f : Fmt.R3)
  /-- MOVZXB (42 R494, alias of BFEXTU) -/
  | movzxb (f : Fmt.R3)
  /-- MOVZXW (42 R494, alias of BFEXTU) -/
  | movzxw (f : Fmt.R3)
  /-- MOVZXT (42 R494, alias of BFEXTU) -/
  | movzxt (f : Fmt.R3)
  /-- BCDADD (42 R496) -/
  | bcdadd (f : Fmt.R3)
  /-- BCDSUB (42 R497) -/
  | bcdsub (f : Fmt.R3)
  /-- BCDMUL (42 R498) -/
  | bcdmul (f : Fmt.R3)
  /-- FABS (43 R530) -/
  | fabs (f : Fmt.R1)
  /-- FNEG (43 R531) -/
  | fneg (f : Fmt.R1)
  /-- FCLASS (43 R532) -/
  | fclass (f : Fmt.R1)
  /-- FFINITE (43 R533) -/
  | ffinite (f : Fmt.R1)
  /-- ISNAN (43 R534) -/
  | isnan (f : Fmt.R1)
  /-- FMAN (43 R535) -/
  | fman (f : Fmt.R1)
  /-- FSIGN (43 R535) -/
  | fsign (f : Fmt.R1)
  /-- FSQRT (43 R545) -/
  | fsqrt (f : Fmt.R1)
  /-- FRSQRTE (43 R546) -/
  | frsqrte (f : Fmt.R1)
  /-- FSIGMOID (43 R547) -/
  | fsigmoid (f : Fmt.R1)
  /-- FTOI (43 R550) -/
  | ftoi (f : Fmt.R1)
  /-- ITOF (43 R551) -/
  | itof (f : Fmt.R1)
  /-- FTRUNC (43 R552) -/
  | ftrunc (f : Fmt.R1)
  /-- FTX (43 R566) -/
  | ftx (f : Fmt.F1)
  /-- FCX (43 R567) -/
  | fcx (f : Fmt.F1)
  /-- FEX (43 R568) -/
  | fex (f : Fmt.F1)
  /-- FDX (43 R569) -/
  | fdx (f : Fmt.F1)
  /-- FRM (43 R570) -/
  | frm (f : Fmt.F1)
  /-- FSTAT (43 R571) -/
  | fstat (f : Fmt.F1)
  /-- FADD (43 R540) -/
  | fadd (f : Fmt.FR2)
  /-- FADD (43 R540) -/
  | faddL (f : Fmt.FR2L)
  /-- FSUB (43 R541) -/
  | fsub (f : Fmt.FR2)
  /-- FSUB (43 R541) -/
  | fsubL (f : Fmt.FR2L)
  /-- FMUL (43 R542) -/
  | fmul (f : Fmt.FR2)
  /-- FMUL (43 R542) -/
  | fmulL (f : Fmt.FR2L)
  /-- FDIV (43 R543) -/
  | fdiv (f : Fmt.FR2)
  /-- FDIV (43 R543) -/
  | fdivL (f : Fmt.FR2L)
  /-- FCMP (43 R556) -/
  | fcmp (f : Fmt.FR2)
  /-- FSEQ (43 R558) -/
  | fseq (f : Fmt.FR2)
  /-- FSLT (43 R560) -/
  | fslt (f : Fmt.FR2)
  /-- FSNE (43 R559) -/
  | fsne (f : Fmt.FR2)
  /-- FCMPB (43 R557) -/
  | fcmpb (f : Fmt.FR2)
  /-- FMA (43 R544) -/
  | fma (f : Fmt.FR3)
  /-- FMS (43 R544) -/
  | fms (f : Fmt.FR3)
  /-- FNMA (43 R544) -/
  | fnma (f : Fmt.FR3)
  /-- FNMS (43 R544) -/
  | fnms (f : Fmt.FR3)
  /-- DFABS (44 R605) -/
  | dfabs (f : Fmt.R1)
  /-- DFNEG (44 R606) -/
  | dfneg (f : Fmt.R1)
  /-- DFMAN (44 R607) -/
  | dfman (f : Fmt.R1)
  /-- DFSIGN (44 R608) -/
  | dfsign (f : Fmt.R1)
  /-- DFTOI (44 R620) -/
  | dftoi (f : Fmt.R1)
  /-- ITODF (44 R621) -/
  | itodf (f : Fmt.R1)
  /-- DFTX (44 R630) -/
  | dftx (f : Fmt.F1)
  /-- DFCX (44 R630) -/
  | dfcx (f : Fmt.F1)
  /-- DFEX (44 R630) -/
  | dfex (f : Fmt.F1)
  /-- DFDX (44 R630) -/
  | dfdx (f : Fmt.F1)
  /-- DFRM (44 R630) -/
  | dfrm (f : Fmt.F1)
  /-- DFSTAT (44 R630) -/
  | dfstat (f : Fmt.F1)
  /-- DFADD (44 R610) -/
  | dfadd (f : Fmt.FR2)
  /-- DFADD (44 R610) -/
  | dfaddL (f : Fmt.FR2L)
  /-- DFSUB (44 R611) -/
  | dfsub (f : Fmt.FR2)
  /-- DFSUB (44 R611) -/
  | dfsubL (f : Fmt.FR2L)
  /-- DFMUL (44 R612) -/
  | dfmul (f : Fmt.FR2)
  /-- DFMUL (44 R612) -/
  | dfmulL (f : Fmt.FR2L)
  /-- DFDIV (44 R613) -/
  | dfdiv (f : Fmt.FR2)
  /-- DFDIV (44 R613) -/
  | dfdivL (f : Fmt.FR2L)
  /-- DFCMP (44 R625) -/
  | dfcmp (f : Fmt.FR2)
  /-- DFCMPB (44 R626) -/
  | dfcmpb (f : Fmt.FR2)
  /-- DFMA (44 R614) -/
  | dfma (f : Fmt.R3)
  /-- DFMA (44 R614) -/
  | dfmaL (f : Fmt.FR3L)
  /-- DFMS (44 R614) -/
  | dfms (f : Fmt.R3)
  /-- DFMS (44 R614) -/
  | dfmsL (f : Fmt.FR3L)
  /-- DFNMA (44 R614) -/
  | dfnma (f : Fmt.R3)
  /-- DFNMA (44 R614) -/
  | dfnmaL (f : Fmt.FR3L)
  /-- DFNMS (44 R614) -/
  | dfnms (f : Fmt.R3)
  /-- DFNMS (44 R614) -/
  | dfnmsL (f : Fmt.FR3L)
  /-- LDB (45 R670) -/
  | ldb (f : Fmt.LSD)
  /-- LDBU (45 R671) -/
  | ldbu (f : Fmt.LSD)
  /-- LDW (45 R672) -/
  | ldw (f : Fmt.LSD)
  /-- LDWU (45 R673) -/
  | ldwu (f : Fmt.LSD)
  /-- LDT (45 R674) -/
  | ldt (f : Fmt.LSD)
  /-- LDTU (45 R675) -/
  | ldtu (f : Fmt.LSD)
  /-- LDO (45 R676) -/
  | ldo (f : Fmt.LSD)
  /-- LLAL (45 R700) -/
  | llal (f : Fmt.LSD)
  /-- LLAH (45 R700) -/
  | llah (f : Fmt.LSD)
  /-- STB (45 R705) -/
  | stb (f : Fmt.LSD)
  /-- STW (45 R706) -/
  | stw (f : Fmt.LSD)
  /-- STT (45 R707) -/
  | stt (f : Fmt.LSD)
  /-- STO (45 R708) -/
  | sto (f : Fmt.LSD)
  /-- STOC (45 R716) -/
  | stoc (f : Fmt.LSD)
  /-- LDOS (45 R677) -/
  | ldos (f : Fmt.LSDS)
  /-- STOS (45 R709) -/
  | stos (f : Fmt.LSDS)
  /-- CACHE (45 R725) -/
  | cache (f : Fmt.LSD)
  /-- LDBX (45 R680) -/
  | ldbx (f : Fmt.LSX)
  /-- LDBUX (45 R681) -/
  | ldbux (f : Fmt.LSX)
  /-- LDWX (45 R682) -/
  | ldwx (f : Fmt.LSX)
  /-- LDWUX (45 R683) -/
  | ldwux (f : Fmt.LSX)
  /-- LDTX (45 R684) -/
  | ldtx (f : Fmt.LSX)
  /-- LDTUX (45 R685) -/
  | ldtux (f : Fmt.LSX)
  /-- LDOX (45 R686) -/
  | ldox (f : Fmt.LSX)
  /-- LLALX (45 R701) -/
  | llalx (f : Fmt.LSX)
  /-- LLAHX (45 R701) -/
  | llahx (f : Fmt.LSX)
  /-- STBX (45 R710) -/
  | stbx (f : Fmt.LSX)
  /-- STWX (45 R711) -/
  | stwx (f : Fmt.LSX)
  /-- STTX (45 R712) -/
  | sttx (f : Fmt.LSX)
  /-- STOX (45 R713) -/
  | stox (f : Fmt.LSX)
  /-- STOCX (45 R718) -/
  | stocx (f : Fmt.LSX)
  /-- CACHEX (45 R726) -/
  | cachex (f : Fmt.LSX)
  /-- STWL (45 R714) -/
  | stwl (f : Fmt.LSR)
  /-- STTL (45 R714) -/
  | sttl (f : Fmt.LSR)
  /-- STOL (45 R714) -/
  | stol (f : Fmt.LSR)
  /-- STOCL (45 R717) -/
  | stocl (f : Fmt.LSR)
  /-- LIN2PHL (45 R702) -/
  | lin2phl (f : Fmt.R3)
  /-- LIN2PHH (45 R702) -/
  | lin2phh (f : Fmt.R3)
  /-- BBC (46 R750) -/
  | bbc (f : Fmt.BR)
  /-- BBS (46 R751) -/
  | bbs (f : Fmt.BR)
  /-- BEQ (46 R752) -/
  | beq (f : Fmt.BR)
  /-- BNE (46 R753) -/
  | bne (f : Fmt.BR)
  /-- BLT (46 R754) -/
  | blt (f : Fmt.BR)
  /-- BGE (46 R755) -/
  | bge (f : Fmt.BR)
  /-- BLE (46 R756) -/
  | ble (f : Fmt.BR)
  /-- BGT (46 R757) -/
  | bgt (f : Fmt.BR)
  /-- BLTU (46 R758) -/
  | bltu (f : Fmt.BR)
  /-- BGEU (46 R759) -/
  | bgeu (f : Fmt.BR)
  /-- BLEU (46 R760) -/
  | bleu (f : Fmt.BR)
  /-- BGTU (46 R761) -/
  | bgtu (f : Fmt.BR)
  /-- BEQZ (46 R765) -/
  | beqz (f : Fmt.BZ)
  /-- BNEZ (46 R766) -/
  | bnez (f : Fmt.BZ)
  /-- JMP (46 R772) -/
  | jmp (f : Fmt.JMP)
  /-- BRA (46 R770, alias of JMP) -/
  | bra (f : Fmt.JMP)
  /-- BSR (46 R771, alias of JMP) -/
  | bsr (f : Fmt.JMP)
  /-- JSR (46 R773, alias of JMP) -/
  | jsr (f : Fmt.JMP)
  /-- DBRA (46 R781) -/
  | dbra (f : Fmt.JMP)
  /-- DBBC (46 R782) -/
  | dbbc (f : Fmt.BR)
  /-- DBBS (46 R783) -/
  | dbbs (f : Fmt.BR)
  /-- DBEQ (46 R784) -/
  | dbeq (f : Fmt.BR)
  /-- DBNE (46 R785) -/
  | dbne (f : Fmt.BR)
  /-- DBLT (46 R786) -/
  | dblt (f : Fmt.BR)
  /-- DBGE (46 R787) -/
  | dbge (f : Fmt.BR)
  /-- DBLE (46 R788) -/
  | dble (f : Fmt.BR)
  /-- DBGT (46 R789) -/
  | dbgt (f : Fmt.BR)
  /-- DBLTU (46 R790) -/
  | dbltu (f : Fmt.BR)
  /-- DBGEU (46 R791) -/
  | dbgeu (f : Fmt.BR)
  /-- DBLEU (46 R792) -/
  | dbleu (f : Fmt.BR)
  /-- DBGTU (46 R793) -/
  | dbgtu (f : Fmt.BR)
  /-- JGATE (46 R800) -/
  | jgate (f : Fmt.JGATE)
  /-- RTS (46 R805) -/
  | rts (f : Fmt.RTS)
  /-- NOP (46 R810) -/
  | nop (f : Fmt.NOP)
  /-- CSRRD (47 R822) -/
  | csrrd (f : Fmt.CSR)
  /-- CSRRW (47 R822) -/
  | csrrw (f : Fmt.CSR)
  /-- CSRRS (47 R822) -/
  | csrrs (f : Fmt.CSR)
  /-- CSRRC (47 R822) -/
  | csrrc (f : Fmt.CSR)
  /-- BRK (47 R823) -/
  | brk (f : Fmt.S16)
  /-- SYS (47 R824) -/
  | sys (f : Fmt.SYS)
  /-- INT (47 R825) -/
  | int (f : Fmt.INT)
  /-- DI (47 R826) -/
  | di (f : Fmt.OSR2)
  /-- PFI (47 R827) -/
  | pfi (f : Fmt.OSR2)
  /-- SEI (47 R828) -/
  | sei (f : Fmt.OSR2)
  /-- WFI (47 R829) -/
  | wfi (f : Fmt.S16)
  /-- MEMDB (47 R830) -/
  | memdb (f : Fmt.S16)
  /-- MEMSB (47 R831) -/
  | memsb (f : Fmt.S16)
  /-- SYNC (47 R848) -/
  | sync (f : Fmt.S16)
  /-- MFSEL (47 R832) -/
  | mfsel (f : Fmt.OSR2)
  /-- MTSEL (47 R833) -/
  | mtsel (f : Fmt.OSR2)
  /-- PUSHQ (47 R836) -/
  | pushq (f : Fmt.OSR2)
  /-- POPQ (47 R837) -/
  | popq (f : Fmt.OSR2)
  /-- PEEKQ (47 R838) -/
  | peekq (f : Fmt.OSR2)
  /-- STATQ (47 R839) -/
  | statq (f : Fmt.OSR2)
  /-- RESETQ (47 R840) -/
  | resetq (f : Fmt.OSR2)
  /-- REX (47 R843) -/
  | rex (f : Fmt.OSR2)
  /-- RTE (47 R844) -/
  | rte (f : Fmt.OSR2)
  /-- TLBRW (47 R850) -/
  | tlbrw (f : Fmt.OSR2)
  /-- V2BITS (48 R885) -/
  | v2bits (f : Fmt.R3)
  /-- VBITS2V (48 R890, alias of CMOVNZ) -/
  | vbits2vC (f : Fmt.R3)
  /-- VBITS2V (48 R890) -/
  | vbits2v (f : Fmt.R3)
  /-- VGIDX (48 R891) -/
  | vgidx (f : Fmt.R3)
  /-- VCMPRSS (48 R892) -/
  | vcmprss (f : Fmt.R1)
  /-- VEINS (48 R893) -/
  | veins (f : Fmt.R3)
  /-- VEX (48 R894) -/
  | vex (f : Fmt.R3)
  /-- VSCAN (48 R895) -/
  | vscan (f : Fmt.R1)
  /-- VSLLV (48 R896) -/
  | vsllv (f : Fmt.R3)
  /-- VSRLV (48 R896) -/
  | vsrlv (f : Fmt.R3)
  /-- MTVM (48 R897) -/
  | mtvm (f : Fmt.VM)
  /-- MFVM (48 R898) -/
  | mfvm (f : Fmt.VM)
  /-- MTVL (48 R899) -/
  | mtvl (f : Fmt.VM)
  /-- MFVL (48 R900) -/
  | mfvl (f : Fmt.VM)
  /-- VMADD (48 R905) -/
  | vmadd (f : Fmt.VM)
  /-- VMSUB (48 R906) -/
  | vmsub (f : Fmt.VM)
  /-- VMAND (48 R907) -/
  | vmand (f : Fmt.VM)
  /-- VMOR (48 R908) -/
  | vmor (f : Fmt.VM)
  /-- VMXOR (48 R909) -/
  | vmxor (f : Fmt.VM)
  /-- VMCNTPOP (48 R913) -/
  | vmcntpop (f : Fmt.VM)
  /-- VMFIRST (48 R914) -/
  | vmfirst (f : Fmt.VM)
  /-- VMLAST (48 R915) -/
  | vmlast (f : Fmt.VM)
  /-- VMSLL (48 R916) -/
  | vmsll (f : Fmt.VMS)
  /-- VMSRL (48 R917) -/
  | vmsrl (f : Fmt.VMS)
  /-- VMFILL (48 R918) -/
  | vmfill (f : Fmt.VMF)
  /-- AES64DS (49 R930) -/
  | aes64ds (f : Fmt.R3)
  /-- AES64DSM (49 R930) -/
  | aes64dsm (f : Fmt.R3)
  /-- AES64ES (49 R930) -/
  | aes64es (f : Fmt.R3)
  /-- AES64ESM (49 R930) -/
  | aes64esm (f : Fmt.R3)
  /-- SHA256SIG0 (49 R932) -/
  | sha256sig0 (f : Fmt.R1)
  /-- SHA256SIG1 (49 R933) -/
  | sha256sig1 (f : Fmt.R1)
  /-- SHA256SUM0 (49 R934) -/
  | sha256sum0 (f : Fmt.R1)
  /-- SHA256SUM1 (49 R935) -/
  | sha256sum1 (f : Fmt.R1)
  /-- SHA512SIG0 (49 R936) -/
  | sha512sig0 (f : Fmt.R1)
  /-- SHA512SIG1 (49 R937) -/
  | sha512sig1 (f : Fmt.R1)
  /-- SHA512SUM0 (49 R938) -/
  | sha512sum0 (f : Fmt.R1)
  /-- SHA512SUM1 (49 R938) -/
  | sha512sum1 (f : Fmt.R1)
  /-- SM3P0 (49 R939) -/
  | sm3p0 (f : Fmt.R1)
  /-- SM3P1 (49 R939) -/
  | sm3p1 (f : Fmt.R1)
  /-- SM4ED (49 R940) -/
  | sm4ed (f : Fmt.R3P)
  /-- SM4KS (49 R940) -/
  | sm4ks (f : Fmt.R3P)
  /-- NNA_TRIG (49 R952) -/
  | nnaTrig (f : Fmt.R1)
  /-- NNA_STAT (49 R953) -/
  | nnaStat (f : Fmt.R1)
  /-- NNA_MFACT (49 R954) -/
  | nnaMfact (f : Fmt.R1)
  /-- NNA_MTWT (49 R955) -/
  | nnaMtwt (f : Fmt.R3)
  /-- NNA_MTIN (49 R956) -/
  | nnaMtin (f : Fmt.R3)
  /-- NNA_MTBIAS (49 R957) -/
  | nnaMtbias (f : Fmt.R3)
  /-- NNA_MTFB (49 R958) -/
  | nnaMtfb (f : Fmt.R3)
  /-- NNA_MTMC (49 R959) -/
  | nnaMtmc (f : Fmt.R3)
  /-- NNA_MTBC (49 R960) -/
  | nnaMtbc (f : Fmt.R3)
  /-- BLEND (49 R975) -/
  | blend (f : Fmt.R3P)
  /-- CLIP (49 R976) -/
  | clip (f : Fmt.R1)
  /-- TRANSFORM (49 R977) -/
  | transform (f : Fmt.R1)
  /-- RW_COEFF (49 R978) -/
  | rwCoeff (f : Fmt.R3)
  deriving DecidableEq, Repr

end Sys2Proof
end

