-- ==== Sys2Proof/Decode.lean ====
section
/-! DEFINITION. Decoding and encoding (30_encoding R240 to R286). An instruction of n bytes is one little-endian
integer of 8n bits (R240); it is held here in a 64-bit word whose bits above 8n are zero. `decodeWord` is total and
rejects by name; `encode` is written from the same tables. Words that an alias names (30 R291) decode to the alias's
own constructor; SLEI names no word of its own and is only encoded (40 R357). -/

namespace Sys2Proof

/-- Why bytes are not an instruction. All but `tooShort` and `reservedCsrOp` are the UNIMP of 30 R285. -/
inductive Reject
  /-- Fewer bytes than the root opcode asks for. -/
  | tooShort
  /-- A root opcode outside 30 R243. -/
  | unimplementedRoot (root : BitVec 8)
  /-- A function code outside 30 R255 to R261, or bit 8 clear where the row fixes it to 1. -/
  | unimplementedFunction (root : BitVec 8) (func : Nat)
  /-- Bit 8 set in a format that fixes it to 0 (48 R881). -/
  | vectorBit (root : BitVec 8)
  /-- A CSR instruction with O3 in 4..7 (93 U38). -/
  | reservedCsrOp
  deriving DecidableEq, Repr

/-- The answer of the decoder. -/
inductive Decoded (α : Type)
  | ok (a : α)
  | reject (r : Reject)
  deriving DecidableEq, Repr

/-! ### Fields of a word -/

/-- `x[lo + width - 1 : lo]` of an instruction word (00 R8). -/
abbrev fieldAt (w : Word) (lo width : Nat) : BitVec width := w.extractLsb' lo width

/-- The root opcode, bits 7:0 (30 R240). -/
abbrev rootOf (w : Word) : BitVec 8 := fieldAt w 0 8

/-- Bit 8, the vector indicator (30 R244). -/
abbrev vectorBitOf (w : Word) : BitVec 1 := fieldAt w 8 1

namespace Fmt

/-- The fields of R1 cut out of a word. -/
def R1.ofWord (w : Word) : R1 where
  v := fieldAt w 8 1
  rt := fieldAt w 9 6
  ra := fieldAt w 15 6
  z := fieldAt w 21 1
  m := fieldAt w 22 3

/-- The 32 bits of R1, most significant field first. -/
def R1.bits (op : BitVec 8) (fn : BitVec 7) (f : R1) : BitVec 32 :=
  fn ++ f.m ++ f.z ++ f.ra ++ f.rt ++ f.v ++ op

/-- The instruction as one integer, zero-extended to 64 bits. -/
def R1.word (op : BitVec 8) (fn : BitVec 7) (f : R1) : Word :=
  (f.bits op fn).setWidth 64

/-- The fields of R2 cut out of a word. -/
def R2.ofWord (w : Word) : R2 where
  v := fieldAt w 8 1
  rt := fieldAt w 9 6
  ra := fieldAt w 15 6
  rb := fieldAt w 21 6
  tb := fieldAt w 27 1
  z := fieldAt w 28 1
  m := fieldAt w 29 3

/-- The 32 bits of R2, most significant field first. -/
def R2.bits (op : BitVec 8) (f : R2) : BitVec 32 :=
  f.m ++ f.z ++ f.tb ++ f.rb ++ f.ra ++ f.rt ++ f.v ++ op

/-- The instruction as one integer, zero-extended to 64 bits. -/
def R2.word (op : BitVec 8) (f : R2) : Word :=
  (f.bits op).setWidth 64

/-- The fields of R3 cut out of a word. -/
def R3.ofWord (w : Word) : R3 where
  v := fieldAt w 8 1
  rt := fieldAt w 9 6
  ra := fieldAt w 15 6
  rb := fieldAt w 21 6
  tb := fieldAt w 27 2
  rc := fieldAt w 29 6
  tc := fieldAt w 35 2
  z := fieldAt w 37 1
  m := fieldAt w 38 3

/-- The 48 bits of R3, most significant field first. -/
def R3.bits (op : BitVec 8) (fn : BitVec 7) (f : R3) : BitVec 48 :=
  fn ++ f.m ++ f.z ++ f.tc ++ f.rc ++ f.tb ++ f.rb ++ f.ra ++ f.rt ++ f.v ++ op

/-- The instruction as one integer, zero-extended to 64 bits. -/
def R3.word (op : BitVec 8) (fn : BitVec 7) (f : R3) : Word :=
  (f.bits op fn).setWidth 64

/-- The fields of R3P cut out of a word. Bits 47:41 are kept for the check that they are zero (30 R254); for BMAP, whose
Func7 they are, that is log 52. -/
def R3P.ofWord (w : Word) : R3P where
  v := fieldAt w 8 1
  rt := fieldAt w 9 6
  ra := fieldAt w 15 6
  rb := fieldAt w 21 6
  tb := fieldAt w 27 2
  rc := fieldAt w 29 6
  tc := fieldAt w 35 2
  z := fieldAt w 37 1
  m := fieldAt w 38 3
  pad := fieldAt w 41 7

/-- The 48 bits of R3P, most significant field first. -/
def R3P.bits (op : BitVec 8) (f : R3P) : BitVec 48 :=
  f.pad ++ f.m ++ f.z ++ f.tc ++ f.rc ++ f.tb ++ f.rb ++ f.ra ++ f.rt ++ f.v ++ op

/-- The instruction as one integer, zero-extended to 64 bits. -/
def R3P.word (op : BitVec 8) (f : R3P) : Word :=
  (f.bits op).setWidth 64

/-- The fields of RI cut out of a word. -/
def RI.ofWord (w : Word) : RI where
  v := fieldAt w 8 1
  rt := fieldAt w 9 6
  ra := fieldAt w 15 6
  imm := fieldAt w 21 11

/-- The 32 bits of RI, most significant field first. -/
def RI.bits (op : BitVec 8) (f : RI) : BitVec 32 :=
  f.imm ++ f.ra ++ f.rt ++ f.v ++ op

/-- The instruction as one integer, zero-extended to 64 bits. -/
def RI.word (op : BitVec 8) (f : RI) : Word :=
  (f.bits op).setWidth 64

/-- The fields of RIL cut out of a word. -/
def RIL.ofWord (w : Word) : RIL where
  v := fieldAt w 8 1
  rt := fieldAt w 9 6
  ra := fieldAt w 15 6
  imm := fieldAt w 21 23
  z := fieldAt w 44 1
  m := fieldAt w 45 3

/-- The 48 bits of RIL, most significant field first. -/
def RIL.bits (op : BitVec 8) (f : RIL) : BitVec 48 :=
  f.m ++ f.z ++ f.imm ++ f.ra ++ f.rt ++ f.v ++ op

/-- The instruction as one integer, zero-extended to 64 bits. -/
def RIL.word (op : BitVec 8) (f : RIL) : Word :=
  (f.bits op).setWidth 64

/-- The fields of CHKI cut out of a word. -/
def CHKI.ofWord (w : Word) : CHKI where
  v := fieldAt w 8 1
  cn := fieldAt w 9 3
  immLo := fieldAt w 12 3
  ra := fieldAt w 15 6
  rb := fieldAt w 21 6
  tb := fieldAt w 27 2
  immHi := fieldAt w 29 19

/-- The 48 bits of CHKI, most significant field first. -/
def CHKI.bits (op : BitVec 8) (f : CHKI) : BitVec 48 :=
  f.immHi ++ f.tb ++ f.rb ++ f.ra ++ f.immLo ++ f.cn ++ f.v ++ op

/-- The instruction as one integer, zero-extended to 64 bits. -/
def CHKI.word (op : BitVec 8) (f : CHKI) : Word :=
  (f.bits op).setWidth 64

/-- The fields of F1 cut out of a word. -/
def F1.ofWord (w : Word) : F1 where
  u := fieldAt w 9 6
  ra := fieldAt w 15 6
  pad := fieldAt w 21 4

/-- The 32 bits of F1, most significant field first. -/
def F1.bits (op : BitVec 8) (fn : BitVec 7) (f : F1) : BitVec 32 :=
  fn ++ f.pad ++ f.ra ++ f.u ++ 0#1 ++ op

/-- The instruction as one integer, zero-extended to 64 bits. -/
def F1.word (op : BitVec 8) (fn : BitVec 7) (f : F1) : Word :=
  (f.bits op fn).setWidth 64

/-- The fields of FR2 cut out of a word. -/
def FR2.ofWord (w : Word) : FR2 where
  v := fieldAt w 8 1
  rt := fieldAt w 9 6
  ra := fieldAt w 15 6
  rb := fieldAt w 21 6
  tb := fieldAt w 27 2
  z := fieldAt w 29 1
  m := fieldAt w 30 3
  pad := fieldAt w 40 8

/-- The 48 bits of FR2, most significant field first. -/
def FR2.bits (op : BitVec 8) (fn : BitVec 7) (f : FR2) : BitVec 48 :=
  f.pad ++ fn ++ f.m ++ f.z ++ f.tb ++ f.rb ++ f.ra ++ f.rt ++ f.v ++ op

/-- The instruction as one integer, zero-extended to 64 bits. -/
def FR2.word (op : BitVec 8) (fn : BitVec 7) (f : FR2) : Word :=
  (f.bits op fn).setWidth 64

/-- The fields of FR2L cut out of a word. -/
def FR2L.ofWord (w : Word) : FR2L where
  v := fieldAt w 8 1
  rt := fieldAt w 9 6
  ra := fieldAt w 15 6
  rb := fieldAt w 21 6
  tb := fieldAt w 27 2
  z := fieldAt w 29 1
  m := fieldAt w 30 3
  rm := fieldAt w 33 3
  pad := fieldAt w 36 5

/-- The 48 bits of FR2L, most significant field first. -/
def FR2L.bits (op : BitVec 8) (fn : BitVec 7) (f : FR2L) : BitVec 48 :=
  fn ++ f.pad ++ f.rm ++ f.m ++ f.z ++ f.tb ++ f.rb ++ f.ra ++ f.rt ++ f.v ++ op

/-- The instruction as one integer, zero-extended to 64 bits. -/
def FR2L.word (op : BitVec 8) (fn : BitVec 7) (f : FR2L) : Word :=
  (f.bits op fn).setWidth 64

/-- The fields of FR3 cut out of a word. -/
def FR3.ofWord (w : Word) : FR3 where
  v := fieldAt w 8 1
  rt := fieldAt w 9 6
  ra := fieldAt w 15 6
  rb := fieldAt w 21 6
  tb := fieldAt w 27 2
  rc := fieldAt w 29 6
  tc := fieldAt w 35 2
  z := fieldAt w 37 1
  m := fieldAt w 38 3
  rm := fieldAt w 41 3

/-- The 48 bits of FR3, most significant field first. -/
def FR3.bits (op : BitVec 8) (fn : BitVec 4) (f : FR3) : BitVec 48 :=
  fn ++ f.rm ++ f.m ++ f.z ++ f.tc ++ f.rc ++ f.tb ++ f.rb ++ f.ra ++ f.rt ++ f.v ++ op

/-- The instruction as one integer, zero-extended to 64 bits. -/
def FR3.word (op : BitVec 8) (fn : BitVec 4) (f : FR3) : Word :=
  (f.bits op fn).setWidth 64

/-- The fields of FR3L cut out of a word. -/
def FR3L.ofWord (w : Word) : FR3L where
  v := fieldAt w 8 1
  rt := fieldAt w 9 6
  ra := fieldAt w 15 6
  rb := fieldAt w 21 6
  tb := fieldAt w 27 2
  rc := fieldAt w 29 6
  tc := fieldAt w 35 2
  z := fieldAt w 37 1
  m := fieldAt w 38 3
  rm := fieldAt w 41 3
  padLo := fieldAt w 44 5
  padHi := fieldAt w 56 8

/-- The 64 bits of FR3L, most significant field first. -/
def FR3L.bits (op : BitVec 8) (fn : BitVec 7) (f : FR3L) : BitVec 64 :=
  f.padHi ++ fn ++ f.padLo ++ f.rm ++ f.m ++ f.z ++ f.tc ++ f.rc ++ f.tb ++ f.rb ++ f.ra ++ f.rt ++ f.v ++ op

/-- The instruction as one integer, zero-extended to 64 bits. -/
def FR3L.word (op : BitVec 8) (fn : BitVec 7) (f : FR3L) : Word :=
  f.bits op fn

/-- The fields of LSD cut out of a word. -/
def LSD.ofWord (w : Word) : LSD where
  rt := fieldAt w 9 6
  ra := fieldAt w 15 6
  disp := fieldAt w 21 24
  sel := fieldAt w 45 3

/-- The 48 bits of LSD, most significant field first. -/
def LSD.bits (op : BitVec 8) (f : LSD) : BitVec 48 :=
  f.sel ++ f.disp ++ f.ra ++ f.rt ++ 0#1 ++ op

/-- The instruction as one integer, zero-extended to 64 bits. -/
def LSD.word (op : BitVec 8) (f : LSD) : Word :=
  (f.bits op).setWidth 64

/-- The fields of LSDS cut out of a word. -/
def LSDS.ofWord (w : Word) : LSDS where
  rt := fieldAt w 9 6
  ra := fieldAt w 15 6
  disp := fieldAt w 21 8
  sel := fieldAt w 29 3

/-- The 32 bits of LSDS, most significant field first. -/
def LSDS.bits (op : BitVec 8) (f : LSDS) : BitVec 32 :=
  f.sel ++ f.disp ++ f.ra ++ f.rt ++ 0#1 ++ op

/-- The instruction as one integer, zero-extended to 64 bits. -/
def LSDS.word (op : BitVec 8) (f : LSDS) : Word :=
  (f.bits op).setWidth 64

/-- The fields of LSX cut out of a word. -/
def LSX.ofWord (w : Word) : LSX where
  v := fieldAt w 8 1
  rt := fieldAt w 9 6
  ra := fieldAt w 15 6
  rb := fieldAt w 21 6
  tb := fieldAt w 27 2
  sc := fieldAt w 29 3
  sel := fieldAt w 32 3
  disp := fieldAt w 35 8
  c := fieldAt w 43 1
  z := fieldAt w 44 1
  m := fieldAt w 45 3

/-- The 48 bits of LSX, most significant field first. -/
def LSX.bits (op : BitVec 8) (f : LSX) : BitVec 48 :=
  f.m ++ f.z ++ f.c ++ f.disp ++ f.sel ++ f.sc ++ f.tb ++ f.rb ++ f.ra ++ f.rt ++ f.v ++ op

/-- The instruction as one integer, zero-extended to 64 bits. -/
def LSX.word (op : BitVec 8) (f : LSX) : Word :=
  (f.bits op).setWidth 64

/-- The fields of LSR cut out of a word. -/
def LSR.ofWord (w : Word) : LSR where
  dispLo := fieldAt w 9 6
  ra := fieldAt w 15 6
  rb := fieldAt w 21 6
  tb := fieldAt w 27 2
  dispHi := fieldAt w 29 16
  sel := fieldAt w 45 3

/-- The 48 bits of LSR, most significant field first. -/
def LSR.bits (op : BitVec 8) (f : LSR) : BitVec 48 :=
  f.sel ++ f.dispHi ++ f.tb ++ f.rb ++ f.ra ++ f.dispLo ++ 0#1 ++ op

/-- The instruction as one integer, zero-extended to 64 bits. -/
def LSR.word (op : BitVec 8) (f : LSR) : Word :=
  (f.bits op).setWidth 64

/-- The fields of BR cut out of a word. -/
def BR.ofWord (w : Word) : BR where
  lk := fieldAt w 9 2
  tgt := fieldAt w 11 4
  ra := fieldAt w 15 6
  rb := fieldAt w 21 6
  tb := fieldAt w 27 2
  ca := fieldAt w 29 3
  target := fieldAt w 32 16

/-- The 48 bits of BR, most significant field first. -/
def BR.bits (op : BitVec 8) (f : BR) : BitVec 48 :=
  f.target ++ f.ca ++ f.tb ++ f.rb ++ f.ra ++ f.tgt ++ f.lk ++ 0#1 ++ op

/-- The instruction as one integer, zero-extended to 64 bits. -/
def BR.word (op : BitVec 8) (f : BR) : Word :=
  (f.bits op).setWidth 64

/-- The fields of BZ cut out of a word. -/
def BZ.ofWord (w : Word) : BZ where
  lk := fieldAt w 9 2
  tgtLo := fieldAt w 11 4
  ra := fieldAt w 15 6
  tgtHi := fieldAt w 21 8
  ca := fieldAt w 29 3

/-- The 32 bits of BZ, most significant field first. -/
def BZ.bits (op : BitVec 8) (f : BZ) : BitVec 32 :=
  f.ca ++ f.tgtHi ++ f.ra ++ f.tgtLo ++ f.lk ++ 0#1 ++ op

/-- The instruction as one integer, zero-extended to 64 bits. -/
def BZ.word (op : BitVec 8) (f : BZ) : Word :=
  (f.bits op).setWidth 64

/-- The fields of JMP cut out of a word. -/
def JMP.ofWord (w : Word) : JMP where
  lk := fieldAt w 9 2
  targetLo := fieldAt w 11 18
  ca := fieldAt w 29 3
  targetHi := fieldAt w 32 16

/-- The 48 bits of JMP, most significant field first. -/
def JMP.bits (op : BitVec 8) (f : JMP) : BitVec 48 :=
  f.targetHi ++ f.ca ++ f.targetLo ++ f.lk ++ 0#1 ++ op

/-- The instruction as one integer, zero-extended to 64 bits. -/
def JMP.word (op : BitVec 8) (f : JMP) : Word :=
  (f.bits op).setWidth 64

/-- The fields of JGATE cut out of a word. -/
def JGATE.ofWord (w : Word) : JGATE where
  lk := fieldAt w 9 2
  selector := fieldAt w 11 32
  pad := fieldAt w 43 5

/-- The 48 bits of JGATE, most significant field first. -/
def JGATE.bits (op : BitVec 8) (f : JGATE) : BitVec 48 :=
  f.pad ++ f.selector ++ f.lk ++ 0#1 ++ op

/-- The instruction as one integer, zero-extended to 64 bits. -/
def JGATE.word (op : BitVec 8) (f : JGATE) : Word :=
  (f.bits op).setWidth 64

/-- The fields of RTS cut out of a word. -/
def RTS.ofWord (w : Word) : RTS where
  lk := fieldAt w 9 2
  const6 := fieldAt w 11 6
  const15 := fieldAt w 17 15

/-- The 32 bits of RTS, most significant field first. -/
def RTS.bits (op : BitVec 8) (f : RTS) : BitVec 32 :=
  f.const15 ++ f.const6 ++ f.lk ++ 0#1 ++ op

/-- The instruction as one integer, zero-extended to 64 bits. -/
def RTS.word (op : BitVec 8) (f : RTS) : Word :=
  (f.bits op).setWidth 64

/-- The fields of NOP cut out of a word. -/
def NOP.ofWord (w : Word) : NOP where
  v := fieldAt w 8 1
  pad := fieldAt w 9 7

/-- The 16 bits of NOP, most significant field first. -/
def NOP.bits (op : BitVec 8) (f : NOP) : BitVec 16 :=
  f.pad ++ f.v ++ op

/-- The instruction as one integer, zero-extended to 64 bits. -/
def NOP.word (op : BitVec 8) (f : NOP) : Word :=
  (f.bits op).setWidth 64

/-- The fields of CSR cut out of a word. -/
def CSR.ofWord (w : Word) : CSR where
  rt := fieldAt w 9 6
  ra := fieldAt w 15 6
  regno := fieldAt w 21 16
  pad := fieldAt w 37 4
  z := fieldAt w 44 1
  m := fieldAt w 45 3

/-- The 48 bits of CSR, most significant field first. -/
def CSR.bits (op : BitVec 8) (fn : BitVec 3) (f : CSR) : BitVec 48 :=
  f.m ++ f.z ++ fn ++ f.pad ++ f.regno ++ f.ra ++ f.rt ++ 0#1 ++ op

/-- The instruction as one integer, zero-extended to 64 bits. -/
def CSR.word (op : BitVec 8) (fn : BitVec 3) (f : CSR) : Word :=
  (f.bits op fn).setWidth 64

/-- The fields of S16 cut out of a word. -/
def S16.ofWord (w : Word) : S16 where
  pad := fieldAt w 9 7

/-- The 16 bits of S16, most significant field first. -/
def S16.bits (op : BitVec 8) (f : S16) : BitVec 16 :=
  f.pad ++ 0#1 ++ op

/-- The instruction as one integer, zero-extended to 64 bits. -/
def S16.word (op : BitVec 8) (f : S16) : Word :=
  (f.bits op).setWidth 64

/-- The fields of SYS cut out of a word. -/
def SYS.ofWord (w : Word) : SYS where
  cause := fieldAt w 9 8
  pad := fieldAt w 17 15

/-- The 32 bits of SYS, most significant field first. -/
def SYS.bits (op : BitVec 8) (f : SYS) : BitVec 32 :=
  f.pad ++ f.cause ++ 0#1 ++ op

/-- The instruction as one integer, zero-extended to 64 bits. -/
def SYS.word (op : BitVec 8) (f : SYS) : Word :=
  (f.bits op).setWidth 64

/-- The fields of INT cut out of a word. -/
def INT.ofWord (w : Word) : INT where
  cause := fieldAt w 9 8
  lvl := fieldAt w 17 3
  pad := fieldAt w 20 12

/-- The 32 bits of INT, most significant field first. -/
def INT.bits (op : BitVec 8) (f : INT) : BitVec 32 :=
  f.pad ++ f.lvl ++ f.cause ++ 0#1 ++ op

/-- The instruction as one integer, zero-extended to 64 bits. -/
def INT.word (op : BitVec 8) (f : INT) : Word :=
  (f.bits op).setWidth 64

/-- The fields of OSR2 cut out of a word. -/
def OSR2.ofWord (w : Word) : OSR2 where
  rt := fieldAt w 9 6
  ra := fieldAt w 15 6
  rb := fieldAt w 21 6
  tb := fieldAt w 27 2
  pad := fieldAt w 29 8
  z := fieldAt w 37 1
  m := fieldAt w 38 3

/-- The 48 bits of OSR2, most significant field first. -/
def OSR2.bits (op : BitVec 8) (fn : BitVec 7) (f : OSR2) : BitVec 48 :=
  fn ++ f.m ++ f.z ++ f.pad ++ f.tb ++ f.rb ++ f.ra ++ f.rt ++ 0#1 ++ op

/-- The instruction as one integer, zero-extended to 64 bits. -/
def OSR2.word (op : BitVec 8) (fn : BitVec 7) (f : OSR2) : Word :=
  (f.bits op fn).setWidth 64

/-- The fields of VM cut out of a word. -/
def VM.ofWord (w : Word) : VM where
  lo := fieldAt w 9 3
  mid := fieldAt w 12 3
  hi := fieldAt w 15 3
  b18 := fieldAt w 18 1
  pad := fieldAt w 24 8

/-- The 32 bits of VM, most significant field first. -/
def VM.bits (op : BitVec 8) (fn : BitVec 5) (f : VM) : BitVec 32 :=
  f.pad ++ fn ++ f.b18 ++ f.hi ++ f.mid ++ f.lo ++ 0#1 ++ op

/-- The instruction as one integer, zero-extended to 64 bits. -/
def VM.word (op : BitVec 8) (fn : BitVec 5) (f : VM) : Word :=
  (f.bits op fn).setWidth 64

/-- The fields of VMS cut out of a word: bits 19:15 are the amount, bit 19 among them (48 R916, R917; 30 R258 has it select
a register or an immediate: DEDUCED, log 51). -/
def VMS.ofWord (w : Word) : VMS where
  lo := fieldAt w 9 3
  mid := fieldAt w 12 3
  amount := fieldAt w 15 5
  pad := fieldAt w 24 8

/-- The 32 bits of VMS, most significant field first. -/
def VMS.bits (op : BitVec 8) (fn : BitVec 4) (f : VMS) : BitVec 32 :=
  f.pad ++ fn ++ f.amount ++ f.mid ++ f.lo ++ 0#1 ++ op

/-- The instruction as one integer, zero-extended to 64 bits. -/
def VMS.word (op : BitVec 8) (fn : BitVec 4) (f : VMS) : Word :=
  (f.bits op fn).setWidth 64

/-- The fields of VMF cut out of a word. -/
def VMF.ofWord (w : Word) : VMF where
  vmt := fieldAt w 9 3
  mb := fieldAt w 12 6
  me := fieldAt w 18 6
  pad := fieldAt w 24 8

/-- The 32 bits of VMF, most significant field first. -/
def VMF.bits (op : BitVec 8) (f : VMF) : BitVec 32 :=
  f.pad ++ f.me ++ f.mb ++ f.vmt ++ 0#1 ++ op

/-- The instruction as one integer, zero-extended to 64 bits. -/
def VMF.word (op : BitVec 8) (f : VMF) : Word :=
  (f.bits op).setWidth 64

/-- The fields of EXI7 cut out of a word. -/
def EXI7.ofWord (w : Word) : EXI7 where
  v := fieldAt w 8 1
  imm := fieldAt w 9 7

/-- The 16 bits of EXI7, most significant field first. -/
def EXI7.bits (op : BitVec 8) (f : EXI7) : BitVec 16 :=
  f.imm ++ f.v ++ op

/-- The instruction as one integer, zero-extended to 64 bits. -/
def EXI7.word (op : BitVec 8) (f : EXI7) : Word :=
  (f.bits op).setWidth 64

/-- The fields of EXI23 cut out of a word. -/
def EXI23.ofWord (w : Word) : EXI23 where
  v := fieldAt w 8 1
  imm := fieldAt w 9 23

/-- The 32 bits of EXI23, most significant field first. -/
def EXI23.bits (op : BitVec 8) (f : EXI23) : BitVec 32 :=
  f.imm ++ f.v ++ op

/-- The instruction as one integer, zero-extended to 64 bits. -/
def EXI23.word (op : BitVec 8) (f : EXI23) : Word :=
  (f.bits op).setWidth 64

/-- The fields of EXI41 cut out of a word. -/
def EXI41.ofWord (w : Word) : EXI41 where
  v := fieldAt w 8 1
  immHi := fieldAt w 9 39
  immLo := fieldAt w 0 2

/-- The 48 bits of EXI41, most significant field first. -/
def EXI41.bits (f : EXI41) : BitVec 48 :=
  f.immHi ++ f.v ++ 0x1F#6 ++ f.immLo

/-- The instruction as one integer, zero-extended to 64 bits. -/
def EXI41.word (f : EXI41) : Word :=
  (f.bits).setWidth 64

/-- The fields of EXI55 cut out of a word. -/
def EXI55.ofWord (w : Word) : EXI55 where
  v := fieldAt w 8 1
  imm := fieldAt w 9 55

/-- The 64 bits of EXI55, most significant field first. -/
def EXI55.bits (op : BitVec 8) (f : EXI55) : BitVec 64 :=
  f.imm ++ f.v ++ op

/-- The instruction as one integer, zero-extended to 64 bits. -/
def EXI55.word (op : BitVec 8) (f : EXI55) : Word :=
  f.bits op

end Fmt

/-! ### Lengths -/

/-- length(root) in bytes (30 R243). -/
def lengthOf (root : BitVec 8) : Option Nat :=
  match root.toNat with
  | 0x00 => some 2
  | 0x01 => some 4
  | 0x02 => some 6
  | 0x04 => some 4
  | 0x05 => some 4
  | 0x06 => some 4
  | 0x07 => some 6
  | 0x08 => some 4
  | 0x09 => some 4
  | 0x0A => some 4
  | 0x0F => some 6
  | 0x10 => some 4
  | 0x12 => some 4
  | 0x14 => some 6
  | 0x15 => some 4
  | 0x16 => some 4
  | 0x17 => some 4
  | 0x18 => some 4
  | 0x19 => some 4
  | 0x1A => some 4
  | 0x1B => some 4
  | 0x1D => some 4
  | 0x1E => some 4
  | 0x1F => some 4
  | 0x20 => some 6
  | 0x24 => some 6
  | 0x25 => some 6
  | 0x26 => some 6
  | 0x27 => some 6
  | 0x28 => some 6
  | 0x29 => some 6
  | 0x2A => some 6
  | 0x2B => some 6
  | 0x2C => some 6
  | 0x2D => some 6
  | 0x2E => some 6
  | 0x2F => some 6
  | 0x30 => some 6
  | 0x34 => some 6
  | 0x35 => some 6
  | 0x36 => some 6
  | 0x37 => some 6
  | 0x38 => some 6
  | 0x39 => some 6
  | 0x3A => some 6
  | 0x3B => some 6
  | 0x3C => some 6
  | 0x3D => some 6
  | 0x3E => some 6
  | 0x3F => some 6
  | 0x40 => some 4
  | 0x41 => some 4
  | 0x42 => some 6
  | 0x44 => some 6
  | 0x45 => some 6
  | 0x46 => some 2
  | 0x47 => some 4
  | 0x49 => some 8
  | 0x4C => some 6
  | 0x4F => some 4
  | 0x50 => some 4
  | 0x52 => some 4
  | 0x53 => some 4
  | 0x55 => some 4
  | 0x56 => some 6
  | 0x57 => some 6
  | 0x58 => some 4
  | 0x5E => some 6
  | 0x5F => some 6
  | 0x60 => some 4
  | 0x61 => some 4
  | 0x62 => some 6
  | 0x63 => some 6
  | 0x65 => some 4
  | 0x66 => some 6
  | 0x67 => some 6
  | 0x72 => some 6
  | 0x76 => some 6
  | 0x77 => some 8
  | 0x7C => some 6
  | 0x7D => some 6
  | 0x7E => some 6
  | 0x7F => some 6
  | 0x80 => some 6
  | 0x81 => some 6
  | 0x82 => some 6
  | 0x83 => some 6
  | 0x84 => some 6
  | 0x85 => some 6
  | 0x86 => some 6
  | 0x87 => some 4
  | 0x88 => some 6
  | 0x89 => some 6
  | 0x90 => some 6
  | 0x91 => some 6
  | 0x92 => some 6
  | 0x93 => some 6
  | 0x94 => some 6
  | 0x95 => some 4
  | 0x9F => some 6
  | 0xA5 => some 4
  | 0xA6 => some 4
  | 0xAA => some 6
  | 0xB0 => some 6
  | 0xB1 => some 6
  | 0xB2 => some 6
  | 0xB3 => some 6
  | 0xB4 => some 6
  | 0xB5 => some 6
  | 0xB6 => some 6
  | 0xB8 => some 6
  | 0xB9 => some 6
  | 0xC0 => some 6
  | 0xC1 => some 6
  | 0xC2 => some 6
  | 0xC3 => some 6
  | 0xC4 => some 6
  | 0xCF => some 6
  | 0xD0 => some 6
  | 0xD3 => some 6
  | 0xD4 => some 6
  | 0xD6 => some 6
  | 0xD7 => some 6
  | 0xD8 => some 6
  | 0xD9 => some 6
  | 0xDA => some 6
  | 0xDB => some 6
  | 0xDF => some 6
  | 0xE1 => some 6
  | 0xE2 => some 6
  | 0xE3 => some 6
  | 0xE4 => some 6
  | 0xF1 => some 2
  | 0xF2 => some 4
  | 0xF5 => some 6
  | 0xF7 => some 2
  | 0xF8 => some 2
  | 0xF9 => some 2
  | 0xFA => some 2
  | _ => none

/-! ### Decoding -/

/-- A row that fixes bit 8 to 0 (48 R881). -/
def scalarOnly (w : Word) (i : Instr) : Decoded Instr :=
  if vectorBitOf w = 0#1 then .ok i else .reject (.vectorBit (rootOf w))

/-- A row with function code n that fixes bit 8 to 1. -/
def vectorOnly (w : Word) (n : Nat) (i : Instr) : Decoded Instr :=
  if vectorBitOf w = 1#1 then .ok i else .reject (.unimplementedFunction (rootOf w) n)

/-! ### Decoding

The sections below are noncomputable because Lean's code generator cannot build a constructor numbered above 244 (log
40); the kernel evaluates them. -/

noncomputable section

/-- The function codes of root 01h. -/
def decodeGroup01 (w : Word) : Decoded Instr :=
  match (fieldAt w 25 7).toNat with
  | 0x00 => .ok (.cntlz (Fmt.R1.ofWord w))
  | 0x02 => .ok (.cntpop (Fmt.R1.ofWord w))
  | 0x28 => .ok (.revbit 0#2 (Fmt.R1.ofWord w))
  | 0x29 => .ok (.revbit 1#2 (Fmt.R1.ofWord w))
  | 0x2A => .ok (.revbit 2#2 (Fmt.R1.ofWord w))
  | 0x2B => .ok (.revbit 3#2 (Fmt.R1.ofWord w))
  | 0x2C => vectorOnly w 0x2C (.vcmprss (Fmt.R1.ofWord w))
  | 0x1E => vectorOnly w 0x1E (.vscan (Fmt.R1.ofWord w))
  | 0x30 => .ok (.sha256sig0 (Fmt.R1.ofWord w))
  | 0x31 => .ok (.sha256sig1 (Fmt.R1.ofWord w))
  | 0x32 => .ok (.sha256sum0 (Fmt.R1.ofWord w))
  | 0x33 => .ok (.sha256sum1 (Fmt.R1.ofWord w))
  | 0x34 => .ok (.sha512sig0 (Fmt.R1.ofWord w))
  | 0x35 => .ok (.sha512sig1 (Fmt.R1.ofWord w))
  | 0x36 => .ok (.sha512sum0 (Fmt.R1.ofWord w))
  | 0x37 => .ok (.sha512sum1 (Fmt.R1.ofWord w))
  | 0x38 => .ok (.sm3p0 (Fmt.R1.ofWord w))
  | 0x39 => .ok (.sm3p1 (Fmt.R1.ofWord w))
  | 0x60 => .ok (.nnaTrig (Fmt.R1.ofWord w))
  | 0x61 => .ok (.nnaStat (Fmt.R1.ofWord w))
  | 0x62 => .ok (.nnaMfact (Fmt.R1.ofWord w))
  | 0x20 => .ok (.clip (Fmt.R1.ofWord w))
  | 0x11 => .ok (.transform (Fmt.R1.ofWord w))
  | n => .reject (.unimplementedFunction (rootOf w) n)

/-- The function codes of root 02h. -/
def decodeGroup02 (w : Word) : Decoded Instr :=
  match (fieldAt w 41 7).toNat with
  | 0x04 => .ok (.add (Fmt.R3.ofWord w))
  | 0x05 => .ok (.sub (Fmt.R3.ofWord w))
  | 0x06 => .ok (.mul (Fmt.R3.ofWord w))
  | 0x0F => .ok (.mulh (Fmt.R3.ofWord w))
  | 0x15 => .ok (.mulf (Fmt.R3.ofWord w))
  | 0x10 => .ok (.div (Fmt.R3.ofWord w))
  | 0x11 => .ok (.divu (Fmt.R3.ofWord w))
  | 0x12 => .ok (.divsu (Fmt.R3.ofWord w))
  | 0x14 => .ok (.ptrdif (Fmt.R3.ofWord w))
  | 0x28 => .ok (.min (Fmt.R3.ofWord w))
  | 0x29 => .ok (.max (Fmt.R3.ofWord w))
  | 0x2A => .ok (.cmp (Fmt.R3.ofWord w))
  | 0x2B => .ok (.cmpu (Fmt.R3.ofWord w))
  | 0x19 => .ok (.chk (Fmt.R3.ofWord w))
  | 0x2D => .ok (.cmovnz (Fmt.R3.ofWord w))
  | 0x26 => .ok (.seq (Fmt.R3.ofWord w))
  | 0x27 => .ok (.sne (Fmt.R3.ofWord w))
  | 0x20 => .ok (.slt (Fmt.R3.ofWord w))
  | 0x22 => .ok (.sltu (Fmt.R3.ofWord w))
  | 0x21 => .ok (.sge (Fmt.R3.ofWord w))
  | 0x23 => .ok (.sgeu (Fmt.R3.ofWord w))
  | 0x08 => .ok (.and (Fmt.R3.ofWord w))
  | 0x0B => .ok (.andc (Fmt.R3.ofWord w))
  | 0x09 => .ok (.or (Fmt.R3.ofWord w))
  | 0x03 => .ok (.orc (Fmt.R3.ofWord w))
  | 0x0A => .ok (.eor (Fmt.R3.ofWord w))
  | 0x02 => .ok (.enor (Fmt.R3.ofWord w))
  | 0x00 => .ok (.nand (Fmt.R3.ofWord w))
  | 0x01 => .ok (.nor (Fmt.R3.ofWord w))
  | 0x34 => .ok (.mux (Fmt.R3.ofWord w))
  | 0x40 => .ok (.sllp (Fmt.R3.ofWord w))
  | 0x41 => .ok (.srlp (Fmt.R3.ofWord w))
  | 0x42 => .ok (.sra (Fmt.R3.ofWord w))
  | 0x30 => .ok (.mor (Fmt.R3.ofWord w))
  | 0x31 => .ok (.mxor (Fmt.R3.ofWord w))
  | 0x32 => .ok (.mort (Fmt.R3.ofWord w))
  | 0x33 => .ok (.mxort (Fmt.R3.ofWord w))
  | 0x2E => .ok (.clmul (Fmt.R3.ofWord w))
  | 0x2F => .ok (.clmulh (Fmt.R3.ofWord w))
  | 0x1A => .ok (.bytndx (Fmt.R3.ofWord w))
  | 0x1B => .ok (.wydendx (Fmt.R3.ofWord w))
  | 0x1C => .ok (.utf21ndx (Fmt.R3.ofWord w))
  | 0x36 => .ok (.lin2phl (Fmt.R3.ofWord w))
  | 0x37 => .ok (.lin2phh (Fmt.R3.ofWord w))
  | 0x3D => .ok (.v2bits (Fmt.R3.ofWord w))
  | 0x3E => vectorOnly w 0x3E (.vbits2v (Fmt.R3.ofWord w))
  | 0x3C => .ok (.vgidx (Fmt.R3.ofWord w))
  | 0x3B => .ok (.veins (Fmt.R3.ofWord w))
  | 0x3A => .ok (.vex (Fmt.R3.ofWord w))
  | 0x38 => vectorOnly w 0x38 (.vsllv (Fmt.R3.ofWord w))
  | 0x39 => vectorOnly w 0x39 (.vsrlv (Fmt.R3.ofWord w))
  | 0x50 => .ok (.aes64ds (Fmt.R3.ofWord w))
  | 0x51 => .ok (.aes64dsm (Fmt.R3.ofWord w))
  | 0x52 => .ok (.aes64es (Fmt.R3.ofWord w))
  | 0x53 => .ok (.aes64esm (Fmt.R3.ofWord w))
  | 0x60 => .ok (.nnaMtwt (Fmt.R3.ofWord w))
  | 0x61 => .ok (.nnaMtin (Fmt.R3.ofWord w))
  | 0x62 => .ok (.nnaMtbias (Fmt.R3.ofWord w))
  | 0x63 => .ok (.nnaMtfb (Fmt.R3.ofWord w))
  | 0x64 => .ok (.nnaMtmc (Fmt.R3.ofWord w))
  | 0x65 => .ok (.nnaMtbc (Fmt.R3.ofWord w))
  | 0x77 => .ok (.rwCoeff (Fmt.R3.ofWord w))
  | n => .reject (.unimplementedFunction (rootOf w) n)

/-- The function codes of root 07h. -/
def decodeGroup07 (w : Word) : Decoded Instr :=
  match (fieldAt w 41 7).toNat with
  | 0x16 => scalarOnly w (.di (Fmt.OSR2.ofWord w))
  | 0x11 => scalarOnly w (.pfi (Fmt.OSR2.ofWord w))
  | 0x17 => scalarOnly w (.sei (Fmt.OSR2.ofWord w))
  | 0x28 => scalarOnly w (.mfsel (Fmt.OSR2.ofWord w))
  | 0x29 => scalarOnly w (.mtsel (Fmt.OSR2.ofWord w))
  | 0x08 => scalarOnly w (.pushq (Fmt.OSR2.ofWord w))
  | 0x09 => scalarOnly w (.popq (Fmt.OSR2.ofWord w))
  | 0x0A => scalarOnly w (.peekq (Fmt.OSR2.ofWord w))
  | 0x0B => scalarOnly w (.statq (Fmt.OSR2.ofWord w))
  | 0x0C => scalarOnly w (.resetq (Fmt.OSR2.ofWord w))
  | 0x10 => scalarOnly w (.rex (Fmt.OSR2.ofWord w))
  | 0x13 => scalarOnly w (.rte (Fmt.OSR2.ofWord w))
  | 0x1E => scalarOnly w (.tlbrw (Fmt.OSR2.ofWord w))
  | n => .reject (.unimplementedFunction (rootOf w) n)

/-- The function codes of root 0Fh. -/
def decodeGroup0F (w : Word) : Decoded Instr :=
  match (fieldAt w 41 3).toNat with
  | 0x00 => scalarOnly w (.csrrd (Fmt.CSR.ofWord w))
  | 0x01 => scalarOnly w (.csrrw (Fmt.CSR.ofWord w))
  | 0x02 => scalarOnly w (.csrrs (Fmt.CSR.ofWord w))
  | 0x03 => scalarOnly w (.csrrc (Fmt.CSR.ofWord w))
  | _ => if vectorBitOf w = 1#1 then .reject (.vectorBit (rootOf w)) else .reject .reservedCsrOp

/-- The function codes of root 52h. -/
def decodeGroup52 (w : Word) : Decoded Instr :=
  match (fieldAt w 19 5).toNat with
  | 0x10 => scalarOnly w (.mtvm (Fmt.VM.ofWord w))
  | 0x11 => scalarOnly w (.mfvm (Fmt.VM.ofWord w))
  | 0x12 => scalarOnly w (.mtvl (Fmt.VM.ofWord w))
  | 0x13 => scalarOnly w (.mfvl (Fmt.VM.ofWord w))
  | 0x04 => scalarOnly w (.vmadd (Fmt.VM.ofWord w))
  | 0x05 => scalarOnly w (.vmsub (Fmt.VM.ofWord w))
  | 0x08 => scalarOnly w (.vmand (Fmt.VM.ofWord w))
  | 0x09 => scalarOnly w (.vmor (Fmt.VM.ofWord w))
  | 0x0A => scalarOnly w (.vmxor (Fmt.VM.ofWord w))
  | 0x0D => scalarOnly w (.vmcntpop (Fmt.VM.ofWord w))
  | 0x0E => scalarOnly w (.vmfirst (Fmt.VM.ofWord w))
  | 0x0F => scalarOnly w (.vmlast (Fmt.VM.ofWord w))
  | 0x1C => scalarOnly w (.vmsll (Fmt.VMS.ofWord w))
  | 0x1D => scalarOnly w (.vmsll (Fmt.VMS.ofWord w))
  | 0x1E => scalarOnly w (.vmsrl (Fmt.VMS.ofWord w))
  | 0x1F => scalarOnly w (.vmsrl (Fmt.VMS.ofWord w))
  | n => .reject (.unimplementedFunction (rootOf w) n)

/-- The function codes of root 61h. -/
def decodeGroup61 (w : Word) : Decoded Instr :=
  match (fieldAt w 25 7).toNat with
  | 0x20 => .ok (.fabs (Fmt.R1.ofWord w))
  | 0x22 => .ok (.fneg (Fmt.R1.ofWord w))
  | 0x1E => .ok (.fclass (Fmt.R1.ofWord w))
  | 0x0F => .ok (.ffinite (Fmt.R1.ofWord w))
  | 0x0E => .ok (.isnan (Fmt.R1.ofWord w))
  | 0x07 => .ok (.fman (Fmt.R1.ofWord w))
  | 0x06 => .ok (.fsign (Fmt.R1.ofWord w))
  | 0x08 => .ok (.fsqrt (Fmt.R1.ofWord w))
  | 0x01 => .ok (.frsqrte (Fmt.R1.ofWord w))
  | 0x28 => .ok (.fsigmoid (Fmt.R1.ofWord w))
  | 0x02 => .ok (.ftoi (Fmt.R1.ofWord w))
  | 0x03 => .ok (.itof (Fmt.R1.ofWord w))
  | 0x15 => .ok (.ftrunc (Fmt.R1.ofWord w))
  | 0x10 => scalarOnly w (.ftx (Fmt.F1.ofWord w))
  | 0x11 => scalarOnly w (.fcx (Fmt.F1.ofWord w))
  | 0x12 => scalarOnly w (.fex (Fmt.F1.ofWord w))
  | 0x13 => scalarOnly w (.fdx (Fmt.F1.ofWord w))
  | 0x14 => scalarOnly w (.frm (Fmt.F1.ofWord w))
  | 0x0C => scalarOnly w (.fstat (Fmt.F1.ofWord w))
  | n => .reject (.unimplementedFunction (rootOf w) n)

/-- The function codes of root 62h. -/
def decodeGroup62 (w : Word) : Decoded Instr :=
  match (fieldAt w 33 7).toNat with
  | 0x04 => .ok (.fadd (Fmt.FR2.ofWord w))
  | 0x05 => .ok (.fsub (Fmt.FR2.ofWord w))
  | 0x08 => .ok (.fmul (Fmt.FR2.ofWord w))
  | 0x09 => .ok (.fdiv (Fmt.FR2.ofWord w))
  | 0x10 => .ok (.fcmp (Fmt.FR2.ofWord w))
  | 0x11 => .ok (.fseq (Fmt.FR2.ofWord w))
  | 0x12 => .ok (.fslt (Fmt.FR2.ofWord w))
  | 0x14 => .ok (.fsne (Fmt.FR2.ofWord w))
  | 0x15 => .ok (.fcmpb (Fmt.FR2.ofWord w))
  | n => .reject (.unimplementedFunction (rootOf w) n)

/-- The function codes of root 63h. -/
def decodeGroup63 (w : Word) : Decoded Instr :=
  match (fieldAt w 44 4).toNat with
  | 0x00 => .ok (.fma (Fmt.FR3.ofWord w))
  | 0x01 => .ok (.fms (Fmt.FR3.ofWord w))
  | 0x02 => .ok (.fnma (Fmt.FR3.ofWord w))
  | 0x03 => .ok (.fnms (Fmt.FR3.ofWord w))
  | n => .reject (.unimplementedFunction (rootOf w) n)

/-- The function codes of root 65h. -/
def decodeGroup65 (w : Word) : Decoded Instr :=
  match (fieldAt w 25 7).toNat with
  | 0x20 => .ok (.dfabs (Fmt.R1.ofWord w))
  | 0x22 => .ok (.dfneg (Fmt.R1.ofWord w))
  | 0x07 => .ok (.dfman (Fmt.R1.ofWord w))
  | 0x06 => .ok (.dfsign (Fmt.R1.ofWord w))
  | 0x02 => .ok (.dftoi (Fmt.R1.ofWord w))
  | 0x03 => .ok (.itodf (Fmt.R1.ofWord w))
  | 0x10 => scalarOnly w (.dftx (Fmt.F1.ofWord w))
  | 0x11 => scalarOnly w (.dfcx (Fmt.F1.ofWord w))
  | 0x12 => scalarOnly w (.dfex (Fmt.F1.ofWord w))
  | 0x13 => scalarOnly w (.dfdx (Fmt.F1.ofWord w))
  | 0x14 => scalarOnly w (.dfrm (Fmt.F1.ofWord w))
  | 0x0C => scalarOnly w (.dfstat (Fmt.F1.ofWord w))
  | n => .reject (.unimplementedFunction (rootOf w) n)

/-- The function codes of root 66h. -/
def decodeGroup66 (w : Word) : Decoded Instr :=
  match (fieldAt w 33 7).toNat with
  | 0x04 => .ok (.dfadd (Fmt.FR2.ofWord w))
  | 0x05 => .ok (.dfsub (Fmt.FR2.ofWord w))
  | 0x08 => .ok (.dfmul (Fmt.FR2.ofWord w))
  | 0x09 => .ok (.dfdiv (Fmt.FR2.ofWord w))
  | 0x10 => .ok (.dfcmp (Fmt.FR2.ofWord w))
  | 0x15 => .ok (.dfcmpb (Fmt.FR2.ofWord w))
  | n => .reject (.unimplementedFunction (rootOf w) n)

/-- The function codes of root 67h. -/
def decodeGroup67 (w : Word) : Decoded Instr :=
  match (fieldAt w 41 7).toNat with
  | 0x00 => .ok (.dfma (Fmt.R3.ofWord w))
  | 0x01 => .ok (.dfms (Fmt.R3.ofWord w))
  | 0x02 => .ok (.dfnma (Fmt.R3.ofWord w))
  | 0x03 => .ok (.dfnms (Fmt.R3.ofWord w))
  | n => .reject (.unimplementedFunction (rootOf w) n)

/-- The function codes of root 72h. -/
def decodeGroup72 (w : Word) : Decoded Instr :=
  match (fieldAt w 41 7).toNat with
  | 0x04 => .ok (.faddL (Fmt.FR2L.ofWord w))
  | 0x05 => .ok (.fsubL (Fmt.FR2L.ofWord w))
  | 0x08 => .ok (.fmulL (Fmt.FR2L.ofWord w))
  | 0x09 => .ok (.fdivL (Fmt.FR2L.ofWord w))
  | n => .reject (.unimplementedFunction (rootOf w) n)

/-- The function codes of root 76h. -/
def decodeGroup76 (w : Word) : Decoded Instr :=
  match (fieldAt w 41 7).toNat with
  | 0x04 => .ok (.dfaddL (Fmt.FR2L.ofWord w))
  | 0x05 => .ok (.dfsubL (Fmt.FR2L.ofWord w))
  | 0x08 => .ok (.dfmulL (Fmt.FR2L.ofWord w))
  | 0x09 => .ok (.dfdivL (Fmt.FR2L.ofWord w))
  | n => .reject (.unimplementedFunction (rootOf w) n)

/-- The function codes of root 77h. -/
def decodeGroup77 (w : Word) : Decoded Instr :=
  match (fieldAt w 49 7).toNat with
  | 0x00 => .ok (.dfmaL (Fmt.FR3L.ofWord w))
  | 0x01 => .ok (.dfmsL (Fmt.FR3L.ofWord w))
  | 0x02 => .ok (.dfnmaL (Fmt.FR3L.ofWord w))
  | 0x03 => .ok (.dfnmsL (Fmt.FR3L.ofWord w))
  | n => .reject (.unimplementedFunction (rootOf w) n)

/-- The function codes of root AAh. -/
def decodeGroupAA (w : Word) : Decoded Instr :=
  match (fieldAt w 41 7).toNat with
  | 0x00 => .ok (.bfalign (Fmt.R3.ofWord w))
  | 0x01 => .ok (.bfffo (Fmt.R3.ofWord w))
  | 0x04 => .ok (.bfextu (Fmt.R3.ofWord w))
  | 0x05 => .ok (.bfext (Fmt.R3.ofWord w))
  | 0x08 => .ok (.andm (Fmt.R3.ofWord w))
  | 0x09 => .ok (.bfset (Fmt.R3.ofWord w))
  | 0x0A => .ok (.bfchg (Fmt.R3.ofWord w))
  | 0x0B => .ok (.bfclr (Fmt.R3.ofWord w))
  | n => .reject (.unimplementedFunction (rootOf w) n)

/-- The function codes of root F5h. -/
def decodeGroupF5 (w : Word) : Decoded Instr :=
  match (fieldAt w 41 7).toNat with
  | 0x00 => .ok (.bcdadd (Fmt.R3.ofWord w))
  | 0x01 => .ok (.bcdsub (Fmt.R3.ofWord w))
  | 0x02 => .ok (.bcdmul (Fmt.R3.ofWord w))
  | n => .reject (.unimplementedFunction (rootOf w) n)

/-- Decoding to the core instructions, aliases not yet named (30 R242 step 6). ADDI, MULI and MULFI have the vector form
of their format, although their pages draw bit 8 as 0 (30 R244, R248, log 47). Root 4Ch is BMAP with every Func7: a
nonzero one is an ill-formed BMAP, not an unimplemented function (DEDUCED, log 52). -/
def decodeCore (w : Word) : Decoded Instr :=
  match (rootOf w).toNat with
  | 0x00 => scalarOnly w (.brk (Fmt.S16.ofWord w))
  | 0x01 => decodeGroup01 w
  | 0x02 => decodeGroup02 w
  | 0x04 => .ok (.addi (Fmt.RI.ofWord w))
  | 0x05 => .ok (.subfi (Fmt.RI.ofWord w))
  | 0x06 => .ok (.muli (Fmt.RI.ofWord w))
  | 0x07 => decodeGroup07 w
  | 0x08 => .ok (.andi (Fmt.RI.ofWord w))
  | 0x09 => .ok (.ori (Fmt.RI.ofWord w))
  | 0x0A => .ok (.eori (Fmt.RI.ofWord w))
  | 0x0F => decodeGroup0F w
  | 0x10 => scalarOnly w (.beqz (Fmt.BZ.ofWord w))
  | 0x12 => scalarOnly w (.bnez (Fmt.BZ.ofWord w))
  | 0x14 => scalarOnly w (.jgate (Fmt.JGATE.ofWord w))
  | 0x15 => .ok (.mulfi (Fmt.RI.ofWord w))
  | 0x16 => .ok (.seqi (Fmt.RI.ofWord w))
  | 0x17 => .ok (.snei (Fmt.RI.ofWord w))
  | 0x18 => .ok (.slti (Fmt.RI.ofWord w))
  | 0x19 => .ok (.addS (Fmt.R2.ofWord w))
  | 0x1A => .ok (.andS (Fmt.R2.ofWord w))
  | 0x1B => .ok (.sgti (Fmt.RI.ofWord w))
  | 0x1D => .ok (.orS (Fmt.R2.ofWord w))
  | 0x1E => .ok (.eorS (Fmt.R2.ofWord w))
  | 0x1F => .ok (.sgtui (Fmt.RI.ofWord w))
  | 0x20 => scalarOnly w (.jmp (Fmt.JMP.ofWord w))
  | 0x24 => scalarOnly w (.bbc (Fmt.BR.ofWord w))
  | 0x25 => scalarOnly w (.bbs (Fmt.BR.ofWord w))
  | 0x26 => scalarOnly w (.beq (Fmt.BR.ofWord w))
  | 0x27 => scalarOnly w (.bne (Fmt.BR.ofWord w))
  | 0x28 => scalarOnly w (.blt (Fmt.BR.ofWord w))
  | 0x29 => scalarOnly w (.bge (Fmt.BR.ofWord w))
  | 0x2A => scalarOnly w (.ble (Fmt.BR.ofWord w))
  | 0x2B => scalarOnly w (.bgt (Fmt.BR.ofWord w))
  | 0x2C => scalarOnly w (.bltu (Fmt.BR.ofWord w))
  | 0x2D => scalarOnly w (.bgeu (Fmt.BR.ofWord w))
  | 0x2E => scalarOnly w (.bleu (Fmt.BR.ofWord w))
  | 0x2F => scalarOnly w (.bgtu (Fmt.BR.ofWord w))
  | 0x30 => scalarOnly w (.dbra (Fmt.JMP.ofWord w))
  | 0x34 => scalarOnly w (.dbbc (Fmt.BR.ofWord w))
  | 0x35 => scalarOnly w (.dbbs (Fmt.BR.ofWord w))
  | 0x36 => scalarOnly w (.dbeq (Fmt.BR.ofWord w))
  | 0x37 => scalarOnly w (.dbne (Fmt.BR.ofWord w))
  | 0x38 => scalarOnly w (.dblt (Fmt.BR.ofWord w))
  | 0x39 => scalarOnly w (.dbge (Fmt.BR.ofWord w))
  | 0x3A => scalarOnly w (.dble (Fmt.BR.ofWord w))
  | 0x3B => scalarOnly w (.dbgt (Fmt.BR.ofWord w))
  | 0x3C => scalarOnly w (.dbltu (Fmt.BR.ofWord w))
  | 0x3D => scalarOnly w (.dbgeu (Fmt.BR.ofWord w))
  | 0x3E => scalarOnly w (.dbleu (Fmt.BR.ofWord w))
  | 0x3F => scalarOnly w (.dbgtu (Fmt.BR.ofWord w))
  | 0x40 => .ok (.divi (Fmt.RI.ofWord w))
  | 0x41 => .ok (.cpuid (Fmt.RI.ofWord w))
  | 0x42 => .ok (.divil (Fmt.RIL.ofWord w))
  | 0x44 => .ok (.blend (Fmt.R3P.ofWord w))
  | 0x45 => .ok (.chki (Fmt.CHKI.ofWord w))
  | 0x46 => .ok (.exi7 (Fmt.EXI7.ofWord w))
  | 0x47 => .ok (.exi23 (Fmt.EXI23.ofWord w))
  | 0x49 => .ok (.exi55 (Fmt.EXI55.ofWord w))
  | 0x4C => .ok (.bmap (Fmt.R3P.ofWord w))
  | 0x4F => .ok (.divui (Fmt.RI.ofWord w))
  | 0x50 => .ok (.cmpi (Fmt.RI.ofWord w))
  | 0x52 => decodeGroup52 w
  | 0x53 => scalarOnly w (.vmfill (Fmt.VMF.ofWord w))
  | 0x55 => .ok (.bytndxi (Fmt.RI.ofWord w))
  | 0x56 => .ok (.wydendxi (Fmt.RIL.ofWord w))
  | 0x57 => .ok (.utf21ndxi (Fmt.RIL.ofWord w))
  | 0x58 => .ok (.sllS (Fmt.R2.ofWord w))
  | 0x5E => .ok (.sm4ed (Fmt.R3P.ofWord w))
  | 0x5F => .ok (.sm4ks (Fmt.R3P.ofWord w))
  | 0x60 => .ok (.cmpui (Fmt.RI.ofWord w))
  | 0x61 => decodeGroup61 w
  | 0x62 => decodeGroup62 w
  | 0x63 => decodeGroup63 w
  | 0x65 => decodeGroup65 w
  | 0x66 => decodeGroup66 w
  | 0x67 => decodeGroup67 w
  | 0x72 => decodeGroup72 w
  | 0x76 => decodeGroup76 w
  | 0x77 => decodeGroup77 w
  | 0x7C => .ok (.exi41 (Fmt.EXI41.ofWord w))
  | 0x7D => .ok (.exi41 (Fmt.EXI41.ofWord w))
  | 0x7E => .ok (.exi41 (Fmt.EXI41.ofWord w))
  | 0x7F => .ok (.exi41 (Fmt.EXI41.ofWord w))
  | 0x80 => scalarOnly w (.ldb (Fmt.LSD.ofWord w))
  | 0x81 => scalarOnly w (.ldbu (Fmt.LSD.ofWord w))
  | 0x82 => scalarOnly w (.ldw (Fmt.LSD.ofWord w))
  | 0x83 => scalarOnly w (.ldwu (Fmt.LSD.ofWord w))
  | 0x84 => scalarOnly w (.ldt (Fmt.LSD.ofWord w))
  | 0x85 => scalarOnly w (.ldtu (Fmt.LSD.ofWord w))
  | 0x86 => scalarOnly w (.ldo (Fmt.LSD.ofWord w))
  | 0x87 => scalarOnly w (.ldos (Fmt.LSDS.ofWord w))
  | 0x88 => scalarOnly w (.llal (Fmt.LSD.ofWord w))
  | 0x89 => scalarOnly w (.llah (Fmt.LSD.ofWord w))
  | 0x90 => scalarOnly w (.stb (Fmt.LSD.ofWord w))
  | 0x91 => scalarOnly w (.stw (Fmt.LSD.ofWord w))
  | 0x92 => scalarOnly w (.stt (Fmt.LSD.ofWord w))
  | 0x93 => scalarOnly w (.sto (Fmt.LSD.ofWord w))
  | 0x94 => scalarOnly w (.stoc (Fmt.LSD.ofWord w))
  | 0x95 => scalarOnly w (.stos (Fmt.LSDS.ofWord w))
  | 0x9F => scalarOnly w (.cache (Fmt.LSD.ofWord w))
  | 0xA5 => scalarOnly w (.sys (Fmt.SYS.ofWord w))
  | 0xA6 => scalarOnly w (.int (Fmt.INT.ofWord w))
  | 0xAA => decodeGroupAA w
  | 0xB0 => .ok (.ldbx (Fmt.LSX.ofWord w))
  | 0xB1 => .ok (.ldbux (Fmt.LSX.ofWord w))
  | 0xB2 => .ok (.ldwx (Fmt.LSX.ofWord w))
  | 0xB3 => .ok (.ldwux (Fmt.LSX.ofWord w))
  | 0xB4 => .ok (.ldtx (Fmt.LSX.ofWord w))
  | 0xB5 => .ok (.ldtux (Fmt.LSX.ofWord w))
  | 0xB6 => .ok (.ldox (Fmt.LSX.ofWord w))
  | 0xB8 => .ok (.llalx (Fmt.LSX.ofWord w))
  | 0xB9 => .ok (.llahx (Fmt.LSX.ofWord w))
  | 0xC0 => .ok (.stbx (Fmt.LSX.ofWord w))
  | 0xC1 => .ok (.stwx (Fmt.LSX.ofWord w))
  | 0xC2 => .ok (.sttx (Fmt.LSX.ofWord w))
  | 0xC3 => .ok (.stox (Fmt.LSX.ofWord w))
  | 0xC4 => .ok (.stocx (Fmt.LSX.ofWord w))
  | 0xCF => .ok (.cachex (Fmt.LSX.ofWord w))
  | 0xD0 => .ok (.cmpil (Fmt.RIL.ofWord w))
  | 0xD3 => .ok (.sltil (Fmt.RIL.ofWord w))
  | 0xD4 => .ok (.addil (Fmt.RIL.ofWord w))
  | 0xD6 => .ok (.seqil (Fmt.RIL.ofWord w))
  | 0xD7 => .ok (.sneil (Fmt.RIL.ofWord w))
  | 0xD8 => .ok (.andil (Fmt.RIL.ofWord w))
  | 0xD9 => .ok (.oril (Fmt.RIL.ofWord w))
  | 0xDA => .ok (.eoril (Fmt.RIL.ofWord w))
  | 0xDB => .ok (.sgtil (Fmt.RIL.ofWord w))
  | 0xDF => .ok (.sgtuil (Fmt.RIL.ofWord w))
  | 0xE1 => scalarOnly w (.stwl (Fmt.LSR.ofWord w))
  | 0xE2 => scalarOnly w (.sttl (Fmt.LSR.ofWord w))
  | 0xE3 => scalarOnly w (.stol (Fmt.LSR.ofWord w))
  | 0xE4 => scalarOnly w (.stocl (Fmt.LSR.ofWord w))
  | 0xF1 => .ok (.nop (Fmt.NOP.ofWord w))
  | 0xF2 => scalarOnly w (.rts (Fmt.RTS.ofWord w))
  | 0xF5 => decodeGroupF5 w
  | 0xF7 => scalarOnly w (.sync (Fmt.S16.ofWord w))
  | 0xF8 => scalarOnly w (.memsb (Fmt.S16.ofWord w))
  | 0xF9 => scalarOnly w (.memdb (Fmt.S16.ofWord w))
  | 0xFA => scalarOnly w (.wfi (Fmt.S16.ofWord w))
  | _ => .reject (.unimplementedRoot (rootOf w))

/-! ### The fixed fields of the aliases (30 R291) -/

/-- LDI is ADDI with Ra = 0 (40 R311). -/
def Fmt.RI.isLdi (f : Fmt.RI) : Bool := f.ra == 0#6
/-- NEG is SUB with Ra = 0 (40 R314). -/
def Fmt.R3.isNeg (f : Fmt.R3) : Bool := f.ra == 0#6
/-- DIF is PTRDIF with Tc = 0 and Rc = 0 (40 R326). -/
def Fmt.R3.isDif (f : Fmt.R3) : Bool := f.tc == 0#2 && f.rc == 0#6
/-- ABS is DIF with Ra = 0 (40 R306). -/
def Fmt.R3.isAbs (f : Fmt.R3) : Bool := f.isDif && f.ra == 0#6
/-- Two immediate operands: Tb = 2, Rb = b, Tc = 2, Rc = c. -/
def Fmt.R3.hasImms (f : Fmt.R3) (b c : BitVec 6) : Bool :=
  f.tb == 2#2 && f.rb == b && f.tc == 2#2 && f.rc == c
/-- MKBOOL is CMOVNZ with the immediates 1 and 0 and v = 0 (40 R339). -/
def Fmt.R3.isMkbool (f : Fmt.R3) : Bool := f.hasImms 1#6 0#6 && f.v == 0#1
/-- VBITS2V is CMOVNZ with the immediates 1 and 0 and v = 1 (48 R890). -/
def Fmt.R3.isVbits2v (f : Fmt.R3) : Bool := f.hasImms 1#6 0#6 && f.v == 1#1
/-- NOT is CMOVNZ with the immediates 0 and 1 (40 R340). -/
def Fmt.R3.isNot (f : Fmt.R3) : Bool := f.hasImms 0#6 1#6
/-- SRL is SRLP with Tb = 0 and Rb = 0 (41 R424). -/
def Fmt.R3.isSrl (f : Fmt.R3) : Bool := f.tb == 0#2 && f.rb == 0#6
/-- ROL and ROR have Tb = 0 and the Rb field equal to the Ra field (41 R426, R427), whatever v is (log 55). -/
def Fmt.R3.isRotate (f : Fmt.R3) : Bool := f.tb == 0#2 && f.rb == f.ra
/-- BSR, JSR and RTS name a link register: Lk = 1 or 2. -/
def linkNamed (lk : BitVec 2) : Bool := lk == 1#2 || lk == 2#2

/-- Names the alias of a word that has one (30 R291): the most specific row of the opcode table that the word
matches. An alias has its core instruction's meaning. -/
def narrow (i : Instr) : Instr :=
  match i with
  | .addi f => if f.isLdi then .ldi f else i
  | .sub f => if f.isNeg then .neg f else i
  | .ptrdif f => if f.isAbs then .abs f else if f.isDif then .dif f else i
  | .cmovnz f =>
    if f.isVbits2v then .vbits2vC f else if f.isMkbool then .mkbool f else if f.isNot then .not f else i
  | .sllp f => if f.isRotate then .rol f else i
  | .srlp f => if f.isSrl then .srl f else if f.isRotate then .ror f else i
  | .bfchg f => if f.hasImms 0#6 63#6 then .com f else i
  | .bfextu f =>
    if f.hasImms 0#6 63#6 then .mov f else if f.hasImms 0#6 7#6 then .movzxb f
    else if f.hasImms 0#6 15#6 then .movzxw f else if f.hasImms 0#6 31#6 then .movzxt f else i
  | .bfext f =>
    if f.hasImms 0#6 7#6 then .movsxb f else if f.hasImms 0#6 15#6 then .movsxw f
    else if f.hasImms 0#6 31#6 then .movsxt f else i
  | .jmp f =>
    if f.ca == 7#3 && f.lk == 0#2 then .bra f
    else if f.ca == 7#3 && linkNamed f.lk then .bsr f
    else if linkNamed f.lk then .jsr f else i
  | i => i

/-- Decoding one instruction word: total, rejecting by name (30 R242). -/
def decodeWord (w : Word) : Decoded Instr :=
  match decodeCore w with
  | .ok i => .ok (narrow i)
  | .reject e => .reject e

end

/-! ### Encoding -/

/-- The length of an instruction in bytes (30 R243). -/
def Instr.size : Instr → Nat
  | .exi7 _ => 2
  | .exi23 _ => 4
  | .exi41 _ => 6
  | .exi55 _ => 8
  | .add _ => 6
  | .addS _ => 4
  | .addi _ => 4
  | .addil _ => 6
  | .ldi _ => 4
  | .sub _ => 6
  | .subfi _ => 4
  | .neg _ => 6
  | .mul _ => 6
  | .mulh _ => 6
  | .muli _ => 4
  | .mulf _ => 6
  | .mulfi _ => 4
  | .div _ => 6
  | .divi _ => 4
  | .divil _ => 6
  | .divu _ => 6
  | .divui _ => 4
  | .divsu _ => 6
  | .ptrdif _ => 6
  | .dif _ => 6
  | .abs _ => 6
  | .min _ => 6
  | .max _ => 6
  | .cmp _ => 6
  | .cmpi _ => 4
  | .cmpil _ => 6
  | .cmpu _ => 6
  | .cmpui _ => 4
  | .chk _ => 6
  | .chki _ => 6
  | .cmovnz _ => 6
  | .cpuid _ => 4
  | .mkbool _ => 6
  | .not _ => 6
  | .seq _ => 6
  | .seqi _ => 4
  | .seqil _ => 6
  | .sne _ => 6
  | .snei _ => 4
  | .sneil _ => 6
  | .slt _ => 6
  | .slti _ => 4
  | .sltil _ => 6
  | .sltu _ => 6
  | .sge _ => 6
  | .sgeu _ => 6
  | .sgti _ => 4
  | .sgtil _ => 6
  | .sgtui _ => 4
  | .sgtuil _ => 6
  | .slei _ => 4
  | .andS _ => 4
  | .and _ => 6
  | .andc _ => 6
  | .orS _ => 4
  | .or _ => 6
  | .orc _ => 6
  | .eorS _ => 4
  | .eor _ => 6
  | .enor _ => 6
  | .nand _ => 6
  | .nor _ => 6
  | .mux _ => 6
  | .andi _ => 4
  | .andil _ => 6
  | .ori _ => 4
  | .oril _ => 6
  | .eori _ => 4
  | .eoril _ => 6
  | .sllS _ => 4
  | .sllp _ => 6
  | .srlp _ => 6
  | .srl _ => 6
  | .sra _ => 6
  | .rol _ => 6
  | .ror _ => 6
  | .cntlz _ => 4
  | .cntpop _ => 4
  | .revbit _ _ => 4
  | .mor _ => 6
  | .mxor _ => 6
  | .mort _ => 6
  | .mxort _ => 6
  | .bmap _ => 6
  | .clmul _ => 6
  | .clmulh _ => 6
  | .bytndx _ => 6
  | .bytndxi _ => 4
  | .wydendx _ => 6
  | .wydendxi _ => 6
  | .utf21ndx _ => 6
  | .utf21ndxi _ => 6
  | .bfalign _ => 6
  | .bfffo _ => 6
  | .bfextu _ => 6
  | .bfext _ => 6
  | .andm _ => 6
  | .bfset _ => 6
  | .bfchg _ => 6
  | .bfclr _ => 6
  | .com _ => 6
  | .mov _ => 6
  | .movsxb _ => 6
  | .movsxw _ => 6
  | .movsxt _ => 6
  | .movzxb _ => 6
  | .movzxw _ => 6
  | .movzxt _ => 6
  | .bcdadd _ => 6
  | .bcdsub _ => 6
  | .bcdmul _ => 6
  | .fabs _ => 4
  | .fneg _ => 4
  | .fclass _ => 4
  | .ffinite _ => 4
  | .isnan _ => 4
  | .fman _ => 4
  | .fsign _ => 4
  | .fsqrt _ => 4
  | .frsqrte _ => 4
  | .fsigmoid _ => 4
  | .ftoi _ => 4
  | .itof _ => 4
  | .ftrunc _ => 4
  | .ftx _ => 4
  | .fcx _ => 4
  | .fex _ => 4
  | .fdx _ => 4
  | .frm _ => 4
  | .fstat _ => 4
  | .fadd _ => 6
  | .faddL _ => 6
  | .fsub _ => 6
  | .fsubL _ => 6
  | .fmul _ => 6
  | .fmulL _ => 6
  | .fdiv _ => 6
  | .fdivL _ => 6
  | .fcmp _ => 6
  | .fseq _ => 6
  | .fslt _ => 6
  | .fsne _ => 6
  | .fcmpb _ => 6
  | .fma _ => 6
  | .fms _ => 6
  | .fnma _ => 6
  | .fnms _ => 6
  | .dfabs _ => 4
  | .dfneg _ => 4
  | .dfman _ => 4
  | .dfsign _ => 4
  | .dftoi _ => 4
  | .itodf _ => 4
  | .dftx _ => 4
  | .dfcx _ => 4
  | .dfex _ => 4
  | .dfdx _ => 4
  | .dfrm _ => 4
  | .dfstat _ => 4
  | .dfadd _ => 6
  | .dfaddL _ => 6
  | .dfsub _ => 6
  | .dfsubL _ => 6
  | .dfmul _ => 6
  | .dfmulL _ => 6
  | .dfdiv _ => 6
  | .dfdivL _ => 6
  | .dfcmp _ => 6
  | .dfcmpb _ => 6
  | .dfma _ => 6
  | .dfmaL _ => 8
  | .dfms _ => 6
  | .dfmsL _ => 8
  | .dfnma _ => 6
  | .dfnmaL _ => 8
  | .dfnms _ => 6
  | .dfnmsL _ => 8
  | .ldb _ => 6
  | .ldbu _ => 6
  | .ldw _ => 6
  | .ldwu _ => 6
  | .ldt _ => 6
  | .ldtu _ => 6
  | .ldo _ => 6
  | .llal _ => 6
  | .llah _ => 6
  | .stb _ => 6
  | .stw _ => 6
  | .stt _ => 6
  | .sto _ => 6
  | .stoc _ => 6
  | .ldos _ => 4
  | .stos _ => 4
  | .cache _ => 6
  | .ldbx _ => 6
  | .ldbux _ => 6
  | .ldwx _ => 6
  | .ldwux _ => 6
  | .ldtx _ => 6
  | .ldtux _ => 6
  | .ldox _ => 6
  | .llalx _ => 6
  | .llahx _ => 6
  | .stbx _ => 6
  | .stwx _ => 6
  | .sttx _ => 6
  | .stox _ => 6
  | .stocx _ => 6
  | .cachex _ => 6
  | .stwl _ => 6
  | .sttl _ => 6
  | .stol _ => 6
  | .stocl _ => 6
  | .lin2phl _ => 6
  | .lin2phh _ => 6
  | .bbc _ => 6
  | .bbs _ => 6
  | .beq _ => 6
  | .bne _ => 6
  | .blt _ => 6
  | .bge _ => 6
  | .ble _ => 6
  | .bgt _ => 6
  | .bltu _ => 6
  | .bgeu _ => 6
  | .bleu _ => 6
  | .bgtu _ => 6
  | .beqz _ => 4
  | .bnez _ => 4
  | .jmp _ => 6
  | .bra _ => 6
  | .bsr _ => 6
  | .jsr _ => 6
  | .dbra _ => 6
  | .dbbc _ => 6
  | .dbbs _ => 6
  | .dbeq _ => 6
  | .dbne _ => 6
  | .dblt _ => 6
  | .dbge _ => 6
  | .dble _ => 6
  | .dbgt _ => 6
  | .dbltu _ => 6
  | .dbgeu _ => 6
  | .dbleu _ => 6
  | .dbgtu _ => 6
  | .jgate _ => 6
  | .rts _ => 4
  | .nop _ => 2
  | .csrrd _ => 6
  | .csrrw _ => 6
  | .csrrs _ => 6
  | .csrrc _ => 6
  | .brk _ => 2
  | .sys _ => 4
  | .int _ => 4
  | .di _ => 6
  | .pfi _ => 6
  | .sei _ => 6
  | .wfi _ => 2
  | .memdb _ => 2
  | .memsb _ => 2
  | .sync _ => 2
  | .mfsel _ => 6
  | .mtsel _ => 6
  | .pushq _ => 6
  | .popq _ => 6
  | .peekq _ => 6
  | .statq _ => 6
  | .resetq _ => 6
  | .rex _ => 6
  | .rte _ => 6
  | .tlbrw _ => 6
  | .v2bits _ => 6
  | .vbits2vC _ => 6
  | .vbits2v _ => 6
  | .vgidx _ => 6
  | .vcmprss _ => 4
  | .veins _ => 6
  | .vex _ => 6
  | .vscan _ => 4
  | .vsllv _ => 6
  | .vsrlv _ => 6
  | .mtvm _ => 4
  | .mfvm _ => 4
  | .mtvl _ => 4
  | .mfvl _ => 4
  | .vmadd _ => 4
  | .vmsub _ => 4
  | .vmand _ => 4
  | .vmor _ => 4
  | .vmxor _ => 4
  | .vmcntpop _ => 4
  | .vmfirst _ => 4
  | .vmlast _ => 4
  | .vmsll _ => 4
  | .vmsrl _ => 4
  | .vmfill _ => 4
  | .aes64ds _ => 6
  | .aes64dsm _ => 6
  | .aes64es _ => 6
  | .aes64esm _ => 6
  | .sha256sig0 _ => 4
  | .sha256sig1 _ => 4
  | .sha256sum0 _ => 4
  | .sha256sum1 _ => 4
  | .sha512sig0 _ => 4
  | .sha512sig1 _ => 4
  | .sha512sum0 _ => 4
  | .sha512sum1 _ => 4
  | .sm3p0 _ => 4
  | .sm3p1 _ => 4
  | .sm4ed _ => 6
  | .sm4ks _ => 6
  | .nnaTrig _ => 4
  | .nnaStat _ => 4
  | .nnaMfact _ => 4
  | .nnaMtwt _ => 6
  | .nnaMtin _ => 6
  | .nnaMtbias _ => 6
  | .nnaMtfb _ => 6
  | .nnaMtmc _ => 6
  | .nnaMtbc _ => 6
  | .blend _ => 6
  | .clip _ => 4
  | .transform _ => 4
  | .rwCoeff _ => 6

/-- The instruction as one little-endian integer, zero-extended to 64 bits (30 R240, R255 to R267). An alias has
its core instruction's word (30 R291); SLEI's word holds the assembler's constant plus one (40 R357). -/
def encodeWord : Instr → Word
  | .exi7 f => f.word 0x46#8
  | .exi23 f => f.word 0x47#8
  | .exi41 f => f.word
  | .exi55 f => f.word 0x49#8
  | .add f => f.word 0x02#8 0x04#7
  | .addS f => f.word 0x19#8
  | .addi f => f.word 0x04#8
  | .addil f => f.word 0xD4#8
  | .ldi f => f.word 0x04#8
  | .sub f => f.word 0x02#8 0x05#7
  | .subfi f => f.word 0x05#8
  | .neg f => f.word 0x02#8 0x05#7
  | .mul f => f.word 0x02#8 0x06#7
  | .mulh f => f.word 0x02#8 0x0F#7
  | .muli f => f.word 0x06#8
  | .mulf f => f.word 0x02#8 0x15#7
  | .mulfi f => f.word 0x15#8
  | .div f => f.word 0x02#8 0x10#7
  | .divi f => f.word 0x40#8
  | .divil f => f.word 0x42#8
  | .divu f => f.word 0x02#8 0x11#7
  | .divui f => f.word 0x4F#8
  | .divsu f => f.word 0x02#8 0x12#7
  | .ptrdif f => f.word 0x02#8 0x14#7
  | .dif f => f.word 0x02#8 0x14#7
  | .abs f => f.word 0x02#8 0x14#7
  | .min f => f.word 0x02#8 0x28#7
  | .max f => f.word 0x02#8 0x29#7
  | .cmp f => f.word 0x02#8 0x2A#7
  | .cmpi f => f.word 0x50#8
  | .cmpil f => f.word 0xD0#8
  | .cmpu f => f.word 0x02#8 0x2B#7
  | .cmpui f => f.word 0x60#8
  | .chk f => f.word 0x02#8 0x19#7
  | .chki f => f.word 0x45#8
  | .cmovnz f => f.word 0x02#8 0x2D#7
  | .cpuid f => f.word 0x41#8
  | .mkbool f => f.word 0x02#8 0x2D#7
  | .not f => f.word 0x02#8 0x2D#7
  | .seq f => f.word 0x02#8 0x26#7
  | .seqi f => f.word 0x16#8
  | .seqil f => f.word 0xD6#8
  | .sne f => f.word 0x02#8 0x27#7
  | .snei f => f.word 0x17#8
  | .sneil f => f.word 0xD7#8
  | .slt f => f.word 0x02#8 0x20#7
  | .slti f => f.word 0x18#8
  | .sltil f => f.word 0xD3#8
  | .sltu f => f.word 0x02#8 0x22#7
  | .sge f => f.word 0x02#8 0x21#7
  | .sgeu f => f.word 0x02#8 0x23#7
  | .sgti f => f.word 0x1B#8
  | .sgtil f => f.word 0xDB#8
  | .sgtui f => f.word 0x1F#8
  | .sgtuil f => f.word 0xDF#8
  | .slei f => Fmt.RI.word 0x18#8 { f with imm := f.imm + 1#11 }
  | .andS f => f.word 0x1A#8
  | .and f => f.word 0x02#8 0x08#7
  | .andc f => f.word 0x02#8 0x0B#7
  | .orS f => f.word 0x1D#8
  | .or f => f.word 0x02#8 0x09#7
  | .orc f => f.word 0x02#8 0x03#7
  | .eorS f => f.word 0x1E#8
  | .eor f => f.word 0x02#8 0x0A#7
  | .enor f => f.word 0x02#8 0x02#7
  | .nand f => f.word 0x02#8 0x00#7
  | .nor f => f.word 0x02#8 0x01#7
  | .mux f => f.word 0x02#8 0x34#7
  | .andi f => f.word 0x08#8
  | .andil f => f.word 0xD8#8
  | .ori f => f.word 0x09#8
  | .oril f => f.word 0xD9#8
  | .eori f => f.word 0x0A#8
  | .eoril f => f.word 0xDA#8
  | .sllS f => f.word 0x58#8
  | .sllp f => f.word 0x02#8 0x40#7
  | .srlp f => f.word 0x02#8 0x41#7
  | .srl f => f.word 0x02#8 0x41#7
  | .sra f => f.word 0x02#8 0x42#7
  | .rol f => f.word 0x02#8 0x40#7
  | .ror f => f.word 0x02#8 0x41#7
  | .cntlz f => f.word 0x01#8 0x00#7
  | .cntpop f => f.word 0x01#8 0x02#7
  | .revbit sz f => f.word 0x01#8 (0xA#5 ++ sz)
  | .mor f => f.word 0x02#8 0x30#7
  | .mxor f => f.word 0x02#8 0x31#7
  | .mort f => f.word 0x02#8 0x32#7
  | .mxort f => f.word 0x02#8 0x33#7
  | .bmap f => f.word 0x4C#8
  | .clmul f => f.word 0x02#8 0x2E#7
  | .clmulh f => f.word 0x02#8 0x2F#7
  | .bytndx f => f.word 0x02#8 0x1A#7
  | .bytndxi f => f.word 0x55#8
  | .wydendx f => f.word 0x02#8 0x1B#7
  | .wydendxi f => f.word 0x56#8
  | .utf21ndx f => f.word 0x02#8 0x1C#7
  | .utf21ndxi f => f.word 0x57#8
  | .bfalign f => f.word 0xAA#8 0x00#7
  | .bfffo f => f.word 0xAA#8 0x01#7
  | .bfextu f => f.word 0xAA#8 0x04#7
  | .bfext f => f.word 0xAA#8 0x05#7
  | .andm f => f.word 0xAA#8 0x08#7
  | .bfset f => f.word 0xAA#8 0x09#7
  | .bfchg f => f.word 0xAA#8 0x0A#7
  | .bfclr f => f.word 0xAA#8 0x0B#7
  | .com f => f.word 0xAA#8 0x0A#7
  | .mov f => f.word 0xAA#8 0x04#7
  | .movsxb f => f.word 0xAA#8 0x05#7
  | .movsxw f => f.word 0xAA#8 0x05#7
  | .movsxt f => f.word 0xAA#8 0x05#7
  | .movzxb f => f.word 0xAA#8 0x04#7
  | .movzxw f => f.word 0xAA#8 0x04#7
  | .movzxt f => f.word 0xAA#8 0x04#7
  | .bcdadd f => f.word 0xF5#8 0x00#7
  | .bcdsub f => f.word 0xF5#8 0x01#7
  | .bcdmul f => f.word 0xF5#8 0x02#7
  | .fabs f => f.word 0x61#8 0x20#7
  | .fneg f => f.word 0x61#8 0x22#7
  | .fclass f => f.word 0x61#8 0x1E#7
  | .ffinite f => f.word 0x61#8 0x0F#7
  | .isnan f => f.word 0x61#8 0x0E#7
  | .fman f => f.word 0x61#8 0x07#7
  | .fsign f => f.word 0x61#8 0x06#7
  | .fsqrt f => f.word 0x61#8 0x08#7
  | .frsqrte f => f.word 0x61#8 0x01#7
  | .fsigmoid f => f.word 0x61#8 0x28#7
  | .ftoi f => f.word 0x61#8 0x02#7
  | .itof f => f.word 0x61#8 0x03#7
  | .ftrunc f => f.word 0x61#8 0x15#7
  | .ftx f => f.word 0x61#8 0x10#7
  | .fcx f => f.word 0x61#8 0x11#7
  | .fex f => f.word 0x61#8 0x12#7
  | .fdx f => f.word 0x61#8 0x13#7
  | .frm f => f.word 0x61#8 0x14#7
  | .fstat f => f.word 0x61#8 0x0C#7
  | .fadd f => f.word 0x62#8 0x04#7
  | .faddL f => f.word 0x72#8 0x04#7
  | .fsub f => f.word 0x62#8 0x05#7
  | .fsubL f => f.word 0x72#8 0x05#7
  | .fmul f => f.word 0x62#8 0x08#7
  | .fmulL f => f.word 0x72#8 0x08#7
  | .fdiv f => f.word 0x62#8 0x09#7
  | .fdivL f => f.word 0x72#8 0x09#7
  | .fcmp f => f.word 0x62#8 0x10#7
  | .fseq f => f.word 0x62#8 0x11#7
  | .fslt f => f.word 0x62#8 0x12#7
  | .fsne f => f.word 0x62#8 0x14#7
  | .fcmpb f => f.word 0x62#8 0x15#7
  | .fma f => f.word 0x63#8 0x00#4
  | .fms f => f.word 0x63#8 0x01#4
  | .fnma f => f.word 0x63#8 0x02#4
  | .fnms f => f.word 0x63#8 0x03#4
  | .dfabs f => f.word 0x65#8 0x20#7
  | .dfneg f => f.word 0x65#8 0x22#7
  | .dfman f => f.word 0x65#8 0x07#7
  | .dfsign f => f.word 0x65#8 0x06#7
  | .dftoi f => f.word 0x65#8 0x02#7
  | .itodf f => f.word 0x65#8 0x03#7
  | .dftx f => f.word 0x65#8 0x10#7
  | .dfcx f => f.word 0x65#8 0x11#7
  | .dfex f => f.word 0x65#8 0x12#7
  | .dfdx f => f.word 0x65#8 0x13#7
  | .dfrm f => f.word 0x65#8 0x14#7
  | .dfstat f => f.word 0x65#8 0x0C#7
  | .dfadd f => f.word 0x66#8 0x04#7
  | .dfaddL f => f.word 0x76#8 0x04#7
  | .dfsub f => f.word 0x66#8 0x05#7
  | .dfsubL f => f.word 0x76#8 0x05#7
  | .dfmul f => f.word 0x66#8 0x08#7
  | .dfmulL f => f.word 0x76#8 0x08#7
  | .dfdiv f => f.word 0x66#8 0x09#7
  | .dfdivL f => f.word 0x76#8 0x09#7
  | .dfcmp f => f.word 0x66#8 0x10#7
  | .dfcmpb f => f.word 0x66#8 0x15#7
  | .dfma f => f.word 0x67#8 0x00#7
  | .dfmaL f => f.word 0x77#8 0x00#7
  | .dfms f => f.word 0x67#8 0x01#7
  | .dfmsL f => f.word 0x77#8 0x01#7
  | .dfnma f => f.word 0x67#8 0x02#7
  | .dfnmaL f => f.word 0x77#8 0x02#7
  | .dfnms f => f.word 0x67#8 0x03#7
  | .dfnmsL f => f.word 0x77#8 0x03#7
  | .ldb f => f.word 0x80#8
  | .ldbu f => f.word 0x81#8
  | .ldw f => f.word 0x82#8
  | .ldwu f => f.word 0x83#8
  | .ldt f => f.word 0x84#8
  | .ldtu f => f.word 0x85#8
  | .ldo f => f.word 0x86#8
  | .llal f => f.word 0x88#8
  | .llah f => f.word 0x89#8
  | .stb f => f.word 0x90#8
  | .stw f => f.word 0x91#8
  | .stt f => f.word 0x92#8
  | .sto f => f.word 0x93#8
  | .stoc f => f.word 0x94#8
  | .ldos f => f.word 0x87#8
  | .stos f => f.word 0x95#8
  | .cache f => f.word 0x9F#8
  | .ldbx f => f.word 0xB0#8
  | .ldbux f => f.word 0xB1#8
  | .ldwx f => f.word 0xB2#8
  | .ldwux f => f.word 0xB3#8
  | .ldtx f => f.word 0xB4#8
  | .ldtux f => f.word 0xB5#8
  | .ldox f => f.word 0xB6#8
  | .llalx f => f.word 0xB8#8
  | .llahx f => f.word 0xB9#8
  | .stbx f => f.word 0xC0#8
  | .stwx f => f.word 0xC1#8
  | .sttx f => f.word 0xC2#8
  | .stox f => f.word 0xC3#8
  | .stocx f => f.word 0xC4#8
  | .cachex f => f.word 0xCF#8
  | .stwl f => f.word 0xE1#8
  | .sttl f => f.word 0xE2#8
  | .stol f => f.word 0xE3#8
  | .stocl f => f.word 0xE4#8
  | .lin2phl f => f.word 0x02#8 0x36#7
  | .lin2phh f => f.word 0x02#8 0x37#7
  | .bbc f => f.word 0x24#8
  | .bbs f => f.word 0x25#8
  | .beq f => f.word 0x26#8
  | .bne f => f.word 0x27#8
  | .blt f => f.word 0x28#8
  | .bge f => f.word 0x29#8
  | .ble f => f.word 0x2A#8
  | .bgt f => f.word 0x2B#8
  | .bltu f => f.word 0x2C#8
  | .bgeu f => f.word 0x2D#8
  | .bleu f => f.word 0x2E#8
  | .bgtu f => f.word 0x2F#8
  | .beqz f => f.word 0x10#8
  | .bnez f => f.word 0x12#8
  | .jmp f => f.word 0x20#8
  | .bra f => f.word 0x20#8
  | .bsr f => f.word 0x20#8
  | .jsr f => f.word 0x20#8
  | .dbra f => f.word 0x30#8
  | .dbbc f => f.word 0x34#8
  | .dbbs f => f.word 0x35#8
  | .dbeq f => f.word 0x36#8
  | .dbne f => f.word 0x37#8
  | .dblt f => f.word 0x38#8
  | .dbge f => f.word 0x39#8
  | .dble f => f.word 0x3A#8
  | .dbgt f => f.word 0x3B#8
  | .dbltu f => f.word 0x3C#8
  | .dbgeu f => f.word 0x3D#8
  | .dbleu f => f.word 0x3E#8
  | .dbgtu f => f.word 0x3F#8
  | .jgate f => f.word 0x14#8
  | .rts f => f.word 0xF2#8
  | .nop f => f.word 0xF1#8
  | .csrrd f => f.word 0x0F#8 0x00#3
  | .csrrw f => f.word 0x0F#8 0x01#3
  | .csrrs f => f.word 0x0F#8 0x02#3
  | .csrrc f => f.word 0x0F#8 0x03#3
  | .brk f => f.word 0x00#8
  | .sys f => f.word 0xA5#8
  | .int f => f.word 0xA6#8
  | .di f => f.word 0x07#8 0x16#7
  | .pfi f => f.word 0x07#8 0x11#7
  | .sei f => f.word 0x07#8 0x17#7
  | .wfi f => f.word 0xFA#8
  | .memdb f => f.word 0xF9#8
  | .memsb f => f.word 0xF8#8
  | .sync f => f.word 0xF7#8
  | .mfsel f => f.word 0x07#8 0x28#7
  | .mtsel f => f.word 0x07#8 0x29#7
  | .pushq f => f.word 0x07#8 0x08#7
  | .popq f => f.word 0x07#8 0x09#7
  | .peekq f => f.word 0x07#8 0x0A#7
  | .statq f => f.word 0x07#8 0x0B#7
  | .resetq f => f.word 0x07#8 0x0C#7
  | .rex f => f.word 0x07#8 0x10#7
  | .rte f => f.word 0x07#8 0x13#7
  | .tlbrw f => f.word 0x07#8 0x1E#7
  | .v2bits f => f.word 0x02#8 0x3D#7
  | .vbits2vC f => f.word 0x02#8 0x2D#7
  | .vbits2v f => f.word 0x02#8 0x3E#7
  | .vgidx f => f.word 0x02#8 0x3C#7
  | .vcmprss f => f.word 0x01#8 0x2C#7
  | .veins f => f.word 0x02#8 0x3B#7
  | .vex f => f.word 0x02#8 0x3A#7
  | .vscan f => f.word 0x01#8 0x1E#7
  | .vsllv f => f.word 0x02#8 0x38#7
  | .vsrlv f => f.word 0x02#8 0x39#7
  | .mtvm f => f.word 0x52#8 0x10#5
  | .mfvm f => f.word 0x52#8 0x11#5
  | .mtvl f => f.word 0x52#8 0x12#5
  | .mfvl f => f.word 0x52#8 0x13#5
  | .vmadd f => f.word 0x52#8 0x04#5
  | .vmsub f => f.word 0x52#8 0x05#5
  | .vmand f => f.word 0x52#8 0x08#5
  | .vmor f => f.word 0x52#8 0x09#5
  | .vmxor f => f.word 0x52#8 0x0A#5
  | .vmcntpop f => f.word 0x52#8 0x0D#5
  | .vmfirst f => f.word 0x52#8 0x0E#5
  | .vmlast f => f.word 0x52#8 0x0F#5
  | .vmsll f => f.word 0x52#8 0x0E#4
  | .vmsrl f => f.word 0x52#8 0x0F#4
  | .vmfill f => f.word 0x53#8
  | .aes64ds f => f.word 0x02#8 0x50#7
  | .aes64dsm f => f.word 0x02#8 0x51#7
  | .aes64es f => f.word 0x02#8 0x52#7
  | .aes64esm f => f.word 0x02#8 0x53#7
  | .sha256sig0 f => f.word 0x01#8 0x30#7
  | .sha256sig1 f => f.word 0x01#8 0x31#7
  | .sha256sum0 f => f.word 0x01#8 0x32#7
  | .sha256sum1 f => f.word 0x01#8 0x33#7
  | .sha512sig0 f => f.word 0x01#8 0x34#7
  | .sha512sig1 f => f.word 0x01#8 0x35#7
  | .sha512sum0 f => f.word 0x01#8 0x36#7
  | .sha512sum1 f => f.word 0x01#8 0x37#7
  | .sm3p0 f => f.word 0x01#8 0x38#7
  | .sm3p1 f => f.word 0x01#8 0x39#7
  | .sm4ed f => f.word 0x5E#8
  | .sm4ks f => f.word 0x5F#8
  | .nnaTrig f => f.word 0x01#8 0x60#7
  | .nnaStat f => f.word 0x01#8 0x61#7
  | .nnaMfact f => f.word 0x01#8 0x62#7
  | .nnaMtwt f => f.word 0x02#8 0x60#7
  | .nnaMtin f => f.word 0x02#8 0x61#7
  | .nnaMtbias f => f.word 0x02#8 0x62#7
  | .nnaMtfb f => f.word 0x02#8 0x63#7
  | .nnaMtmc f => f.word 0x02#8 0x64#7
  | .nnaMtbc f => f.word 0x02#8 0x65#7
  | .blend f => f.word 0x44#8
  | .clip f => f.word 0x01#8 0x20#7
  | .transform f => f.word 0x01#8 0x11#7
  | .rwCoeff f => f.word 0x02#8 0x77#7

/-! ### Bytes -/

/-- The low n bytes of a word, the least significant first (20 R141). -/
def bytesOf (n : Nat) (w : Word) : List Byte :=
  (List.range n).map fun k => w.extractLsb' (8 * k) 8

/-- The little-endian value of at most eight bytes (20 R141). -/
def wordOf : List Byte → Word
  | [] => 0
  | b :: bs => (wordOf bs <<< 8) ||| b.setWidth 64

/-- The bytes of an instruction in increasing address order (30 R240). -/
def encode (i : Instr) : List Byte := bytesOf i.size (encodeWord i)

noncomputable section

/-- Decodes the instruction at the front of a list of bytes and says how many bytes it takes. -/
def decode (bs : List Byte) : Decoded (Instr × Nat) :=
  match bs with
  | [] => .reject .tooShort
  | root :: _ =>
    match lengthOf root with
    | none => .reject (.unimplementedRoot root)
    | some n =>
      if bs.length < n then .reject .tooShort
      else
        match decodeWord (wordOf (bs.take n)) with
        | .ok i => .ok (i, n)
        | .reject e => .reject e

/-- The instruction read from one whose low bits are w, numbered as spec/opcode_table.json numbers them: the low
`nbits` bits of w, every bit above them zero, as bytes in increasing address order. -/
def decodeTableWord (nbits w : Nat) : Option Instr :=
  match decode (bytesOf 8 (BitVec.ofNat 64 (w % 2 ^ nbits))) with
  | .ok (i, _) => some i
  | .reject _ => none

end

end Sys2Proof
end

