-- ==== Sys2Proof/Config.lean ====
section
/-! DEFINITION. What an implementation fixes and what the spec leaves open: the named parameters of
92_eei_decisions section 1 as a record that State carries, and the free values and uninterpreted functions of
93_implementation_defined as constants WITHOUT a body, so that no proof can lean on one of their values. -/

namespace Sys2Proof.Config

/-- What answers at a range of physical addresses (20_memory R150, D25). -/
inductive RangeKind
  | memory
  | device
  | none
  deriving DecidableEq, Repr, Inhabited

/-- One inclusive range of PLATFORM_MAP. -/
structure PhysRange where
  lo : Nat
  hi : Nat
  kind : RangeKind
  deriving DecidableEq, Repr, Inhabited

/-- One region of PMA_TABLE: LBi and UBi, bits 67:4 of an address, and the attribute bits (20_memory R200 to R202). -/
structure PmaRegion where
  lb : BitVec 64
  ub : BitVec 64
  attr : BitVec 16
  deriving DecidableEq, Repr, Inhabited

/-- The system instructions that the open parameter MACHINE_ONLY may name (47_system R821, D64). -/
inductive SysOp
  | mtsel | mfsel | tlbrw | pushq | popq | peekq | statq | resetq | di | rex | cache | cachex | pfi | wfi
  deriving DecidableEq, Repr, Inhabited

/-- The named parameters of 92_eei_decisions section 1. State carries one, no step changes it, and every
statement holds for all of them. -/
structure Params where
  /-- VLMAX, 1 to 64. -/
  vlmax : Nat
  /-- HARTID. -/
  hartid : Word
  /-- TM_CLK_HZ. -/
  tmClkHz : Nat
  /-- PLATFORM_MAP: the first range that holds an address decides; an address in no range is memory. -/
  platformMap : List PhysRange
  /-- PMA_TABLE. -/
  pmaTable : Vector PmaRegion 8
  /-- ICACHE_LINE, in bytes. -/
  icacheLine : Nat
  /-- KEY_CHECK_MODES. -/
  keyCheckModes : List (BitVec 2)
  /-- FLT_BRK. -/
  fltBrk : BitVec 8
  /-- MACHINE_ONLY. -/
  machineOnly : List SysOp
  /-- CPUID_INFO. -/
  cpuidInfo : Vector Word 16
  /-- QWIDTH[q], in bits. -/
  qwidth : Vector Nat 16
  /-- QDEPTH[q], in entries. -/
  qdepth : Vector Nat 16
  deriving DecidableEq, Repr

/-- CPUID_INFO's default: the CPUID page's values (40 R338). DESIGN CHOICE (log 37): characters are packed as
ASCII, the first in bits 7:0, and cache sizes are in bytes. -/
def cpuidDefault : Vector Word 16 :=
  #v[0, 0, 0x6e6f7274696e6946#64, 0, 0x53537469423436#64, 0, 0x31323032726f6854#64, 0,
    0x314D#64, 0x34333231#64, 0, 0x0000400000008000#64, 0, 0, 0, 0]

/-- A PMA region that covers no address. -/
def PmaRegion.empty : PmaRegion := ⟨1, 0, 0⟩

/-- The defaults of 92_eei_decisions section 1. -/
def Params.default : Params where
  vlmax := 64
  hartid := 0
  tmClkHz := 100000000
  platformMap := []
  pmaTable := #v[⟨0, BitVec.allOnes 64, 0x000F#16⟩, .empty, .empty, .empty, .empty, .empty, .empty, .empty]
  icacheLine := 64
  keyCheckModes := [0]
  fltBrk := 0
  machineOnly := []
  cpuidInfo := cpuidDefault
  qwidth := (Vector.replicate 16 64).set 15 112
  qdepth := Vector.replicate 16 1024

/-! ### Free values -/

/-- An arbitrary 64-bit value: the first argument is State's draw counter, the second separates the values of one
draw: the number of a vector element (0 in a scalar instruction), 256 for M_BAD_INSTR, and from 257 on the keys of a line
of the key table (93 "any value"; log 6). -/
opaque freeWord : Nat → Nat → Word

/-- An arbitrary choice among finitely many candidates, reduced modulo their number by its users: with 0 as its second
argument old or new value of a hazard or one of several matching ways, each of which then makes the counter go on, with
1 the random way of TLBRW (93 U7, U8, U49, U51; log 6). -/
opaque freeChoice : Nat → Nat → Nat

/-- An arbitrary content of a queue after a push to a full one (93 U40). -/
opaque freeQueue : Nat → List (BitVec 112)

/-- The unspecified content of the descriptor cache of a selector register that nothing has loaded since reset, where
the spec does not refuse its use: one content for each reset, the first argument, and each register, the second
(70_reset R1080, 93 U50; log 16). -/
opaque powerUpDescriptor : Nat → Nat → Descriptor

/-! ### Binary floating point -/

/-- FRSQRTE_FN before the constraints of 43 R546 are applied (93 U35); of a negative operand its NaN serves where no
invalid operation is reported (log 29). -/
opaque frsqrteFn : Word → Word

/-- FSIGMOID_FN before the constraints of 43 R547 are applied (93 U35). -/
opaque fsigmoidFn : Word → Word

/-- The conditions FRSQRTE reports of an operand that is no signalling NaN, which the spec does not give: bit 0
whether a negative operand counts as a square root of a negative number, bits 1 to 4 overflow, underflow, divide by
zero and inexact (log 29). -/
opaque frsqrteConds : Word → BitVec 5

/-- The conditions FSIGMOID reports, which the spec does not give: bits 0 to 3 overflow, underflow, divide by zero and
inexact (log 29). -/
opaque fsigmoidConds : Word → BitVec 4

/-- Whether FSIGMOID's answer between 0.0 and 1.0 exceeds the exact sigmoid (43 R524 step 4; log 29). -/
opaque fsigmoidAway : Word → Bool

/-- Whether underflow is detected before rounding: IEEE 754 leaves it to the implementation (log 30). -/
opaque tininessBeforeRounding : Bool

/-- Whether a fused multiply-add of infinity and zero with a quiet NaN addend is invalid: IEEE 754 leaves it to
the implementation (log 30). -/
opaque fmaInfZeroNaNInvalid : Bool

/-! ### Decimal floating point: DFP_FORMAT (44_decimal_float R600, 93 U36) -/

/-- The value a decimal encoding stands for. -/
inductive DecValue
  | zero (neg : Bool)
  | num (q : Rat)
  | inf (neg : Bool)
  | qnan
  | snan
  deriving DecidableEq, Repr, Inhabited

/-- The magnitude that bits 62:0 of a decimal encoding stand for; bit 63 is the sign (44 R600, D54). -/
inductive DecMagnitude
  | zero
  | num (q : Rat)
  | inf
  | qnan
  | snan
  deriving DecidableEq, Repr, Inhabited

/-- The magnitude is at most q: no NaN and no infinity is. -/
def DecMagnitude.atMost (m : DecMagnitude) (q : Rat) : Prop :=
  match m with
  | .zero => 0 ≤ q
  | .num r => r ≤ q
  | _ => False

/-- The magnitude is at least q: no NaN is, an infinity always. -/
def DecMagnitude.atLeast (m : DecMagnitude) (q : Rat) : Prop :=
  match m with
  | .zero => q ≤ 0
  | .num r => q ≤ r
  | .inf => True
  | _ => False

/-- The distance of a finite magnitude from a number. -/
def DecMagnitude.distance (m : DecMagnitude) (q : Rat) : Option Rat :=
  match m with
  | .zero => some (if q < 0 then -q else q)
  | .num r => some (if r < q then q - r else r - q)
  | _ => none

/-- How a magnitude is rounded (43 R522): the directed modes have become these with the sign. -/
inductive MagnitudeMode
  | towardZero
  | awayFromZero
  | nearestEven
  | nearestAway
  deriving DecidableEq, Repr, Inhabited

/-- A rounded magnitude and the conditions of the rounding. -/
structure MagnitudeRounded where
  bits : BitVec 63
  ovf : Bool
  under : Bool
  deriving DecidableEq, Repr, Inhabited

/-- What DFP_FORMAT may be (44 R600, 43 R522): the magnitudes of the encodings, a rounding that is correct for them, the
constants and the NaNs. Which digit is even is the format's, so a tie of `nearestEven` may go either way; overflow and
underflow are reported of inexact results only (log 30). -/
structure DfpFormat where
  magnitude : BitVec 63 → DecMagnitude
  round : MagnitudeMode → Rat → MagnitudeRounded
  zero : BitVec 63
  one : BitVec 63
  minusOne : BitVec 63
  two : BitVec 63
  inf : BitVec 63
  /-- The quiet NaN that an invalid operation produces. -/
  qnan : Word
  /-- A NaN, quieted. -/
  quiet : BitVec 63 → BitVec 63
  subnormal : BitVec 63 → Bool
  num_pos : ∀ b q, magnitude b = .num q → 0 < q
  magnitude_zero : magnitude zero = .zero
  magnitude_one : magnitude one = .num 1
  magnitude_minusOne : magnitude minusOne = .num 1
  magnitude_two : magnitude two = .num 2
  magnitude_inf : magnitude inf = .inf
  magnitude_qnan : magnitude (qnan.extractLsb' 0 63) = .qnan
  quiet_snan : ∀ b, magnitude b = .snan → magnitude (quiet b) = .qnan
  quiet_qnan : ∀ b, magnitude b = .qnan → quiet b = b
  round_towardZero : ∀ q, 0 < q → (magnitude (round .towardZero q).bits).atMost q
  round_awayFromZero : ∀ q, 0 < q → (magnitude (round .awayFromZero q).bits).atLeast q
  round_ordered : ∀ m q, 0 < q →
    (magnitude (round m q).bits).atMost q ∨ (magnitude (round m q).bits).atLeast q
  /-- No encoding lies between a number and what it is rounded down to. -/
  round_down : ∀ m q b r, 0 < q → magnitude b = .num r → r ≤ q → (magnitude (round m q).bits).atMost q →
    (magnitude (round m q).bits).atLeast r
  /-- No encoding lies between a number and what it is rounded up to. -/
  round_up : ∀ m q b r, 0 < q → magnitude b = .num r → q ≤ r → (magnitude (round m q).bits).atLeast q →
    (magnitude (round m q).bits).atMost r
  /-- A finite result of a nearest mode is nearest. -/
  round_nearest : ∀ m q b d e, m = .nearestEven ∨ m = .nearestAway → 0 < q →
    (magnitude (round m q).bits).distance q = some d → (magnitude b).distance q = some e → d ≤ e
  /-- Of two nearest magnitudes `nearestAway` takes the larger. -/
  round_tie : ∀ q b d r, 0 < q → (magnitude (round .nearestAway q).bits).distance q = some d →
    magnitude b = .num r → (magnitude b).distance q = some d → (magnitude (round .nearestAway q).bits).atLeast r
  round_inf : ∀ m q, 0 < q → magnitude (round m q).bits = .inf → (round m q).ovf = true
  round_exact : ∀ m q, 0 < q → magnitude (round m q).bits = .num q → (round m q).ovf = false ∧ (round m q).under = false

/-- The magnitudes of the sample format. -/
def sampleMagnitude (b : BitVec 63) : DecMagnitude :=
  if b = 0#63 then .zero else if b = 1#63 then .num 1 else if b = 2#63 then .num 2
  else if b = 3#63 then .inf else .qnan

/-- The rounding of the sample format. -/
def sampleRound (m : MagnitudeMode) (q : Rat) : MagnitudeRounded :=
  match m with
  | .towardZero => ⟨if q < 1 then 0#63 else if q < 2 then 1#63 else 2#63, false, false⟩
  | .awayFromZero => ⟨if q ≤ 1 then 1#63 else if q ≤ 2 then 2#63 else 3#63, decide (2 < q), false⟩
  | _ => ⟨if q < 1 / 2 then 0#63 else if q < 3 / 2 then 1#63 else 2#63, false, false⟩

/-- A rounded magnitude of the sample format. -/
theorem sampleMagnitude_round (m : MagnitudeMode) (q : Rat) :
    sampleMagnitude (sampleRound m q).bits = match m with
      | .towardZero => if q < 1 then .zero else if q < 2 then .num 1 else .num 2
      | .awayFromZero => if q ≤ 1 then .num 1 else if q ≤ 2 then .num 2 else .inf
      | _ => if q < 1 / 2 then .zero else if q < 3 / 2 then .num 1 else .num 2 := by
  cases m <;> simp only [sampleRound] <;> (repeat' split) <;> rfl

/-- The finite magnitudes of the sample format. -/
theorem sampleMagnitude_num (b : BitVec 63) (r : Rat) (h : sampleMagnitude b = .num r) : r = 1 ∨ r = 2 := by
  unfold sampleMagnitude at h
  repeat' split at h
  all_goals grind

/-- Four magnitudes, 0, 1, 2 and infinity: that such formats exist is all it is for. -/
def DfpFormat.sample : DfpFormat where
  magnitude := sampleMagnitude
  round := sampleRound
  zero := 0
  one := 1
  minusOne := 1
  two := 2
  inf := 3
  qnan := 4
  quiet b := b
  subnormal _ := false
  num_pos b q h := by rcases sampleMagnitude_num b q h with rfl | rfl <;> decide
  magnitude_zero := by decide
  magnitude_one := by decide
  magnitude_minusOne := by decide
  magnitude_two := by decide
  magnitude_inf := by decide
  magnitude_qnan := by decide
  quiet_snan := by grind [sampleMagnitude]
  quiet_qnan _ _ := rfl
  round_towardZero q h := by rw [sampleMagnitude_round]; grind [DecMagnitude.atMost]
  round_awayFromZero q h := by rw [sampleMagnitude_round]; grind [DecMagnitude.atLeast]
  round_ordered m q h := by
    rw [sampleMagnitude_round]; cases m <;> grind [DecMagnitude.atMost, DecMagnitude.atLeast]
  round_down m q b r h hb := by
    rw [sampleMagnitude_round]
    rcases sampleMagnitude_num b r hb with rfl | rfl <;> cases m <;> grind [DecMagnitude.atMost, DecMagnitude.atLeast]
  round_up m q b r h hb := by
    rw [sampleMagnitude_round]
    rcases sampleMagnitude_num b r hb with rfl | rfl <;> cases m <;> grind [DecMagnitude.atMost, DecMagnitude.atLeast]
  round_nearest m q b d e hm h := by
    rw [sampleMagnitude_round]
    have := sampleMagnitude_num b
    rcases hm with rfl | rfl <;> cases hb : sampleMagnitude b <;> grind [DecMagnitude.distance]
  round_tie q b d r h hd hb := by
    rw [sampleMagnitude_round] at *
    rcases sampleMagnitude_num b r hb with rfl | rfl <;> grind [DecMagnitude.distance, DecMagnitude.atLeast]
  round_inf m q h := by rw [sampleMagnitude_round]; cases m <;> grind [sampleRound]
  round_exact m q h := by rw [sampleMagnitude_round]; cases m <;> grind [sampleRound]

/-- DFP_FORMAT: some format, of which nothing is known but the laws of `DfpFormat` (93 U36). -/
opaque someDfpFormat [Inhabited DfpFormat] : DfpFormat

/-- DFP_FORMAT. -/
def dfp : DfpFormat := @someDfpFormat ⟨DfpFormat.sample⟩

/-- dval: bit 63 is the sign (44 R600, D54). -/
def dval (w : Word) : DecValue :=
  match dfp.magnitude (w.extractLsb' 0 63) with
  | .zero => .zero w.msb
  | .num q => .num (if w.msb then -q else q)
  | .inf => .inf w.msb
  | .qnan => .qnan
  | .snan => .snan

/-- What `dround` answers: the encoding and the conditions of the rounding. -/
structure DecRounded where
  bits : Word
  ovf : Bool
  under : Bool
  inexact : Bool
  deriving DecidableEq, Repr, Inhabited

/-- The rounding of a magnitude under a rounding mode and a sign; modes 5 to 7 behave as 0 (43 R522). -/
def magnitudeMode (rm : BitVec 3) (neg : Bool) : MagnitudeMode :=
  if rm = 1#3 then .towardZero
  else if rm = 2#3 then (if neg then .towardZero else .awayFromZero)
  else if rm = 3#3 then (if neg then .awayFromZero else .towardZero)
  else if rm = 4#3 then .nearestAway
  else .nearestEven

/-- dround for a non-zero exact value (44 R600, R602). -/
def dround (rm : BitVec 3) (q : Rat) : DecRounded :=
  let neg := decide (q < 0)
  let r := dfp.round (magnitudeMode rm neg) (if neg then -q else q)
  let w := BitVec.ofBool neg ++ r.bits
  ⟨w, r.ovf, r.under, dval w != .num q⟩

/-- The encoding of a zero of the given sign; `dzero false` is DF(0). -/
def dzero (neg : Bool) : Word := BitVec.ofBool neg ++ dfp.zero
/-- The encoding of an infinity of the given sign. -/
def dinf (neg : Bool) : Word := BitVec.ofBool neg ++ dfp.inf
/-- The quiet NaN that an invalid operation produces. -/
def dqnan : Word := dfp.qnan
/-- A NaN operand, quieted: its sign stays. -/
def dquiet (w : Word) : Word := BitVec.ofBool w.msb ++ dfp.quiet (w.extractLsb' 0 63)
/-- DF(1). -/
def dfOne : Word := BitVec.ofBool false ++ dfp.one
/-- DF(-1). -/
def dfMinusOne : Word := BitVec.ofBool true ++ dfp.minusOne
/-- DF(2). -/
def dfTwo : Word := BitVec.ofBool false ++ dfp.two
/-- Whether an encoding is subnormal. -/
def dSubnormal (w : Word) : Bool := dfp.subnormal (w.extractLsb' 0 63)

/-! ### Cryptography, neural network, graphics (93 U42, U43) -/

opaque aes64ds : Word → Word → Word
opaque aes64dsm : Word → Word → Word
opaque aes64es : Word → Word → Word
opaque aes64esm : Word → Word → Word
opaque sm4ed : Word → Word → Word → Word
opaque sm4ks : Word → Word → Word → Word

/-- GFX_TRANSFORM of the twelve coefficients and the point (49 R977). -/
opaque gfxTransform : List (BitVec 40) → Word → Word

/-- The activation function of a neuron on 16.16 numbers (49 R951). -/
opaque nnaActivation : BitVec 32 → BitVec 32

/-- Whether a product of two 16.16 numbers, in units of 2^-32, that is no 16.16 number is rounded up (49 R951). -/
opaque nnaRoundsUp : Int → Bool

/-- The sum of the terms of an evaluation, in units of 2^-16, where it may overflow (49 R951). -/
opaque nnaOverflow : List Int → BitVec 32

end Sys2Proof.Config
end

