-- ==== Sys2Proof/Machine/State.lean ====
section
/-! DEFINITION. Everything the spec gives the machine, as plain data (10_state; the units of 20_memory, 47, 49),
the inputs and the schedule of the other agents, the reasons a step can stop, and the machine right after reset
(70_reset R1080). The value of every register the spec leaves unspecified at reset is 0: DESIGN CHOICE, unsafe
(log 1). -/

namespace Sys2Proof.Machine

open Sys2Proof.Config

/-! ### Parts of the state -/

/-- A code address register: 64-bit offset and 32-bit selector (10_state R33). -/
structure CodeAddr where
  off : Word
  sel : Selector
  deriving DecidableEq, Repr, Inhabited

/-- A selector register and its descriptor cache, `none` until the first load after reset (10_state R48,
20_memory R166, R179). -/
structure SegReg where
  sel : Selector
  desc : Option Descriptor
  deriving DecidableEq, Repr, Inhabited

/-- What the core keeps about its mode of operation. -/
structure Mode where
  /-- M_PM_STACK: eight entries of OM 5:4, IPL 3:1, IM 0 (10_state R104). -/
  pmStack : Word
  /-- The handler-kind stack: bit 0 is the current entry, 1 = interrupt handler (60 R1022). -/
  hkind : BitVec 8
  /-- Debug mode (10_state R126). -/
  dbg : Bool
  /-- di_count (10_state R123). -/
  diCount : BitVec 3
  /-- DBCR[63] was 1 when the last instruction started and it completed without a trap (60 R1051). -/
  stepPending : Bool
  /-- The core waits in WFI (47 R829). -/
  waiting : Bool
  /-- Instruction tracing is in progress (60 R1052). -/
  tracing : Bool
  deriving DecidableEq, Repr

/-- The control and status registers that are not kept elsewhere (10_state R65). -/
structure Csrs where
  /-- IE, one register of four bits (R66). -/
  ie : BitVec 4
  /-- CAUSE of each mode (R67). -/
  cause : Vector (BitVec 16) 4
  /-- U_FSTAT (R70). -/
  fstat : Word
  /-- SCRATCH of each mode (R68). -/
  scratch : Vector Word 4
  /-- TIME (R69). -/
  time : Word
  /-- S_ASID (R82). -/
  asid : BitVec 8
  /-- S_KEYS (R83). -/
  keys : Vector (BitVec 20) 8
  /-- M_CR0 (R93). -/
  cr0 : Word
  /-- M_TICK (R95). -/
  tick : Word
  /-- BADADDR of each mode (R97). -/
  badaddr : Vector Word 4
  /-- M_BAD_INSTR (R98). -/
  badInstr : Word
  /-- M_DBAD0 to M_DBAD3 (R99). -/
  dbad : Vector Word 4
  /-- M_DBCR (R100). -/
  dbcr : Word
  /-- M_DBSR (R101). -/
  dbsr : BitVec 4
  /-- M_TVEC (R102). -/
  tvec : Vector CodeAddr 4
  /-- M_GDTB (R107). -/
  gdtb : Word
  /-- M_GDTL (R108). -/
  gdtl : Word
  /-- M_TCB: the 32-bit selector of R65 and R111, not the 64 plain bits of which 91_not_in_source N4 speaks (DEDUCED,
  log 58). -/
  tcb : Selector
  /-- D_VSTEP (R112). -/
  vstep : BitVec 8
  /-- D_VTMP (R113). -/
  vtmp : Word
  deriving DecidableEq, Repr

/-- One neuron (49 R950); its arrays list only the entries that are not 0. `running` marks an evaluation that
NNA_TRIG started and the accelerator has not finished (49 R952). -/
structure Neuron where
  weights : List (Nat × BitVec 32)
  inputs : List (Nat × BitVec 32)
  bias : BitVec 32
  feedback : BitVec 32
  act : BitVec 32
  base : BitVec 16
  max : BitVec 16
  done : Bool
  running : Bool
  deriving DecidableEq, Repr

/-- The graphics registers and the transform switch (49 R970, R978). -/
structure Graphics where
  regs : Vector (BitVec 40) 64
  cmd : BitVec 1
  deriving DecidableEq, Repr

/-- A byte that a store or another master replaced in memory and that an instruction fetch may still see
(20_memory R216); `invalidated` once a CACHE command covered its line. -/
structure StaleByte where
  addr : Nat
  old : Byte
  invalidated : Bool
  deriving DecidableEq, Repr

/-- The values that VL, the sixty-four-bit registers of TVEC and the selector registers held before their last writes,
kept until the barrier that retires them (70_reset R1090 to R1093). A register of TVEC has the number of its CSR from
0x3030 on: 2n is TVEC[n] low, 2n + 1 TVEC[n] high (10_state R102). -/
structure Pending where
  vl : List (BitVec 8)
  tvec : List (BitVec 3 × Word)
  sel : List (Nat × SegReg)
  deriving DecidableEq, Repr

/-- What the model keeps of the fetch of the instruction in progress: the CS register that the fetch is made with
(70_reset R1093, log 10), and the TLB entries, by key, whose A bit the fetch has set and no data access since
(20_memory R184): an exception of the instruction takes those bits back (60 R1004, log 14). -/
structure Fetching where
  cs : SegReg
  marks : List Nat
  deriving DecidableEq, Repr

/-- The inputs of the core (10_state R96, R124). -/
structure Inputs where
  irqLevel : BitVec 3
  irqCause : BitVec 8
  nmi : Bool
  seed : Word
  deriving DecidableEq, Repr

/-- One move of the schedule: the core's, an input's or another agent's (log 5). -/
inductive Event
  /-- The core takes its next step. -/
  | core
  /-- The platform presents this request; level 0 withdraws it (60 R1030). -/
  | irq (level : BitVec 3) (cause : BitVec 8)
  /-- A non-maskable interrupt arrives (60 R1032). -/
  | nmi
  /-- The entropy collector presents this value of M_SEED (10_state R96). -/
  | seed (w : Word)
  /-- This many CPU clocks pass (10_state R95). -/
  | clocks (n : Nat)
  /-- One tick of tm_clk_i (10_state R69). -/
  | tmTick
  /-- Another bus master writes a byte (60 R1041). -/
  | busWrite (addr : Nat) (b : Byte)
  /-- The graphics engine takes one step (49 R973). -/
  | graphics
  /-- A neuron finishes its evaluation (49 R952). -/
  | neuronDone (n : BitVec 3)
  /-- The trace unit pushes a record (60 R1052). -/
  | trace (record : BitVec 112)
  /-- The reset line (70_reset R1080). -/
  | reset
  deriving DecidableEq, Repr

/-! ### The state -/

/-- The machine. -/
structure State where
  /-- r0 to r63; r0's place is never written (10_state R20, R21). -/
  regs : Vector Word 64
  /-- LC (10_state R30). -/
  lc : Word
  /-- c0 to c7; c7 is the instruction pointer and CS, c1 and c2 the link registers, c6 EIP (10_state R32, R34, R44). -/
  creg : Vector CodeAddr 8
  /-- The descriptor cache of CS (10_state R48). -/
  csDesc : Option Descriptor
  /-- ZS, DS, ES, FS, GS, HS, SS: selectors 0 to 6 (10_state R45). -/
  segs : Vector SegReg 7
  /-- PMA0 to PMA7: selectors 8 to 15 (10_state R45, 47 R833). -/
  pma : Vector Selector 8
  /-- PTA, LDT, KYT: selectors 16 to 18 (10_state R45, R80, R109, R110). -/
  sys : Vector SegReg 3
  /-- v0 to v63 of at most 64 elements; v0's place is never written (10_state R50, R51). -/
  vregs : Vector (Vector Word 64) 64
  /-- m0 to m7 (10_state R53). -/
  masks : Vector Word 8
  /-- VL (10_state R57). -/
  vl : BitVec 8
  mode : Mode
  csr : Csrs
  /-- The load reservation (10_state R122). -/
  resv : Option Word
  /-- sema[0..63] as the bits of one word (10_state R121). -/
  sema : Word
  /-- The TLB, keyed by 1024 * way + entry; entries equal to 0 are not listed (20_memory R180). -/
  tlb : List (Nat × Word)
  /-- The pages and keys the key cache has read (20_memory R196, log 12). -/
  keyCache : List (Nat × BitVec 20)
  /-- The tetras, by address, that writes have replaced since reset: what the key cache may still hold of a rewritten
  entry of the key table (20_memory R196, 93 U8, log 12). -/
  rewritten : List (Nat × BitVec 32)
  /-- Queues 0 to 15, oldest entry first (47 R835). -/
  queues : Vector (List (BitVec 112)) 16
  nna : Vector Neuron 8
  gfx : Graphics
  /-- Physical memory: addresses strictly rising, no byte equal to 0 listed (20_memory R140). -/
  mem : List Host.Cell
  /-- Old bytes a fetch may still see (20_memory R216). -/
  stale : List StaleByte
  pending : Pending
  /-- The fetch of the instruction in progress; every fetch begins by setting it (70_reset R1093, 60 R1004). -/
  fetching : Fetching
  inputs : Inputs
  /-- The schedule of the other agents; with nothing scheduled the core runs (log 5). -/
  env : List Event
  /-- How many resets there have been: the unspecified contents of the descriptor caches are one for each (93 U50,
  log 16). -/
  era : Nat
  /-- The counter that makes each free value fresh (log 6). -/
  draw : Nat
  /-- The parameters of the implementation; no step changes them (log 4). -/
  config : Params
  deriving DecidableEq, Repr

/-! ### Stops -/

/-- Why the machine stops with a fault. -/
inductive Fault
  /-- An access to a physical address of kind device (20_memory R150, D25), raised by the bus access of a load, a
  store or a fetch: the spec does not say what the device answers. Safe: the model stops where hardware goes on. -/
  | deviceAccess (addr : Nat)
  deriving DecidableEq, Repr

/-- Why the model gives a step no meaning. Every one but the first stands for a `refuse` entry of
93_implementation_defined; all are safe, since nothing can be proved of a run that reaches one. -/
inductive Refusal
  /-- An arm of `exec` that has no meaning yet, raised by the dispatch only. -/
  | notModelled (mnemonic : String)
  /-- U12: raised by the fetch at an odd instruction pointer. -/
  | oddInstructionPointer
  /-- U6, 20_memory R179: raised by a data access through a segment whose descriptor cache nothing has loaded. -/
  | segmentNeverLoaded (n : Nat)
  /-- U5: raised by a descriptor load that fails the checks of 20_memory R168. -/
  | descriptorCheck
  /-- U5: raised by a descriptor read that the bus answers with an error. -/
  | descriptorBusError
  /-- U5: raised by JGATE through something that is not a call gate. -/
  | notCallGate
  /-- U20: raised by MTVL with a value above VLMAX. -/
  | vectorLengthTooLarge
  /-- U30: raised by the step for a pad or field without a role that is not zero. -/
  | noRoleField
  /-- U30: raised when a vector register stands where a scalar is read. -/
  | vectorOperandInScalar
  /-- U30: raised by the step for v = 1 in an instruction defined only for v = 0. -/
  | vectorFormRefused
  /-- U30: raised by the step for v = 0 in an instruction defined only for v = 1. -/
  | scalarFormRefused
  /-- 48 R894: raised by VEX with an immediate in place of its vector register. -/
  | immediateVectorOperand
  /-- U38: raised for Lk = 3, and for RTS with Lk = 0 or 3. -/
  | reservedLink
  /-- U38: raised by REX with Tm = 3. -/
  | reservedMode
  /-- U38: raised by the step for a CSR instruction with O3 in 4..7. -/
  | reservedCsrOperation
  /-- U39: raised by MFSEL and MTSEL with a selector number above 18. -/
  | selectorNumber
  /-- U41: raised by VEINS and VEX with an element index at or above VLMAX. -/
  | elementIndex
  /-- U44: raised by NNA_MFACT with a neuron number above 7. -/
  | neuronNumber
  /-- U44: raised by NNA_MTWT and NNA_MTIN with an array index above 1023. -/
  | neuronArrayIndex
  /-- U44: raised by NNA_TRIG and by the end of an evaluation with max > 1023 or base > max. -/
  | neuronBounds
  /-- U44: raised by RW_COEFF with a coefficient number above 12. -/
  | coefficientNumber
  /-- U45: raised by the graphics engine at a control write that starts a drawing command. -/
  | graphicsDrawing
  /-- U46: raised by a prefix before an instruction that is not of the RIL kind. -/
  | prefixTarget
  /-- Raised by the step for a constructor whose fields the decoder never gives it; no fetched word reaches it. -/
  | spelling
  deriving DecidableEq, Repr

/-! ### Reset -/

namespace State

/-- A neuron with nothing written. -/
def resetNeuron : Neuron := ⟨[], [], 0, 0, 0, 0, 0, false, false⟩

/-- The mode after reset: machine mode, every interrupt masked, no handler, no debugging (70_reset R1080). -/
def resetMode : Mode := ⟨0x3F3F3F3F3F3F3F3F, 0, false, 0, false, false, false⟩

/-- The control and status registers after reset: M_DBCR, D_VSTEP, M_TICK, Pe, WBM, SPLE and D are 0 by
70_reset R1080, the others 0 by log 1. -/
def resetCsrs : Csrs where
  ie := 0
  cause := Vector.replicate 4 0
  fstat := 0
  scratch := Vector.replicate 4 0
  time := 0
  asid := 0
  keys := Vector.replicate 8 0
  cr0 := 0
  tick := 0
  badaddr := Vector.replicate 4 0
  badInstr := 0
  dbad := Vector.replicate 4 0
  dbcr := 0
  dbsr := 0
  tvec := Vector.replicate 4 ⟨0, 0⟩
  gdtb := 0
  gdtl := 0
  tcb := 0
  vstep := 0
  vtmp := 0

/-- The machine right after reset (70_reset R1080). No interrupt is requested: DESIGN CHOICE, the inputs are the
platform's and the spec gives them no value (10_state R124, log 1). -/
def reset : State where
  regs := Vector.replicate 64 0
  lc := 0
  creg := #v[⟨0, 0⟩, ⟨0, 0⟩, ⟨0, 0⟩, ⟨0, 0⟩, ⟨0, 0⟩, ⟨0, 0⟩, ⟨0, 0⟩, ⟨0xFFFFFFFFFFFC0100, 0⟩]
  csDesc := none
  segs := Vector.replicate 7 ⟨0, none⟩
  pma := Vector.replicate 8 0
  sys := Vector.replicate 3 ⟨0, none⟩
  vregs := Vector.replicate 64 (Vector.replicate 64 0)
  masks := Vector.replicate 8 0
  vl := 0
  mode := resetMode
  csr := resetCsrs
  resv := none
  sema := 0
  tlb := []
  keyCache := []
  rewritten := []
  queues := Vector.replicate 16 []
  nna := Vector.replicate 8 resetNeuron
  gfx := ⟨Vector.replicate 64 0, 0⟩
  mem := []
  stale := []
  pending := ⟨[], [], []⟩
  fetching := ⟨⟨0, none⟩, []⟩
  inputs := ⟨0, 0, false, 0⟩
  env := []
  era := 0
  draw := 0
  config := Params.default

end State

/-- The outcome of an instruction or a step. -/
abbrev Outcome := Host.Outcome State Fault Refusal

end Sys2Proof.Machine
end

