-- ==== Sys2Proof/Machine/Ops.lean ====
section
/-! DEFINITION. The named operations over State that every meaning shares: sparse tables and physical memory,
registers, free values and hazards, descriptor loads, taking an exception and returning from one, and how an
instruction's result becomes the outcome of a step. -/

namespace Sys2Proof.Machine

open Sys2Proof.Config

/-! ### Sparse tables in canonical form -/

/-- The value at a key of a table that lists only what differs from `d`. -/
def sparseGet {α : Type} (d : α) : List (Nat × α) → Nat → α
  | [], _ => d
  | (k, v) :: l, a => if k = a then v else sparseGet d l a

/-- Writes one key, keeping keys strictly rising and no value equal to `d` listed. -/
def sparseSet {α : Type} [DecidableEq α] (d : α) : List (Nat × α) → Nat → α → List (Nat × α)
  | [], a, x => if x = d then [] else [(a, x)]
  | (k, v) :: l, a, x =>
    if a < k then (if x = d then (k, v) :: l else (a, x) :: (k, v) :: l)
    else if a = k then (if x = d then l else (a, x) :: l)
    else (k, v) :: sparseSet d l a x

/-- Every key of the table is at least `lo`, keys strictly rise, and no value is `d`. -/
def sparseWfFrom {α : Type} [DecidableEq α] (d : α) : Nat → List (Nat × α) → Bool
  | _, [] => true
  | lo, (k, v) :: l => decide (lo ≤ k) && decide (v ≠ d) && sparseWfFrom d (k + 1) l

/-- The canonical form: keys strictly rising, no value equal to `d`. -/
def sparseWf {α : Type} [DecidableEq α] (d : α) (l : List (Nat × α)) : Bool := sparseWfFrom d 0 l

/-! ### Physical memory -/

/-- What a physical byte that nothing has written reads as. DESIGN CHOICE, unsafe (log 2). -/
def Memory.unlisted : Byte := 0

/-- One byte of physical memory. -/
def Memory.read (m : List Host.Cell) (a : Nat) : Byte := sparseGet Memory.unlisted m a

/-- Writes one byte of physical memory. -/
def Memory.write (m : List Host.Cell) (a : Nat) (b : Byte) : List Host.Cell := sparseSet Memory.unlisted m a b

/-- The canonical form of memory. -/
def Memory.wf (m : List Host.Cell) : Bool := sparseWf Memory.unlisted m

/-- The 64-bit little-endian value at a physical address (20_memory R141). -/
def Memory.octa (m : List Host.Cell) (a : Word) : Word :=
  wordOf ((List.range 8).map fun k => Memory.read m (a + BitVec.ofNat 64 k).toNat)

/-- The 32-bit little-endian value at a physical address. -/
def Memory.tetra (m : List Host.Cell) (a : Word) : BitVec 32 :=
  (wordOf ((List.range 4).map fun k => Memory.read m (a + BitVec.ofNat 64 k).toNat)).setWidth 32

/-- What answers at a physical address: the first range of PLATFORM_MAP that holds it, memory where none does
(20_memory R150, D25). -/
def platformKind (map : List PhysRange) (a : Nat) : RangeKind :=
  match map.find? fun r => decide (r.lo ≤ a) && decide (a ≤ r.hi) with
  | some r => r.kind
  | none => .memory

/-! ### Registers -/

/-- c[n]. -/
def State.codeAddr (s : State) (n : BitVec 3) : CodeAddr := s.creg.get n.toFin

/-- Writes c[n]. -/
def State.setCodeAddr (s : State) (n : BitVec 3) (c : CodeAddr) : State :=
  { s with creg := s.creg.set n.toNat c n.isLt }

/-- ip, the offset of c[7] (10_state R40). -/
def State.ip (s : State) : Word := (s.codeAddr 7).off

/-- cs, the selector of c[7] (10_state R46). -/
def State.cs (s : State) : Selector := (s.codeAddr 7).sel

/-- Sets ip, the selector unchanged. -/
def State.setIp (s : State) (a : Word) : State := s.setCodeAddr 7 ⟨a, s.cs⟩

/-- The sequential address: only the low 24 bits advance (10_state R41). -/
def nextIp (ip : Word) (len : Nat) : Word :=
  ip.extractLsb' 24 40 ++ (ip.extractLsb' 0 24 + BitVec.ofNat 24 len)

/-- `pc <- next_ip` (00 R11). -/
def State.advance (s : State) (len : Nat) : State := s.setIp (nextIp s.ip len)

/-- OM, the operating mode (10_state R104, R105). -/
def State.om (s : State) : BitVec 2 := s.mode.pmStack.extractLsb' 4 2

/-- IPL, the interrupt priority level (10_state R104). -/
def State.ipl (s : State) : BitVec 3 := s.mode.pmStack.extractLsb' 1 3

/-- IM, the interrupt mask (10_state R104). -/
def State.im (s : State) : BitVec 1 := s.mode.pmStack.extractLsb' 0 1

/-- M_CR0.Pe (10_state R93). -/
def State.pe (s : State) : Bool := s.csr.cr0.getLsbD 0

/-- The register that a register field names: 27 is banked (10_state R23, 60 R1022). -/
def State.bank (s : State) (n : RegNum) : RegNum :=
  if n = 27#6 then
    (if s.mode.dbg then 30#6 else if s.om = 0#2 then 27#6 else if s.mode.hkind.getLsbD 0 then 28#6 else 29#6)
  else n

/-- r[n]: r0 reads zero (10_state R21). -/
def State.reg (s : State) (n : RegNum) : Word := if n = 0#6 then 0 else s.regs.get (s.bank n).toFin

/-- `r[n] <- w`: a write to r0 is discarded (10_state R21). -/
def State.setReg (s : State) (n : RegNum) (w : Word) : State :=
  if n = 0#6 then s else { s with regs := s.regs.set (s.bank n).toNat w (s.bank n).isLt }

/-- Element x of v[n]: v0 reads zero (10_state R51). -/
def State.vec (s : State) (n : RegNum) (x : Nat) : Word :=
  if n = 0#6 then 0 else (s.vregs.get n.toFin)[x]?.getD 0

/-- Writes element x of v[n]: writes to v0 are discarded (10_state R51). -/
def State.setVec (s : State) (n : RegNum) (x : Nat) (w : Word) : State :=
  if n = 0#6 then s
  else { s with vregs := s.vregs.set n.toNat ((s.vregs.get n.toFin).setIfInBounds x w) n.isLt }

/-- m[n] (10_state R53). -/
def State.mask (s : State) (n : BitVec 3) : Word := s.masks.get n.toFin

/-- Writes m[n]. -/
def State.setMask (s : State) (n : BitVec 3) (w : Word) : State :=
  { s with masks := s.masks.set n.toNat w n.isLt }

/-- D_VSTEP <- x (10_state R112). -/
def State.setVstep (s : State) (x : Nat) : State :=
  { s with csr := { s.csr with vstep := BitVec.ofNat 8 x } }

/-- LC <- w (10_state R30). -/
def State.setLc (s : State) (w : Word) : State := { s with lc := w }

/-! ### Free values and hazards -/

/-- Marks the draw as used: the next free value is a new one (log 6). -/
def State.fresh (s : State) : State := { s with draw := s.draw + 1 }

/-- The free value number `k` of the current draw. -/
def State.free (s : State) (k : Nat) : Word := freeWord s.draw k

/-- What M_BAD_INSTR receives where no instruction was decoded: a free value of its own, tied to none that an instruction
of the same draw uses (93 U48, logs 6 and 22). -/
def State.freeBadInstr (s : State) : Word := s.free 256

/-- One of the old values or the new one, by a free choice (70_reset R1090). -/
def chooseFrom {α : Type} (draw : Nat) (olds : List α) (new : α) : α :=
  (olds[freeChoice draw 0 % (olds.length + 1)]?).getD new

/-- A dependent use: the new value where nothing is pending, else a free choice among old and new. -/
def State.useFrom {α : Type} (s : State) (olds : List α) (new : α) : α × State :=
  match olds with
  | [] => (new, s)
  | _ :: _ => (chooseFrom s.draw olds new, s.fresh)

/-- Keeps the old value beside the new one (70_reset R1090). -/
def notePending {κ α : Type} [DecidableEq κ] [DecidableEq α] (l : List (κ × α)) (k : κ) (old new : α) :
    List (κ × α) :=
  if old = new ∨ (k, old) ∈ l then l else (k, old) :: l

/-- The old values kept under a key. -/
def pendingFor {κ α : Type} [DecidableEq κ] (l : List (κ × α)) (k : κ) : List α :=
  (l.filter fun p => decide (p.1 = k)).map Prod.snd

/-- A use of VL (70_reset R1091). -/
def State.useVl (s : State) : BitVec 8 × State := s.useFrom s.pending.vl s.vl

/-- VL <- n, the old length kept until SYNC (70_reset R1091). -/
def State.setVl (s : State) (n : BitVec 8) : State :=
  { s with
    vl := n
    pending := { s.pending with
      vl := if s.vl = n ∨ s.vl ∈ s.pending.vl then s.pending.vl else s.vl :: s.pending.vl } }

/-- A use of TVEC[n] low, CSR 0x3030 + 2n (10_state R102, 70_reset R1092). -/
def State.useTvecLow (s : State) (n : BitVec 2) : Word × State :=
  s.useFrom (pendingFor s.pending.tvec (n ++ 0#1)) (s.csr.tvec.get n.toFin).off

/-- A use of TVEC[n] high, CSR 0x3031 + 2n (10_state R102, 70_reset R1092). -/
def State.useTvecHigh (s : State) (n : BitVec 2) : Word × State :=
  s.useFrom (pendingFor s.pending.tvec (n ++ 1#1)) ((s.csr.tvec.get n.toFin).sel.setWidth 64)

/-- A use of TVEC[n]: its two registers, each old or new by a choice of its own (70_reset R1090, R1092). -/
def State.useTvec (s : State) (n : BitVec 2) : CodeAddr × State :=
  let low := s.useTvecLow n
  let high := low.2.useTvecHigh n
  (⟨low.1, high.1.setWidth 32⟩, high.2)

/-- TVEC[n] low <- w, the old value kept until SYNC (70_reset R1092). -/
def State.setTvecLow (s : State) (n : BitVec 2) (w : Word) : State :=
  let old := s.csr.tvec.get n.toFin
  { s with
    csr := { s.csr with tvec := s.csr.tvec.set n.toNat ⟨w, old.sel⟩ n.isLt }
    pending := { s.pending with tvec := notePending s.pending.tvec (n ++ 0#1) old.off w } }

/-- TVEC[n] high <- sel, the old value kept until SYNC (70_reset R1092). -/
def State.setTvecHigh (s : State) (n : BitVec 2) (sel : Selector) : State :=
  let old := s.csr.tvec.get n.toFin
  { s with
    csr := { s.csr with tvec := s.csr.tvec.set n.toNat ⟨old.off, sel⟩ n.isLt }
    pending := { s.pending with
      tvec := notePending s.pending.tvec (n ++ 1#1) (old.sel.setWidth 64) (sel.setWidth 64) } }

/-- The selector register with one of the numbers 0 to 18 and its descriptor cache; PMA0 to PMA7 have no cache
(10_state R45, R48). -/
def State.selector (s : State) (n : Nat) : SegReg :=
  if n = 7 then ⟨s.cs, s.csDesc⟩
  else if n < 7 then s.segs[n]?.getD default
  else if n < 16 then ⟨s.pma[n - 8]?.getD 0, none⟩
  else s.sys[n - 16]?.getD default

/-- A use of a selector register (70_reset R1093). -/
def State.useSelector (s : State) (n : Nat) : SegReg × State :=
  s.useFrom (pendingFor s.pending.sel n) (s.selector n)

/-! ### The fetch in progress -/

/-- The start of an instruction fetch: CS is used once for all the bytes of the instruction, a prefix's among them
(70_reset R1093, log 10), and no A bit has been set by it yet. -/
def State.beginFetch (s : State) : State :=
  let u := s.useSelector 7
  { u.2 with fetching := ⟨u.1, []⟩ }

/-- A, the bit of a TLB entry that a permitted access sets (20_memory R180, R184). -/
def tlbAccessed : Word := 0x0020000000000000

/-- Clears A in the TLB entry with a key. -/
def clearAccessed (tlb : List (Nat × Word)) (key : Nat) : List (Nat × Word) :=
  sparseSet 0 tlb key (sparseGet 0 tlb key &&& ~~~tlbAccessed)

/-- What an exception takes back of the fetch of its own instruction: the A bits that the fetch has set (60 R1004,
20_memory R184, log 14). -/
def State.abandonFetch (s : State) : State :=
  { s with tlb := s.fetching.marks.foldl clearAccessed s.tlb, fetching := { s.fetching with marks := [] } }

/-! ### Results -/

/-- Why a step ends without a next state. -/
inductive Halt
  | fault (f : Fault)
  | refuse (r : Refusal)
  deriving DecidableEq, Repr

/-- An exception raised by an instruction: its cause, the address for BADADDR if it has one, and whether the trap
enters debug mode (60 R1011, R1054). -/
structure Exc where
  cause : BitVec 8
  badAddr : Option Word
  debug : Bool
  deriving DecidableEq, Repr

/-- An exception with a cause code only. -/
def Exc.plain (cause : BitVec 8) : Exc := ⟨cause, none, false⟩

/-- An exception of a memory access at a virtual address. -/
def Exc.memory (cause : BitVec 8) (va : Word) : Exc := ⟨cause, some va, false⟩

/-- What an operation answers: a value and the state after it, an exception with the state in which the trap is
entered, or a stop. -/
inductive Res (α : Type)
  | ok (a : α) (s : State)
  | trap (e : Exc) (s : State)
  | stop (h : Halt)

/-- Runs an operation and, if it answers, the next one. -/
def Res.bind {α β : Type} (r : Res α) (f : α → State → Res β) : Res β :=
  match r with
  | .ok a s => f a s
  | .trap e s => .trap e s
  | .stop h => .stop h

/-- An operation that is abandoned by a trap changes nothing but the debug status and the draw counter
(60 R1004, R1050, 30 R242). -/
def Res.restore {α : Type} (s0 : State) : Res α → Res α
  | .ok a s => .ok a s
  | .trap e s => .trap e { s0 with draw := s.draw, csr := { s0.csr with dbsr := s.csr.dbsr },
                                   mode := { s0.mode with tracing := s.mode.tracing } }
  | .stop h => .stop h

/-- A stop as an outcome. -/
def Halt.outcome : Halt → Outcome
  | .fault f => .fault f
  | .refuse r => .refused r

/-! ### Descriptor loads (20_memory R164 to R168, D87) -/

/-- Access rights ACR, bits 255:236 of a descriptor (20_memory R169). -/
def Descriptor.acr (d : Descriptor) : BitVec 20 := d.o3.extractLsb' 44 20

/-- P, the segment is present (20_memory R169). -/
def Descriptor.present (d : Descriptor) : Bool := (Descriptor.acr d).getLsbD 19

/-- Bit 18, a system descriptor (20_memory R170). -/
def Descriptor.isSystem (d : Descriptor) : Bool := (Descriptor.acr d).getLsbD 18

/-- Type of a system descriptor, ACR bits 15:12 (20_memory R173). -/
def Descriptor.type (d : Descriptor) : BitVec 4 := (Descriptor.acr d).extractLsb' 12 4

/-- The descriptor cache of selector register n, or the unspecified content it has from reset to its first load: one
content, the same at every use (70_reset R1080, R1081, 93 U50, log 16). -/
def State.cached (s : State) (n : Nat) (r : SegReg) : Descriptor := r.desc.getD (powerUpDescriptor s.era n)

/-- Base and size in bytes of the table that a selector's T bit chooses (20_memory R164, R174, D21, D26). -/
def State.descriptorTable (s : State) (sel : Selector) : (Word × Word) × State :=
  if sel.getLsbD 23 then
    let u := s.useSelector 17
    let d := s.cached 17 u.1
    ((d.o0, (d.o2.extractLsb' 0 28).setWidth 64), u.2)
  else ((s.csr.gdtb.extractLsb' 12 52 ++ 0#12, s.csr.gdtl), s)

/-- Index, bits 22:0 of a selector (20_memory R163). -/
def selectorIndex (sel : Selector) : Word := (sel.extractLsb' 0 23).setWidth 64

/-- The first of `n` consecutive physical bytes that no memory answers for. -/
def firstNonMemory (map : List PhysRange) (a : Word) (n : Nat) : Option (Nat × RangeKind) :=
  (List.range n).findSome? fun k =>
    let p := (a + BitVec.ofNat 64 k).toNat
    match platformKind map p with
    | .memory => none
    | kind => some (p, kind)

/-- The 32 bytes of the descriptor a selector names, read straight from the bus (20_memory R166, D87). The flag says
whether the index lies inside the table (20_memory R164). -/
def State.readDescriptor (s : State) (sel : Selector) : Res (Descriptor × Bool) :=
  let t := s.descriptorTable sel
  let at_ := t.1.1 + 32#64 * selectorIndex sel
  match firstNonMemory s.config.platformMap at_ 32 with
  | some (p, .device) => .stop (.fault (.deviceAccess p))
  | some _ => .stop (.refuse .descriptorBusError)
  | none =>
    .ok (⟨Memory.octa s.mem at_, Memory.octa s.mem (at_ + 8), Memory.octa s.mem (at_ + 16),
          Memory.octa s.mem (at_ + 24)⟩,
        decide (32 * (selectorIndex sel).toNat + 32 ≤ t.1.2.toNat)) t.2

/-- Loads the descriptor for a register, with the checks of 20_memory R168 when Pe = 1; `system` says whether the
register takes system descriptors. PL, DPL and the current level are not compared and PRIV is never raised, and a system
descriptor is accepted whatever its type field is: R168 gives neither (DEDUCED, log 17). -/
def State.loadDescriptor (s : State) (sel : Selector) (system : Bool) : Res Descriptor :=
  (s.readDescriptor sel).bind fun d s1 =>
    if s.pe && !(Descriptor.present d.1 && d.2 && Descriptor.isSystem d.1 == system) then
      .stop (.refuse .descriptorCheck)
    else .ok d.1 s1

/-- Puts a selector and its descriptor into register n, keeping the old pair until MEMSB (70_reset R1093). -/
def State.putSelector (s : State) (n : Nat) (r : SegReg) : State :=
  let p := { s.pending with sel := notePending s.pending.sel n (s.selector n) r }
  if n = 7 then { s.setCodeAddr 7 ⟨s.ip, r.sel⟩ with csDesc := r.desc, pending := p }
  else if n < 7 then { s with segs := s.segs.setIfInBounds n r, pending := p }
  else if n < 16 then { s with pma := s.pma.setIfInBounds (n - 8) r.sel, pending := p }
  else { s with sys := s.sys.setIfInBounds (n - 16) r, pending := p }

/-- A write of selector register n by MTSEL or a CSR (20_memory R166, 47 R833): CS is not written, PMA0 to PMA7 only
keep the value. -/
def State.writeSelector (s : State) (n : Nat) (sel : Selector) : Res Unit :=
  if n = 7 then .ok () s
  else if n < 7 then (s.loadDescriptor sel false).bind fun d s1 => .ok () (s1.putSelector n ⟨sel, some d⟩)
  else if n < 16 then .ok () (s.putSelector n ⟨sel, none⟩)
  else if n < 19 then (s.loadDescriptor sel true).bind fun d s1 => .ok () (s1.putSelector n ⟨sel, some d⟩)
  else .stop (.refuse .selectorNumber)

/-- `c[7] <- (off, sel)` with the CS descriptor reload (46 R745, 20_memory R166, D87). -/
def State.jumpFar (s : State) (c : CodeAddr) : Res Unit :=
  (s.loadDescriptor c.sel false).bind fun d s1 =>
    .ok () ((s1.putSelector 7 ⟨c.sel, some d⟩).setIp c.off)

/-! ### Taking an exception and returning from one (60 section 3) -/

/-- What a trap entry is told (60 R1020): the cause, the address to return to, the interrupt level if there is one,
what M_BADADDR and M_BAD_INSTR receive, whether debug mode is entered, and whether an interrupt handler starts. -/
structure TrapInfo where
  cause : BitVec 8
  epc : Word
  level : Option (BitVec 3)
  badAddr : Option Word
  badInstr : Word
  debug : Bool
  interrupt : Bool
  deriving DecidableEq, Repr

/-- The new current entry of PMSTACK: machine mode, IM = 1, the level given or the old IPL (60 R1020 c). -/
def trapEntry (s : State) (level : Option (BitVec 3)) : BitVec 8 :=
  0#2 ++ 3#2 ++ level.getD s.ipl ++ 1#1

/-- Pushes the single-step bit onto the history stack of DBCR and clears it (60 R1020 g, 10_state R100). -/
def pushSingleStep (dbcr : Word) : Word :=
  0#1 ++ dbcr.extractLsb' 55 7 ++ dbcr.extractLsb' 63 1 ++ dbcr.extractLsb' 0 55

/-- Pops the single-step bit (60 R1024, 10_state R100). -/
def popSingleStep (dbcr : Word) : Word :=
  dbcr.extractLsb' 55 1 ++ 0#1 ++ dbcr.extractLsb' 56 7 ++ dbcr.extractLsb' 0 55

/-- M_CR0 with the D bit replaced (10_state R93, R126). -/
def setDebugBit (cr0 : Word) (b : Bool) : Word := BitVec.ofBool b ++ cr0.extractLsb' 0 63

/-- The vector of a mode (60 R1021). -/
def vectorOf (tvec3 : CodeAddr) (om : BitVec 2) : CodeAddr :=
  ⟨(tvec3.off.extractLsb' 8 56 ++ 0#8) + 32#64 * om.setWidth 64, tvec3.sel⟩

/-- Everything a trap entry saves and switches, all from the values before the trap (60 R1020 a to j). -/
def State.saveForTrap (s : State) (t : TrapInfo) : State :=
  { s with
    creg := s.creg.set 6 ⟨t.epc, s.cs⟩
    mode := { s.mode with
      pmStack := s.mode.pmStack.extractLsb' 0 56 ++ trapEntry s t.level
      hkind := s.mode.hkind.extractLsb' 0 7 ++ BitVec.ofBool t.interrupt
      dbg := t.debug
      diCount := 0
      stepPending := false
      waiting := false }
    csr := { s.csr with
      cause := s.csr.cause.set 3 (t.cause.setWidth 16)
      badInstr := t.badInstr
      badaddr := match t.badAddr with
        | some a => s.csr.badaddr.set 3 a
        | none => s.csr.badaddr
      dbcr := pushSingleStep s.csr.dbcr
      cr0 := setDebugBit s.csr.cr0 s.mode.dbg } }

/-- `trap(cause, epc, level)`: the one trap entry of the machine (60 R1020, R1021). TVEC[3] is read as a dependent
use (70_reset R1092). -/
def State.takeTrap (s : State) (t : TrapInfo) : Res Unit :=
  let u := s.useTvec 3
  (u.2.saveForTrap t).jumpFar (vectorOf u.1 s.om)

/-- Everything a return from exception restores but the instruction pointer (47 R844, 60 R1024). -/
def State.restoreFromTrap (s : State) (sema : BitVec 6) : State :=
  { s with
    mode := { s.mode with
      pmStack := 0x3F#8 ++ s.mode.pmStack.extractLsb' 8 56
      hkind := 0#1 ++ s.mode.hkind.extractLsb' 1 7
      dbg := s.csr.cr0.getLsbD 63 }
    csr := { s.csr with
      dbcr := popSingleStep s.csr.dbcr
      cr0 := setDebugBit s.csr.cr0 false }
    sema := s.sema &&& ~~~(1#64 ||| 1#64 <<< sema.toNat) }

/-- The return from an exception: pops the mode stack, the single-step bit, debug mode and the handler kind, clears
semaphore 0 and one more, and jumps to c[6] plus an offset (47 R844). -/
def State.returnFromTrap (s : State) (offset : BitVec 12) (sema : BitVec 6) : Res Unit :=
  let c := s.codeAddr 6
  (s.restoreFromTrap sema).jumpFar ⟨c.off + offset.setWidth 64, c.sel⟩

/-! ### From an instruction's result to an outcome -/

/-- What a trap of an instruction records about it: its length in bytes and its bits (60 R1011). -/
structure Ctx where
  size : Nat
  bits : Word
  deriving DecidableEq, Repr

/-- An answer of an operation that itself takes a trap or a jump. -/
def Res.outcome : Res Unit → Outcome
  | .ok _ s => .next s
  | .trap _ s => .next s
  | .stop h => h.outcome

/-- An exception of the instruction at ip: nothing of its fetch stays (60 R1004, R1011, R1020). -/
def State.raise (s : State) (c : Ctx) (e : Exc) : Outcome :=
  (s.abandonFetch.takeTrap ⟨e.cause, s.ip, none, e.badAddr, c.bits, e.debug, false⟩).outcome

/-- The outcome of an instruction that set ip itself or advanced it. -/
def finish (c : Ctx) : Res Unit → Outcome
  | .ok _ s => .next s
  | .trap e s => s.raise c e
  | .stop h => h.outcome

/-- The outcome of an instruction that ends with the sequential advance (00 R11). -/
def finishSeq (c : Ctx) (r : Res Unit) : Outcome := finish c (r.bind fun _ s => .ok () (s.advance c.size))

/-- The sequential outcome of an instruction that cannot fail. -/
def next (c : Ctx) (s : State) : Outcome := .next (s.advance c.size)

/-- A system instruction that MACHINE_ONLY names needs machine mode (47 R821, D64). -/
def State.machineOnly (s : State) (op : SysOp) (r : Res Unit) : Res Unit :=
  if op ∈ s.config.machineOnly ∧ s.om ≠ 3#2 then .trap (.plain 53) s else r

/-! ### Cause codes (60 R1010) -/

def causeIBE : BitVec 8 := 1
def causeEXF : BitVec 8 := 2
def causeTLB : BitVec 8 := 4
def causeSSM : BitVec 8 := 32
def causeDBG : BitVec 8 := 33
def causeUNIMP : BitVec 8 := 37
def causeFLT : BitVec 8 := 38
def causeCHK : BitVec 8 := 39
def causeKEY : BitVec 8 := 49
def causeDWF : BitVec 8 := 50
def causeDRF : BitVec 8 := 51
def causeSGB : BitVec 8 := 52
def causePRIV : BitVec 8 := 53
def causeBT : BitVec 8 := 55
def causeSTK : BitVec 8 := 56
def causeDBE : BitVec 8 := 60
def causePMA : BitVec 8 := 61
def causeNMI : BitVec 8 := 254

end Sys2Proof.Machine
end

