-- ==== Sys2Proof/Machine/Access.lean ====
section
/-! DEFINITION. The path from a virtual address to memory (20_memory R190): debug match, segmentation, TLB, key check,
PMA check, bus; loads, stores and instruction fetches over it. An access that traps leaves memory and the TLB as they
were (60 R1004). -/

namespace Sys2Proof.Machine

open Sys2Proof.Config

/-- What an access does. -/
inductive Access
  | load
  | store
  | fetch
  deriving DecidableEq, Repr

/-- The exception of a missing right (20_memory R171, R184, D27). -/
def Access.rightFault : Access → BitVec 8
  | .load => causeDRF
  | .store => causeDWF
  | .fetch => causeEXF

/-- The exception of a bus error (60 R1012). -/
def Access.busFault : Access → BitVec 8
  | .fetch => causeIBE
  | _ => causeDBE

/-! ### Debug address match (60 R1050, 10_state R100) -/

/-- The type field of debug register n. -/
def debugType (dbcr : Word) (n : Nat) : BitVec 2 := dbcr.extractLsb' (16 + 4 * n) 2

/-- The size field of debug register n. -/
def debugSize (dbcr : Word) (n : Nat) : BitVec 2 := dbcr.extractLsb' (18 + 4 * n) 2

/-- A byte access at va matches debug register n. -/
def debugMatchesData (s : State) (isStore : Bool) (va : Word) (n : Nat) : Bool :=
  let t := debugType s.csr.dbcr n
  let k := (debugSize s.csr.dbcr n).toNat
  ((t == 1#2 && isStore) || t == 3#2) && (s.csr.dbad[n]?.getD 0 >>> k == va >>> k)

/-- The instruction at ip matches debug register n. -/
def debugMatchesFetch (s : State) (n : Nat) : Bool :=
  debugType s.csr.dbcr n == 0#2 && (s.csr.dbad[n]?.getD 0 >>> 1 == s.ip >>> 1)

/-- The matching registers as bits 3:0. -/
def matchBits (p : Nat → Bool) : BitVec 4 :=
  BitVec.ofBool (p 3) ++ BitVec.ofBool (p 2) ++ BitVec.ofBool (p 1) ++ BitVec.ofBool (p 0)

/-- Records matches: DBSR bits are set, and tracing starts where a matching register has its trace enable. -/
def State.recordMatch (s : State) (m : BitVec 4) : State :=
  { s with
    csr := { s.csr with dbsr := s.csr.dbsr ||| m }
    mode := { s.mode with tracing := s.mode.tracing || (m &&& s.csr.dbcr.extractLsb' 32 4) != 0#4 } }

/-- Whether a match of these registers traps: DBCR bits 3:0. -/
def State.matchTraps (s : State) (m : BitVec 4) : Bool := (m &&& s.csr.dbcr.extractLsb' 0 4) != 0#4

/-- The data debug match of an access to n bytes at va, byte by byte (log 13). -/
def State.debugData (s : State) (isStore : Bool) (va : Word) (n : Nat) : Res Unit :=
  let at_ := fun k => matchBits (debugMatchesData s isStore (va + BitVec.ofNat 64 k))
  let all := (List.range n).foldl (fun m k => m ||| at_ k) 0#4
  if all = 0#4 then .ok () s
  else
    match (List.range n).find? fun k => s.matchTraps (at_ k) with
    | some k => .trap ⟨causeDBG, some (va + BitVec.ofNat 64 k), true⟩ (s.recordMatch all)
    | none => .ok () (s.recordMatch all)

/-! ### Segmentation (20_memory R160 to R172) -/

/-- The base addition: bits 63:12 are added, bits 11:0 pass (20_memory R161). -/
def linearAddress (base va : Word) : Word :=
  (va.extractLsb' 12 52 + base.extractLsb' 12 52) ++ va.extractLsb' 0 12

/-- The right that an access needs of a segment: R, W or X (20_memory R169, R171). -/
def Access.segmentRight (k : Access) (d : Descriptor) : Bool :=
  match k with
  | .load => (Descriptor.acr d).getLsbD 14
  | .store => (Descriptor.acr d).getLsbD 13
  | .fetch => (Descriptor.acr d).getLsbD 12

/-- The bounds of a segment: STK for a stack segment, SGB for another (20_memory R171, R172). -/
def segmentBounds (d : Descriptor) (va : Word) : Option (BitVec 8) :=
  if (Descriptor.acr d).getLsbD 17 then
    if d.o2.toNat ≤ va.toNat ∨ va.toNat < d.o2.toNat - (d.o3.extractLsb' 0 44).toNat then some causeSTK else none
  else if d.o2.toNat ≤ va.toNat then some causeSGB else none

/-- The descriptor an access goes through: that of the cache; nothing for a data access through a cache that nothing has
loaded (20_memory R179, 93 U6), its unspecified content for a fetch (70_reset R1081, 93 U50, log 16). -/
def State.segmentDescriptor (s : State) (k : Access) (seg : Nat) (r : SegReg) : Option Descriptor :=
  if k = .fetch then some (s.cached seg r) else r.desc

/-- The register an access goes through: a data access uses its selector register; a fetch has chosen the CS register
for the whole instruction when it began (70_reset R1093, log 10). -/
def State.accessSelector (s : State) (k : Access) (seg : Nat) : SegReg × State :=
  if k = .fetch then (s.fetching.cs, s) else s.useSelector seg

/-- Segmentation of one access: checks when Pe = 1, then the linear address. Code addresses with top nibble F skip
it (20_memory R162). -/
def State.segment (s : State) (k : Access) (seg : Nat) (va : Word) : Res Word :=
  if k = .fetch ∧ va.extractLsb' 60 4 = 0xF#4 then .ok va s
  else
    let u := s.accessSelector k seg
    match s.segmentDescriptor k seg u.1 with
    | none => .stop (.refuse (.segmentNeverLoaded seg))
    | some d =>
      if s.pe then
        match segmentBounds d va with
        | some c => .trap (.memory c va) u.2
        | none =>
          if k.segmentRight d then .ok (linearAddress d.o0 va) u.2 else .trap (.memory k.rightFault va) u.2
      else .ok (linearAddress d.o0 va) u.2

/-! ### TLB (20_memory R180 to R184) -/

/-- Whether a linear address is translated (20_memory R181). -/
def State.translates (s : State) (la : Word) : Bool :=
  s.om == 0#2 && la.extractLsb' 24 40 != BitVec.allOnes 40

/-- tlb[way][entry]. -/
def State.tlbEntry (s : State) (way entry : Nat) : Word := sparseGet 0 s.tlb (1024 * way + entry)

/-- Writes tlb[way][entry]. -/
def State.setTlbEntry (s : State) (way entry : Nat) (t : Word) : State :=
  { s with tlb := sparseSet 0 s.tlb (1024 * way + entry) t }

/-- The ways whose entry matches a linear address (20_memory R182). -/
def State.tlbWays (s : State) (la : Word) : List Nat :=
  (List.range 4).filter fun w =>
    let t := s.tlbEntry w (la.extractLsb' 12 10).toNat
    t.extractLsb' 26 22 == la.extractLsb' 22 22 && (t.getLsbD 55 || t.extractLsb' 56 8 == s.csr.asid)

/-- The way a lookup uses: a free choice where several match (93 U7, log 15). -/
def State.tlbLookup (s : State) (la : Word) : Option Nat × State :=
  match s.tlbWays la with
  | [] => (none, s)
  | [w] => (some w, s)
  | w :: ws => (some (chooseFrom s.draw ws w), s.fresh)

/-- The physical address of a translation (20_memory R182). -/
def tlbPhysical (t la : Word) : Word := (t.extractLsb' 0 22 ++ la.extractLsb' 0 12).setWidth 64

/-- The right that an access needs of a page: R, W or X (20_memory R184). -/
def Access.pageRight (k : Access) (t : Word) : Bool :=
  match k with
  | .load => t.getLsbD 50
  | .store => t.getLsbD 49
  | .fetch => t.getLsbD 48

/-- A TLB entry after a permitted access: A, and D for a write (20_memory R184). -/
def Access.touch (k : Access) (t : Word) : Word :=
  match k with
  | .store => t ||| tlbAccessed ||| 0x0040000000000000#64
  | _ => t ||| tlbAccessed

/-- The A bits that the fetch in progress alone has set, after a permitted access through the entry `t` with this key: a
fetch adds an entry whose A bit was clear, a data access sets the bit in its own right (20_memory R184, 60 R1004). -/
def Access.mark (k : Access) (t : Word) (key : Nat) (marks : List Nat) : List Nat :=
  if k = .fetch then (if t.getLsbD 53 then marks else key :: marks) else marks.filter fun m => !decide (m = key)

/-- A permitted access through way w and entry e (20_memory R184). -/
def State.touchTlb (s : State) (k : Access) (w e : Nat) : State :=
  let t := s.tlbEntry w e
  { s.setTlbEntry w e (k.touch t) with
    fetching := { s.fetching with marks := k.mark t (1024 * w + e) s.fetching.marks } }

/-- Translation and page permission of one access. -/
def State.translate (s : State) (k : Access) (va la : Word) : Res Word :=
  if s.translates la then
    let e := (la.extractLsb' 12 10).toNat
    match s.tlbLookup la with
    | (none, s1) => .trap (.memory causeTLB va) s1
    | (some w, s1) =>
      let t := s1.tlbEntry w e
      if k.pageRight t then .ok (tlbPhysical t la) (s1.touchTlb k w e)
      else .trap (.memory k.rightFault va) s1
  else .ok la s

/-! ### Memory keys (20_memory R195, R196) -/

/-- Whether an access is checked against the keys (D29). -/
def State.checksKeys (s : State) : Bool := s.pe && decide (s.om ∈ s.config.keyCheckModes)

/-- The address of a page's entry of the key table; the base is physical (20_memory R175, R195, log 45). The table's
Limit is not compared: an entry at or beyond it is read like any other (DESIGN CHOICE, log 57). -/
def keyAddress (base : Word) (page : Nat) : Word := base + BitVec.ofNat 64 (4 * page)

/-- The key of a page as the table in memory holds it now, a free value of its own where the table is not in
memory (logs 6 and 35). -/
def State.tableKey (s : State) (base : Word) (page k : Nat) : BitVec 20 :=
  match firstNonMemory s.config.platformMap (keyAddress base page) 4 with
  | none => (Memory.tetra s.mem (keyAddress base page)).extractLsb' 0 20
  | some _ => (s.free (257 + k)).extractLsb' 0 20

/-- The keys that a page's entry of the table held before it was rewritten (93 U8). -/
def State.oldKeys (s : State) (base : Word) (page : Nat) : List (BitVec 20) :=
  (pendingFor s.rewritten (keyAddress base page).toNat).map (·.extractLsb' 0 20)

/-- Reads the sixteen keys of a page's line into the key cache, which may also hold the old keys of a rewritten entry
(20_memory R196, 70_reset R1095, log 12). Only the Base of the KYT descriptor is used, not its Limit (DESIGN CHOICE,
log 57). -/
def State.fillKeys (s : State) (page : Nat) : State :=
  let u := s.useSelector 18
  let base := (s.cached 18 u.1).o0
  let s1 := u.2
  let first := page / 16 * 16
  let line := ((List.range 16).map fun k => (first + k, s1.tableKey base (first + k) k)) ++
    (List.range 16).flatMap fun k => (s1.oldKeys base (first + k)).map fun key => (first + k, key)
  { s1.fresh with keyCache := line.filter (fun e => !decide (e ∈ s1.keyCache)) ++ s1.keyCache }

/-- The key check of an access to a physical address: the key is any of those the page's entry holds or held (93 U8). -/
def State.checkKey (s : State) (va pa : Word) : Res Unit :=
  if s.checksKeys then
    let page := pa.toNat / 4096
    let s1 := s.fillKeys page
    match pendingFor s1.keyCache page with
    | [] => .trap (.memory causeKEY va) s1
    | key :: others =>
      let u := s1.useFrom others key
      if decide (u.1 ∈ s.csr.keys.toList) then .ok () u.2 else .trap (.memory causeKEY va) u.2
  else .ok () s

/-! ### Physical memory attributes (20_memory R200 to R202) -/

/-- The attributes of the lowest-numbered region that covers an address. -/
def pmaAttributes (table : Vector PmaRegion 8) (pa : Nat) : Option (BitVec 16) :=
  (table.toList.find? fun r => decide (r.lb.toNat ≤ pa / 16) && decide (pa / 16 ≤ r.ub.toNat)).map (·.attr)

/-- The attribute that an access needs: R, W or X. -/
def Access.pmaRight (k : Access) (a : BitVec 16) : Bool :=
  match k with
  | .load => a.getLsbD 2
  | .store => a.getLsbD 1
  | .fetch => a.getLsbD 0

/-- The PMA check of an access. -/
def State.checkPma (s : State) (k : Access) (va pa : Word) : Res Unit :=
  match pmaAttributes s.config.pmaTable pa.toNat with
  | some a => if k.pmaRight a then .ok () s else .trap (.memory causePMA va) s
  | none => .trap (.memory causePMA va) s

/-! ### One access -/

/-- Steps 2 to 5 of R190 for one access at va: its physical address. -/
def State.physical (s : State) (k : Access) (seg : Nat) (va : Word) : Res Word :=
  (s.segment k seg va).bind fun la s1 =>
  (s1.translate k va la).bind fun pa s2 =>
  (s2.checkKey va pa).bind fun _ s3 =>
  (s3.checkPma k va pa).bind fun _ s4 => .ok pa s4

/-- Step 6 of R190: n bytes at a physical address answer, or the bus error of the first that does not. -/
def State.busAnswers (s : State) (k : Access) (va pa : Word) (n : Nat) : Res Unit :=
  match firstNonMemory s.config.platformMap pa n with
  | none => .ok () s
  | some (p, .device) => .stop (.fault (.deviceAccess p))
  | some (p, _) => .trap (.memory k.busFault (va + BitVec.ofNat 64 (p - pa.toNat))) s

/-- n bytes of physical memory from pa, the lowest address first. All 64 bits of the address count: bytes whose
addresses differ only above bit 31 are different bytes, although the bus row of 00_scope R7 gives `adr_o(31:0)`
(DEDUCED, log 56). -/
def State.bytesAt (s : State) (pa : Word) (n : Nat) : List Byte :=
  (List.range n).map fun k => Memory.read s.mem (pa + BitVec.ofNat 64 k).toNat

/-- One byte reaches physical memory at its full address (log 56); a fetch may go on seeing the old one (20_memory
R216). -/
def State.storeByte (s : State) (a : Nat) (b : Byte) : State :=
  let old := Memory.read s.mem a
  if old = b then s
  else { s with mem := Memory.write s.mem a b, stale := ⟨a, old, false⟩ :: s.stale }

/-- The bytes of a store reach physical memory, the lowest address first. -/
def State.storeBytes (s : State) (pa : Word) : List Byte → State
  | [] => s
  | b :: bs => (s.storeByte pa.toNat b).storeBytes (pa + 1) bs

/-- The tetras that n bytes at a physical address are part of, as memory holds them now. -/
def State.tetrasAt (s : State) (pa : Word) (n : Nat) : List (Nat × BitVec 32) :=
  (List.range (n + 3)).map fun k =>
    let a := pa - 3 + BitVec.ofNat 64 k
    (a.toNat, Memory.tetra s.mem a)

/-- The tetras that a write of n bytes replaces are kept: the key cache may still hold them (93 U8, log 12). -/
def State.keepTetras (s : State) (pa : Word) (n : Nat) : State :=
  { s with rewritten := (s.tetrasAt pa n).filter (fun e => !decide (e ∈ s.rewritten)) ++ s.rewritten }

/-- One load of n bytes that is made as a whole. -/
def State.loadOne (s : State) (seg : Nat) (va : Word) (n : Nat) : Res (List Byte) :=
  (s.debugData false va n).bind fun _ s1 =>
  (s1.physical .load seg va).bind fun pa s2 =>
  (s2.busAnswers .load va pa n).bind fun _ s3 => .ok (s3.bytesAt pa n) s3

/-- One store of n bytes that is made as a whole. -/
def State.storeOne (s : State) (seg : Nat) (va : Word) (bs : List Byte) : Res Unit :=
  (s.debugData true va bs.length).bind fun _ s1 =>
  (s1.physical .store seg va).bind fun pa s2 =>
  (s2.busAnswers .store va pa bs.length).bind fun _ s3 =>
    .ok () ((s3.keepTetras pa bs.length).storeBytes pa bs)

/-- n byte loads in ascending address order (20_memory R143). -/
def State.loadEach (s : State) (seg : Nat) (va : Word) : Nat → Res (List Byte)
  | 0 => .ok [] s
  | n + 1 =>
    (s.loadOne seg va 1).bind fun b s1 =>
    (s1.loadEach seg (va + 1) n).bind fun bs s2 => .ok (b ++ bs) s2

/-- Byte stores in ascending address order (20_memory R143). -/
def State.storeEach (s : State) (seg : Nat) (va : Word) : List Byte → Res Unit
  | [] => .ok () s
  | b :: bs => (s.storeOne seg va [b]).bind fun _ s1 => s1.storeEach seg (va + 1) bs

/-- An access of n bytes at va is made as a whole when va is a multiple of n (20_memory R143, R144). -/
def naturallyAligned (va : Word) (n : Nat) : Bool := va.toNat % n == 0

/-- `MemRead(seg, va, n)` (20_memory R190): the little-endian value, zero-extended. -/
def State.memRead (s : State) (seg : Nat) (va : Word) (n : Nat) : Res Word :=
  ((if naturallyAligned va n then s.loadOne seg va n else s.loadEach seg va n).restore s).bind
    fun bs s1 => .ok (wordOf bs) s1

/-- `MemWrite(seg, va, n, v)` (20_memory R190). -/
def State.memWrite (s : State) (seg : Nat) (va : Word) (n : Nat) (v : Word) : Res Unit :=
  (if naturallyAligned va n then s.storeOne seg va (bytesOf n v) else s.storeEach seg va (bytesOf n v)).restore s

/-! ### Instruction bytes -/

/-- The byte a fetch gets from a physical address: the one in memory, or an old one that no CACHE command and SYNC
have retired (20_memory R216, D32). -/
def State.fetchPhysical (s : State) (pa : Word) : Byte × State :=
  s.useFrom ((s.stale.filter fun e => decide (e.addr = pa.toNat)).map (·.old)) (Memory.read s.mem pa.toNat)

/-- The fetch of one instruction byte through the code segment (30 R242, 20_memory R190). -/
def State.fetchByte (s : State) (va : Word) : Res Byte :=
  (s.physical .fetch 7 va).bind fun pa s1 =>
  (s1.busAnswers .fetch va pa 1).bind fun _ s2 =>
    let u := s2.fetchPhysical pa
    .ok u.1 u.2

/-- The fetch of n instruction bytes from va on; addresses advance in the low 24 bits (10_state R41). -/
def State.fetchBytes (s : State) (va : Word) : Nat → Res (List Byte)
  | 0 => .ok [] s
  | n + 1 =>
    (s.fetchByte va).bind fun b s1 =>
    (s1.fetchBytes (nextIp va 1) n).bind fun bs s2 => .ok (b :: bs) s2

/-! ### Addresses without an access -/

/-- `linear(Sel, ea)` without checks (45 R700). It makes no access, and 70_reset R1093 lists only accesses: that it uses
the segment like one, so that before MEMSB it may get the old register or the new one, is DEDUCED (log 10). -/
def State.linear (s : State) (seg : Nat) (va : Word) : Word × State :=
  let u := s.useSelector seg
  (linearAddress (s.cached seg u.1).o0 va, u.2)

/-- `translate(A)` without permission checks; a miss gives a free value (45 R702, 93 U37). -/
def State.linearToPhysical (s : State) (la : Word) (k : Nat) : Word × State :=
  if s.translates la then
    match s.tlbLookup la with
    | (none, s1) => (s1.free k, s1.fresh)
    | (some w, s1) => (tlbPhysical (s1.tlbEntry w (la.extractLsb' 12 10).toNat) la, s1)
  else (la, s)

/-! ### Cache commands (45 R725, 20_memory R216) -/

/-- IC = 4, invall: every stale byte is invalidated. -/
def State.invalidateAll (s : State) : State :=
  { s with stale := s.stale.map fun e => { e with invalidated := true } }

/-- IC = 3, invline: the stale bytes of the line that holds a physical address are invalidated. -/
def State.invalidateLine (s : State) (pa : Nat) : State :=
  { s with stale := s.stale.map fun e =>
      if e.addr / s.config.icacheLine = pa / s.config.icacheLine then { e with invalidated := true } else e }

/-- What SYNC retires: invalidated stale bytes and the old values of VL and TVEC (20_memory R216, 70_reset R1091,
R1092). -/
def State.sync (s : State) : State :=
  { s with
    stale := s.stale.filter fun e => !e.invalidated
    pending := { s.pending with vl := [], tvec := [] } }

/-- What MEMSB retires: the old values of the selector registers (70_reset R1093). -/
def State.memsb (s : State) : State := { s with pending := { s.pending with sel := [] } }

end Sys2Proof.Machine
end

