-- ==== Sys2Proof/Machine/Operands.lean ====
section
/-! DEFINITION. Every operand form: immediates and their extensions, the two-bit and one-bit T fields, the operand
records of the register formats, and the one wrapper that turns a rule `T = f(A, B, C)` into a scalar or a vector
instruction (00 R12, 30 R245 to R251, 48 R880, R884). -/

namespace Sys2Proof.Machine

/-- sext_n (00 R9). -/
abbrev sext {n : Nat} (v : BitVec n) : Word := v.signExtend 64

/-- zext_n (00 R9). -/
abbrev zext {n : Nat} (v : BitVec n) : Word := v.setWidth 64

/-- oext_n: the bits above are ones (00 R9). -/
def oext {n : Nat} (v : BitVec n) : Word := v.setWidth 64 ||| (BitVec.allOnes 64 <<< n)

/-- The n-bit vector whose bit i is `p i`. -/
def bitsOf (p : Nat → Bool) : (n : Nat) → BitVec n
  | 0 => 0#0
  | n + 1 => BitVec.cons (p n) (bitsOf p n)

/-- 1 or 0. -/
def ofProp (b : Bool) : Word := if b then 1 else 0

/-- Where an operand comes from. -/
inductive Src
  | gpr (n : RegNum)
  | vec (n : RegNum)
  | imm (w : Word)
  deriving DecidableEq, Repr

/-- `opnd(T, R)` (30 R250): 0 a general register, 1 a vector register, 2 and 3 the seven-bit signed immediate
{T[0], R}. -/
def opnd (t : BitVec 2) (r : RegNum) : Src :=
  if t = 0#2 then .gpr r
  else if t = 1#2 then .vec r
  else .imm (sext (t.extractLsb' 0 1 ++ r))

/-- The one-bit Tb of the short R2 format (30 R251). -/
def opndShort (t : BitVec 1) (r : RegNum) : Src := if t = 0#1 then .gpr r else .vec r

/-- The register that Ra names: a vector register when v = 1 (30 R244, 48 R880). -/
def sourceReg (v : BitVec 1) (r : RegNum) : Src := if v = 1#1 then .vec r else .gpr r

/-- The value of a scalar operand; a vector register gives none (93 U30). -/
def Src.scalar (s : State) : Src → Option Word
  | .gpr n => some (s.reg n)
  | .vec _ => none
  | .imm w => some w

/-- The value of an operand for element x of a vector instruction (48 R880). -/
def Src.element (s : State) (x : Nat) : Src → Word
  | .gpr n => s.reg n
  | .vec n => s.vec n x
  | .imm w => w

/-- The operands of a computational instruction: v, the mask register and zeroing of a vector instruction, the
target and three sources. -/
structure Operands where
  v : BitVec 1
  z : BitVec 1
  m : BitVec 3
  rt : RegNum
  a : Src
  b : Src
  c : Src
  deriving DecidableEq, Repr

/-- The operand a format does not have. -/
def noSrc : Src := .imm 0

/-- R1 (30 R245). -/
def operandsR1 (f : Fmt.R1) : Operands := ⟨f.v, f.z, f.m, f.rt, sourceReg f.v f.ra, noSrc, noSrc⟩

/-- R2 short (30 R246, R251). -/
def operandsR2 (f : Fmt.R2) : Operands :=
  ⟨f.v, f.z, f.m, f.rt, sourceReg f.v f.ra, opndShort f.tb f.rb, noSrc⟩

/-- R3 (30 R247, R250). -/
def operandsR3 (f : Fmt.R3) : Operands :=
  ⟨f.v, f.z, f.m, f.rt, sourceReg f.v f.ra, opnd f.tb f.rb, opnd f.tc f.rc⟩

/-- R3 with Ra a general register also when v = 1 (40 R337, 48 R890). -/
def operandsR3ScalarA (f : Fmt.R3) : Operands :=
  ⟨f.v, f.z, f.m, f.rt, .gpr f.ra, opnd f.tb f.rb, opnd f.tc f.rc⟩

/-- R3 without a function code (30 R247). -/
def operandsR3P (f : Fmt.R3P) : Operands :=
  ⟨f.v, f.z, f.m, f.rt, sourceReg f.v f.ra, opnd f.tb f.rb, opnd f.tc f.rc⟩

/-- RI: mask m0, no zeroing (30 R248, 40 R300). -/
def operandsRI (f : Fmt.RI) (imm : Word) : Operands :=
  ⟨f.v, 0, 0, f.rt, sourceReg f.v f.ra, .imm imm, noSrc⟩

/-- RIL (30 R249). -/
def operandsRIL (f : Fmt.RIL) (imm : Word) : Operands :=
  ⟨f.v, f.z, f.m, f.rt, sourceReg f.v f.ra, .imm imm, noSrc⟩

/-- FP R2 and DFP R2 (43 R521 c). -/
def operandsFR2 (f : Fmt.FR2) : Operands :=
  ⟨f.v, f.z, f.m, f.rt, sourceReg f.v f.ra, opnd f.tb f.rb, noSrc⟩

/-- FP R2L and DFP R2L (43 R521 d). -/
def operandsFR2L (f : Fmt.FR2L) : Operands :=
  ⟨f.v, f.z, f.m, f.rt, sourceReg f.v f.ra, opnd f.tb f.rb, noSrc⟩

/-- FP R3 (43 R521 e). -/
def operandsFR3 (f : Fmt.FR3) : Operands :=
  ⟨f.v, f.z, f.m, f.rt, sourceReg f.v f.ra, opnd f.tb f.rb, opnd f.tc f.rc⟩

/-- DFP R3L (44 R601 f). -/
def operandsFR3L (f : Fmt.FR3L) : Operands :=
  ⟨f.v, f.z, f.m, f.rt, sourceReg f.v f.ra, opnd f.tb f.rb, opnd f.tc f.rc⟩

/-! ### The vector loop (48 R880, R884) -/

/-- Elements x, x + 1, … for `n` elements: `act` where the mask enables the element, `off` where it does not. An
exception at an element leaves D_VSTEP at its index. -/
def elementLoop (mask : Word) (act : Nat → State → Res Unit) (off : Nat → State → State) :
    Nat → Nat → State → Res Unit
  | 0, _, s => .ok () s
  | n + 1, x, s =>
    if mask.getLsbD x then
      match act x s with
      | .ok _ s1 => elementLoop mask act off n (x + 1) s1
      | .trap e s1 => .trap e (s1.setVstep x)
      | .stop h => .stop h
    else elementLoop mask act off n (x + 1) (off x s)

/-- A vector instruction: from element D_VSTEP to VL - 1, then D_VSTEP <- 0. -/
def State.vectorLoop (s : State) (m : BitVec 3) (act : Nat → State → Res Unit) (off : Nat → State → State) :
    Res Unit :=
  let u := s.useVl
  let start := s.csr.vstep.toNat
  (elementLoop (s.mask m) act off (u.1.toNat - start) start u.2).bind fun _ s1 => .ok () (s1.setVstep 0)

/-- A disabled element: zeroed when z = 1, else unchanged. -/
def zeroing (z : BitVec 1) (rt : RegNum) (x : Nat) (s : State) : State := if z = 1#1 then s.setVec rt x 0 else s

/-! ### The wrapper of a computational rule -/

/-- A rule of the operands of element x (0 in a scalar instruction). It may raise and may change other state. -/
abbrev Rule := Nat → Word → Word → Word → State → Res Word

/-- The scalar form: reads the operands, applies the rule, writes r[Rt]. -/
def runScalar (o : Operands) (f : Rule) (s : State) : Res Unit :=
  match o.a.scalar s, o.b.scalar s, o.c.scalar s with
  | some a, some b, some c => (f 0 a b c s).bind fun t s1 => .ok () (s1.setReg o.rt t)
  | _, _, _ => .stop (.refuse .vectorOperandInScalar)

/-- The vector form: the rule for each enabled element. -/
def runVector (o : Operands) (f : Rule) (s : State) : Res Unit :=
  s.vectorLoop o.m
    (fun x s1 => (f x (o.a.element s1 x) (o.b.element s1 x) (o.c.element s1 x) s1).bind fun t s2 =>
      .ok () (s2.setVec o.rt x t))
    (zeroing o.z o.rt)

/-- A computational instruction in either form. -/
def run (c : Ctx) (o : Operands) (f : Rule) (s : State) : Outcome :=
  finishSeq c (if o.v = 1#1 then runVector o f s else runScalar o f s)

/-- A rule that computes its result from the operands alone. -/
def pureRule (g : Word → Word → Word → Word) : Rule := fun _ a b c s => .ok (g a b c) s

/-- A rule whose result is a free value for some operands: the free value is its first argument (log 6). -/
def freeRule (g : Word → Word → Word → Word → Word) : Rule := fun x a b c s => .ok (g (s.free x) a b c) s

/-- A computational instruction whose result depends on its operands alone. -/
def compute (c : Ctx) (o : Operands) (g : Word → Word → Word → Word) (s : State) : Outcome :=
  run c o (pureRule g) s

/-- A computational instruction with a free value. -/
def computeFree (c : Ctx) (o : Operands) (g : Word → Word → Word → Word → Word) (s : State) : Outcome :=
  run c o (freeRule g) s

end Sys2Proof.Machine
end

