-- ==== Sys2Proof/Machine/Accel.lean ====
section
/-! DEFINITION. The neural network accelerator and the graphics unit: their instructions and the steps they take on
their own (49 sections 2 and 3). -/

namespace Sys2Proof.Machine

open Sys2Proof.Config

/-! ### Neurons (R950 to R952) -/

/-- Neuron n. -/
def State.neuron (s : State) (n : BitVec 3) : Neuron := s.nna.get n.toFin

/-- Replaces neuron n. -/
def State.setNeuron (s : State) (n : BitVec 3) (x : Neuron) : State :=
  { s with nna := s.nna.set n.toNat x n.isLt }

/-- Every neuron whose bit is set in the selection is changed. -/
def State.updateNeurons (s : State) (sel : BitVec 8) (g : Neuron → Neuron) : State :=
  { s with nna := s.nna.mapFinIdx fun i x _ => if sel.getLsbD i then g x else x }

/-- The table entries from base to max inclusive. -/
def entriesOf (l : List (Nat × BitVec 32)) (base max : BitVec 16) : List (BitVec 32) :=
  (List.range (max.toNat + 1 - base.toNat)).map fun k => sparseGet 0 l (base.toNat + k)

/-- The bounds within which an evaluation has a meaning (R951, 93 U44). -/
def Neuron.inBounds (x : Neuron) : Bool := decide (x.max.toNat ≤ 1023) && decide (x.base.toNat ≤ x.max.toNat)

/-- A product of two 16.16 numbers in units of 2^-16, rounded down or up (R951, log 46). -/
def nnaProduct (a b : BitVec 32) : Int :=
  let p := a.toInt * b.toInt
  p / 65536 + if p % 65536 ≠ 0 ∧ nnaRoundsUp p then 1 else 0

/-- The terms that an evaluation adds: the bias, the feedback constant times the old output, and the weighted inputs. -/
def nnaTerms (ws xs : List (BitVec 32)) (bias feedback act : BitVec 32) : List Int :=
  bias.toInt :: nnaProduct feedback act :: List.zipWith nnaProduct ws xs

/-- No order of adding the terms can overflow: the largest sum on the way is that of the positive ones, the smallest
that of the negative ones, and both are 16.16 numbers. -/
def nnaFits (terms : List Int) : Bool :=
  decide ((terms.filter fun t => 0 < t).sum < 2 ^ 31) && decide (-2 ^ 31 ≤ (terms.filter fun t => t < 0).sum)

/-- Their sum: exact where no order of adding them can overflow, else unspecified (log 46). -/
def nnaSum (terms : List Int) : BitVec 32 :=
  if nnaFits terms then BitVec.ofInt 32 terms.sum else nnaOverflow terms

/-- NNA_EVAL: the activation of bias plus weighted inputs plus feedback (R951, 93 U43). -/
def nnaEval (ws xs : List (BitVec 32)) (bias feedback act : BitVec 32) : BitVec 32 :=
  nnaActivation (nnaSum (nnaTerms ws xs bias feedback act))

/-- The output of one evaluation (R951). -/
def Neuron.evaluate (x : Neuron) : BitVec 32 :=
  nnaEval (entriesOf x.weights x.base x.max) (entriesOf x.inputs x.base x.max) x.bias x.feedback x.act

/-- An evaluation starts; one that still runs starts anew, and one completion ends both (R952, log 25). -/
def Neuron.start (x : Neuron) : Neuron := { x with done := false, running := true }

/-- An evaluation ends (R952). -/
def Neuron.finish (x : Neuron) : Neuron := { x with act := x.evaluate, done := true, running := false }

/-- The accelerator's own step: a running evaluation completes (R952, D73, log 25). -/
def State.neuronStep (s : State) (n : BitVec 3) : Outcome :=
  let x := s.neuron n
  if x.running then
    if x.inBounds then .next (s.setNeuron n x.finish) else .refused .neuronBounds
  else .next s

/-- NNA_TRIG (R952). -/
def triggerNeurons (sel : BitVec 8) (s : State) : Res Unit :=
  if (List.range 8).any fun i => sel.getLsbD i && !((s.nna[i]?.getD State.resetNeuron).inBounds) then
    .stop (.refuse .neuronBounds)
  else .ok () (s.updateNeurons sel Neuron.start)

/-- The finished neurons as bits 7:0 (R953). -/
def neuronStatus (s : State) : BitVec 8 := bitsOf (fun i => (s.nna[i]?.getD State.resetNeuron).done) 8

/-- A one-source instruction of an accelerator (section 1 note: only v = 0). -/
def withA (c : Ctx) (f : Fmt.R1) (act : Word → State → Res Unit) (s : State) : Outcome :=
  finishSeq c (if f.v = 1#1 then .stop (.refuse .vectorFormRefused) else act (s.reg f.ra) s)

/-- A two-source instruction of an accelerator (section 1 note: only v = 0). -/
def withAB (c : Ctx) (f : Fmt.R3) (act : Word → Word → State → Res Unit) (s : State) : Outcome :=
  finishSeq c (if f.v = 1#1 then .stop (.refuse .vectorFormRefused)
    else match (opnd f.tb f.rb).scalar s with
      | some b => act (s.reg f.ra) b s
      | none => .stop (.refuse .vectorOperandInScalar))

/-- The array writes of NNA_MTWT and NNA_MTIN: the cell B[15:0] of the neurons B[39:32] receives A, and Rt receives B
with the cell number advanced (R955, R956). -/
def arrayWrite (rt : RegNum) (put : Nat → BitVec 32 → Neuron → Neuron) (a b : Word) (s : State) : Res Unit :=
  let i := b.extractLsb' 0 16
  if 1023 < i.toNat then .stop (.refuse .neuronArrayIndex)
  else .ok () ((s.updateNeurons (b.extractLsb' 32 8) (put i.toNat (a.extractLsb' 0 32))).setReg rt
    (b.extractLsb' 16 48 ++ (i + 1)))

/-- A weight cell receives a value. -/
def Neuron.putWeight (i : Nat) (w : BitVec 32) (x : Neuron) : Neuron := { x with weights := sparseSet 0 x.weights i w }

/-- An input cell receives a value. -/
def Neuron.putInput (i : Nat) (w : BitVec 32) (x : Neuron) : Neuron := { x with inputs := sparseSet 0 x.inputs i w }

/-! ### Graphics (R970 to R978) -/

/-- greg[n]. -/
def State.greg (s : State) (n : Nat) : BitVec 40 := s.gfx.regs[n]?.getD 0

/-- Writes greg[n]. -/
def State.setGreg (s : State) (n : Nat) (w : BitVec 40) : State :=
  { s with gfx := { s.gfx with regs := s.gfx.regs.setIfInBounds n w } }

/-- The control register after a write, by the bitset operation of the value (R972). -/
def controlAfter (old val : BitVec 40) : BitVec 40 :=
  let op := val.extractLsb' 30 2
  let low := val.extractLsb' 0 30
  let lowOld := old.extractLsb' 0 30
  let lowNew := if op = 0#2 then low else if op = 1#2 then lowOld else if op = 2#2 then lowOld &&& ~~~low
    else lowOld ||| low
  old.extractLsb' 30 10 ++ lowNew

/-- Bits 0, 7 to 11, 18 and 19 of the control register: the drawing commands (R973). -/
def drawingBits : BitVec 40 := 0x00000C0F81#40

/-- A write to the control register that sets a drawing command (R973, 93 U45). -/
def startsDrawing (old val : BitVec 40) : Bool := (controlAfter old val &&& drawingBits) != 0#40

/-- The graphics engine's own step: it pops queue 0 and writes a register (R973). -/
def State.graphicsStep (s : State) : Outcome :=
  match s.queues.get 0 with
  | [] => .next s
  | e :: rest =>
    let n := (e.extractLsb' 56 8).toNat
    let val := e.extractLsb' 0 40
    let s1 := { s with queues := s.queues.set 0 rest }
    if n = 0 then
      if startsDrawing (s.greg 0) val then .refused .graphicsDrawing
      else .next (s1.setGreg 0 (controlAfter (s.greg 0) val))
    else if n ≤ 50 then .next (s1.setGreg n val)
    else .next s1

/-- One blended component (R975). -/
def blendComponent (a b : BitVec 8) (alpha : BitVec 8) : BitVec 8 :=
  BitVec.ofNat 8 ((a.toNat * alpha.toNat + b.toNat * (255 - alpha.toNat)) / 256)

/-- BLEND (R975). -/
def blendColors (a b c : Word) : Word :=
  let k := c.extractLsb' 0 8
  0#32 ++ a.extractLsb' 24 8 ++ blendComponent (a.extractLsb' 16 8) (b.extractLsb' 16 8) k
    ++ blendComponent (a.extractLsb' 8 8) (b.extractLsb' 8 8) k
    ++ blendComponent (a.extractLsb' 0 8) (b.extractLsb' 0 8) k

/-- Whether a coordinate lies between two graphics registers, inclusive (R976, D76). -/
def State.between (s : State) (lo hi : Nat) (x : BitVec 32) : Bool :=
  decide (((s.greg lo).extractLsb' 0 32).toInt ≤ x.toInt) && decide (x.toInt ≤ ((s.greg hi).extractLsb' 0 32).toInt)

/-- CLIP (R976). -/
def clipPoint (s : State) (a : Word) : Word :=
  let x := a.extractLsb' 0 32
  let y := a.extractLsb' 32 32
  let inTarget := s.between 44 46 x && s.between 45 47 y
  let inClip := s.between 29 31 x && s.between 30 32 y
  ofProp (!inTarget || ((s.greg 0).getLsbD 5 && !inClip))

/-- TRANSFORM (R977, 93 U42). -/
def transformPoint (s : State) (a : Word) : Word :=
  if s.gfx.cmd = 0#1 then a else gfxTransform ((List.range 12).map fun k => s.greg (17 + k)) a

/-- RW_COEFF: an exchange of a coefficient or of the transform switch (R978, D77). -/
def exchangeCoefficient (rt : RegNum) (a b : Word) (s : State) : Res Unit :=
  let k := a.toNat
  if k < 12 then
    .ok () ((s.setGreg (17 + k) ((b.extractLsb' 0 32).setWidth 40)).setReg rt
      (sext ((s.greg (17 + k)).extractLsb' 0 32)))
  else if k = 12 then
    .ok () ({ s with gfx := { s.gfx with cmd := b.extractLsb' 0 1 } }.setReg rt (zext s.gfx.cmd))
  else .stop (.refuse .coefficientNumber)

/-! ### The meanings -/

/-- NNA_TRIG (49 R952). -/
def execNnaTrig (f : Fmt.R1) (s : State) : Outcome :=
  withA ⟨4, f.word 0x01#8 0x60#7⟩ f (fun a s1 => triggerNeurons (a.extractLsb' 0 8) s1) s

/-- NNA_STAT (49 R953). -/
def execNnaStat (f : Fmt.R1) (s : State) : Outcome :=
  withA ⟨4, f.word 0x01#8 0x61#7⟩ f (fun _ s1 => .ok () (s1.setReg f.rt (zext (neuronStatus s1)))) s

/-- NNA_MFACT (49 R954). -/
def execNnaMfact (f : Fmt.R1) (s : State) : Outcome :=
  withA ⟨4, f.word 0x01#8 0x62#7⟩ f (fun a s1 =>
    if a.getLsbD 3 then .stop (.refuse .neuronNumber)
    else .ok () (s1.setReg f.rt (sext (s1.neuron (a.extractLsb' 0 3)).act))) s

/-- NNA_MTWT (49 R955). -/
def execNnaMtwt (f : Fmt.R3) (s : State) : Outcome :=
  withAB ⟨6, f.word 0x02#8 0x60#7⟩ f (arrayWrite f.rt Neuron.putWeight) s

/-- NNA_MTIN (49 R956). -/
def execNnaMtin (f : Fmt.R3) (s : State) : Outcome :=
  withAB ⟨6, f.word 0x02#8 0x61#7⟩ f (arrayWrite f.rt Neuron.putInput) s

/-- NNA_MTBIAS (49 R957). -/
def execNnaMtbias (f : Fmt.R3) (s : State) : Outcome :=
  withAB ⟨6, f.word 0x02#8 0x62#7⟩ f (fun a b s1 =>
    .ok () (s1.updateNeurons (b.extractLsb' 0 8) fun x => { x with bias := a.extractLsb' 0 32 })) s

/-- NNA_MTFB (49 R958). -/
def execNnaMtfb (f : Fmt.R3) (s : State) : Outcome :=
  withAB ⟨6, f.word 0x02#8 0x63#7⟩ f (fun a b s1 =>
    .ok () (s1.updateNeurons (b.extractLsb' 0 8) fun x => { x with feedback := a.extractLsb' 0 32 })) s

/-- NNA_MTMC (49 R959). -/
def execNnaMtmc (f : Fmt.R3) (s : State) : Outcome :=
  withAB ⟨6, f.word 0x02#8 0x64#7⟩ f (fun a b s1 =>
    .ok () (s1.updateNeurons (b.extractLsb' 0 8) fun x => { x with max := a.extractLsb' 0 16 })) s

/-- NNA_MTBC (49 R960). -/
def execNnaMtbc (f : Fmt.R3) (s : State) : Outcome :=
  withAB ⟨6, f.word 0x02#8 0x65#7⟩ f (fun a b s1 =>
    .ok () (s1.updateNeurons (b.extractLsb' 0 8) fun x => { x with base := a.extractLsb' 0 16 })) s

/-- BLEND (49 R975). -/
def execBlend (f : Fmt.R3P) (s : State) : Outcome :=
  compute ⟨6, f.word 0x44#8⟩ (operandsR3P f) (fun a b c => blendColors a b c) s

/-- CLIP (49 R976). -/
def execClip (f : Fmt.R1) (s : State) : Outcome :=
  withA ⟨4, f.word 0x01#8 0x20#7⟩ f (fun a s1 => .ok () (s1.setReg f.rt (clipPoint s1 a))) s

/-- TRANSFORM (49 R977). -/
def execTransform (f : Fmt.R1) (s : State) : Outcome :=
  withA ⟨4, f.word 0x01#8 0x11#7⟩ f (fun a s1 => .ok () (s1.setReg f.rt (transformPoint s1 a))) s

/-- RW_COEFF (49 R978). -/
def execRwCoeff (f : Fmt.R3) (s : State) : Outcome :=
  withAB ⟨6, f.word 0x02#8 0x77#7⟩ f (exchangeCoefficient f.rt) s

end Sys2Proof.Machine
end

