-- ==== Sys2Proof/Machine/Integer.lean ====
section
/-! DEFINITION. Integer arithmetic, compare, set, check and conditional move (40_integer_arithmetic). Every result is
taken modulo 2^64 (R301); a quotient by zero is a free value (R305, 93 U31). -/

namespace Sys2Proof.Machine

/-! ### The rules -/

/-- Bits 127:64 of the signed product (R316). -/
def mulHigh (a b : Word) : Word := (a.signExtend 128 * b.signExtend 128).extractLsb' 64 64

/-- The fast product of the low 24 bits of A and the low 16 bits of B (R318). -/
def mulFast (a b : Word) : Word := zext (a.extractLsb' 0 24) * zext (b.extractLsb' 0 16)

/-- Signed quotient, rounded toward zero; a free value for a zero divisor (R305, R320). -/
def divSigned (free a b : Word) : Word := if b = 0 then free else BitVec.ofInt 64 (a.toInt.tdiv b.toInt)

/-- Unsigned quotient (R323). -/
def divUnsigned (free a b : Word) : Word := if b = 0 then free else BitVec.ofNat 64 (a.toNat / b.toNat)

/-- Signed by unsigned quotient (R325). -/
def divSignedUnsigned (free a b : Word) : Word :=
  if b = 0 then free else BitVec.ofInt 64 (a.toInt.tdiv (b.toNat : Int))

/-- The two's-complement absolute value, $8000000000000000 staying itself (R306). -/
def absWord (d : Word) : Word := if d.toInt < 0 then -d else d

/-- Pointer difference: absolute difference, then a logical right shift by C[3:0] (R327). -/
def pointerDifference (a b c : Word) : Word := absWord (a - b) >>> (c.extractLsb' 0 4).toNat

/-- The signed minimum of three (R328). -/
def min3 (a b c : Word) : Word :=
  if a.toInt < b.toInt ∧ a.toInt < c.toInt then a else if b.toInt < c.toInt then b else c

/-- The signed maximum of three (R329). -/
def max3 (a b c : Word) : Word :=
  if a.toInt > b.toInt ∧ a.toInt > c.toInt then a else if b.toInt > c.toInt then b else c

/-- -1, 0 or 1 as A is less than, equal to or greater than B, signed (R330). -/
def compareSigned (a b : Word) : Word := if a.toInt < b.toInt then -1 else if a = b then 0 else 1

/-- The same, unsigned (R333). -/
def compareUnsigned (a b : Word) : Word := if a.toNat < b.toNat then -1 else if a = b then 0 else 1

/-- The bounds test of CHK for each cn (R335). -/
def boundsPass (cn : BitVec 3) (a b c : Word) : Bool :=
  let low := if cn.getLsbD 1 then decide (a.toInt > b.toInt) else decide (a.toInt ≥ b.toInt)
  let high := if cn.getLsbD 0 then decide (a.toInt ≤ c.toInt) else decide (a.toInt < c.toInt)
  if cn.getLsbD 2 then !(low && high) else low && high

/-- CHK of one element: nothing, or the exception CHK (R335). Its operands have no target. -/
def checkRule (cn : BitVec 3) : Rule := fun _ a b c s =>
  if boundsPass cn a b c then .ok 0 s else .trap (.plain causeCHK) s

/-- CMOVNZ: A decides as a whole, in the vector form its bit x does (R337). -/
def conditionalMove (v : BitVec 1) : Rule := fun x a b c s =>
  .ok (if (if v = 1#1 then a.getLsbD x else a != 0) then b else c) s

/-- CPUID: row A of the table, 0 where there is none; row 0 is HARTID (R338). -/
def cpuidRule : Rule := fun _ a _ _ s =>
  .ok (if a = 0 then s.config.hartid else s.config.cpuidInfo[a.toNat]?.getD 0) s

/-- The 22-bit immediate of CHKI, sign-extended (R336). -/
def chkiImmediate (f : Fmt.CHKI) : Word := sext (f.immHi ++ f.immLo)

/-! ### The meanings -/

/-- ADD (40 R307). -/
def execAddS (f : Fmt.R2) (s : State) : Outcome :=
  compute ⟨4, f.word 0x19#8⟩ (operandsR2 f) (fun a b _ => a + b) s

/-- ADD (40 R308). -/
def execAdd (f : Fmt.R3) (s : State) : Outcome :=
  compute ⟨6, f.word 0x02#8 0x04#7⟩ (operandsR3 f) (fun a b c => a + b + c) s

/-- ADDI (40 R309). -/
def execAddi (f : Fmt.RI) (s : State) : Outcome :=
  compute ⟨4, f.word 0x04#8⟩ (operandsRI f (sext f.imm)) (fun a b _ => a + b) s

/-- LDI (40 R311, the alias of ADDI). -/
def execLdi (f : Fmt.RI) (s : State) : Outcome :=
  compute ⟨4, f.word 0x04#8⟩ (operandsRI f (sext f.imm)) (fun a b _ => a + b) s

/-- ADDIL with an immediate and a length given: its own, or those of a prefixed pair (30 R263). -/
def addilWith (f : Fmt.RIL) (imm : Word) (c : Ctx) (s : State) : Outcome :=
  compute c (operandsRIL f imm) (fun a b _ => a + b) s

/-- ADDIL (40 R310). -/
def execAddil (f : Fmt.RIL) (s : State) : Outcome :=
  addilWith f (sext f.imm) ⟨6, f.word 0xD4#8⟩ s

/-- SUB (40 R312). -/
def execSub (f : Fmt.R3) (s : State) : Outcome :=
  compute ⟨6, f.word 0x02#8 0x05#7⟩ (operandsR3 f) (fun a b _ => a - b) s

/-- NEG (40 R314, the alias of SUB). -/
def execNeg (f : Fmt.R3) (s : State) : Outcome :=
  compute ⟨6, f.word 0x02#8 0x05#7⟩ (operandsR3 f) (fun a b _ => a - b) s

/-- SUBFI (40 R313). -/
def execSubfi (f : Fmt.RI) (s : State) : Outcome :=
  compute ⟨4, f.word 0x05#8⟩ (operandsRI f (sext f.imm)) (fun a b _ => b - a) s

/-- MUL (40 R315). -/
def execMul (f : Fmt.R3) (s : State) : Outcome :=
  compute ⟨6, f.word 0x02#8 0x06#7⟩ (operandsR3 f) (fun a b c => a * b + c) s

/-- MULH (40 R316). -/
def execMulh (f : Fmt.R3) (s : State) : Outcome :=
  compute ⟨6, f.word 0x02#8 0x0F#7⟩ (operandsR3 f) (fun a b _ => mulHigh a b) s

/-- MULI (40 R317). -/
def execMuli (f : Fmt.RI) (s : State) : Outcome :=
  compute ⟨4, f.word 0x06#8⟩ (operandsRI f (sext f.imm)) (fun a b _ => a * b) s

/-- MULF (40 R318). -/
def execMulf (f : Fmt.R3) (s : State) : Outcome :=
  compute ⟨6, f.word 0x02#8 0x15#7⟩ (operandsR3 f) (fun a b c => mulFast a b + c) s

/-- MULFI (40 R319). -/
def execMulfi (f : Fmt.RI) (s : State) : Outcome :=
  compute ⟨4, f.word 0x15#8⟩ (operandsRI f (zext f.imm)) (fun a b _ => mulFast a b) s

/-- DIV (40 R320). -/
def execDiv (f : Fmt.R3) (s : State) : Outcome :=
  computeFree ⟨6, f.word 0x02#8 0x10#7⟩ (operandsR3 f) (fun free a b _ => divSigned free a b) s

/-- DIVU (40 R323). -/
def execDivu (f : Fmt.R3) (s : State) : Outcome :=
  computeFree ⟨6, f.word 0x02#8 0x11#7⟩ (operandsR3 f) (fun free a b _ => divUnsigned free a b) s

/-- DIVSU (40 R325). -/
def execDivsu (f : Fmt.R3) (s : State) : Outcome :=
  computeFree ⟨6, f.word 0x02#8 0x12#7⟩ (operandsR3 f) (fun free a b _ => divSignedUnsigned free a b) s

/-- DIVI (40 R321). -/
def execDivi (f : Fmt.RI) (s : State) : Outcome :=
  computeFree ⟨4, f.word 0x40#8⟩ (operandsRI f (sext f.imm)) (fun free a b _ => divSigned free a b) s

/-- DIVIL with an immediate and a length given: its own, or those of a prefixed pair (30 R263). -/
def divilWith (f : Fmt.RIL) (imm : Word) (c : Ctx) (s : State) : Outcome :=
  computeFree c (operandsRIL f imm) (fun free a b _ => divSigned free a b) s

/-- DIVIL (40 R322). -/
def execDivil (f : Fmt.RIL) (s : State) : Outcome :=
  divilWith f (sext f.imm) ⟨6, f.word 0x42#8⟩ s

/-- DIVUI (40 R324). -/
def execDivui (f : Fmt.RI) (s : State) : Outcome :=
  computeFree ⟨4, f.word 0x4F#8⟩ (operandsRI f (zext f.imm)) (fun free a b _ => divUnsigned free a b) s

/-- PTRDIF (40 R327). -/
def execPtrdif (f : Fmt.R3) (s : State) : Outcome :=
  compute ⟨6, f.word 0x02#8 0x14#7⟩ (operandsR3 f) (fun a b c => pointerDifference a b c) s

/-- DIF (40 R326, the alias of PTRDIF). -/
def execDif (f : Fmt.R3) (s : State) : Outcome :=
  compute ⟨6, f.word 0x02#8 0x14#7⟩ (operandsR3 f) (fun a b c => pointerDifference a b c) s

/-- ABS (40 R306, the alias of PTRDIF). -/
def execAbs (f : Fmt.R3) (s : State) : Outcome :=
  compute ⟨6, f.word 0x02#8 0x14#7⟩ (operandsR3 f) (fun a b c => pointerDifference a b c) s

/-- MIN (40 R328). -/
def execMin (f : Fmt.R3) (s : State) : Outcome :=
  compute ⟨6, f.word 0x02#8 0x28#7⟩ (operandsR3 f) (fun a b c => min3 a b c) s

/-- MAX (40 R329). -/
def execMax (f : Fmt.R3) (s : State) : Outcome :=
  compute ⟨6, f.word 0x02#8 0x29#7⟩ (operandsR3 f) (fun a b c => max3 a b c) s

/-- CMP (40 R330). -/
def execCmp (f : Fmt.R3) (s : State) : Outcome :=
  compute ⟨6, f.word 0x02#8 0x2A#7⟩ (operandsR3 f) (fun a b _ => compareSigned a b) s

/-- CMPU (40 R333). -/
def execCmpu (f : Fmt.R3) (s : State) : Outcome :=
  compute ⟨6, f.word 0x02#8 0x2B#7⟩ (operandsR3 f) (fun a b _ => compareUnsigned a b) s

/-- CMPI (40 R331). -/
def execCmpi (f : Fmt.RI) (s : State) : Outcome :=
  compute ⟨4, f.word 0x50#8⟩ (operandsRI f (sext f.imm)) (fun a b _ => compareSigned a b) s

/-- CMPIL with an immediate and a length given: its own, or those of a prefixed pair (30 R263). -/
def cmpilWith (f : Fmt.RIL) (imm : Word) (c : Ctx) (s : State) : Outcome :=
  compute c (operandsRIL f imm) (fun a b _ => compareSigned a b) s

/-- CMPIL (40 R332). -/
def execCmpil (f : Fmt.RIL) (s : State) : Outcome :=
  cmpilWith f (sext f.imm) ⟨6, f.word 0xD0#8⟩ s

/-- CMPUI (40 R334). -/
def execCmpui (f : Fmt.RI) (s : State) : Outcome :=
  compute ⟨4, f.word 0x60#8⟩ (operandsRI f (sext f.imm)) (fun a b _ => compareUnsigned a b) s

/-- CHK (40 R335). It has no target; cn is the low half of the Rt place. Its z has nothing to zero and is refused
by `WellFormed.check` also with v = 1 (log 48). -/
def execChk (f : Fmt.R3) (s : State) : Outcome :=
  run ⟨6, f.word 0x02#8 0x19#7⟩ { operandsR3 f with rt := 0 } (checkRule (f.rt.extractLsb' 0 3)) s

/-- CHKI (40 R336); its vector form checks the elements under m0 (log 49). -/
def execChki (f : Fmt.CHKI) (s : State) : Outcome :=
  run ⟨6, f.word 0x45#8⟩ ⟨f.v, 0, 0, 0, sourceReg f.v f.ra, opnd f.tb f.rb, .imm (chkiImmediate f)⟩ (checkRule f.cn) s

/-- CMOVNZ (40 R337). -/
def execCmovnz (f : Fmt.R3) (s : State) : Outcome :=
  run ⟨6, f.word 0x02#8 0x2D#7⟩ (operandsR3ScalarA f) (conditionalMove f.v) s

/-- MKBOOL (40 R339, the alias of CMOVNZ). -/
def execMkbool (f : Fmt.R3) (s : State) : Outcome :=
  run ⟨6, f.word 0x02#8 0x2D#7⟩ (operandsR3ScalarA f) (conditionalMove f.v) s

/-- NOT (40 R340, the alias of CMOVNZ). -/
def execNot (f : Fmt.R3) (s : State) : Outcome :=
  run ⟨6, f.word 0x02#8 0x2D#7⟩ (operandsR3ScalarA f) (conditionalMove f.v) s

/-- VBITS2V (48 R890, the alias of CMOVNZ). -/
def execVbits2vC (f : Fmt.R3) (s : State) : Outcome :=
  run ⟨6, f.word 0x02#8 0x2D#7⟩ (operandsR3ScalarA f) (conditionalMove f.v) s

/-- CPUID (40 R338). With v = 1, which its format draws beside neither m3 nor z, it runs for the elements that m0 enables
and zeroes none: DEDUCED (log 49). -/
def execCpuid (f : Fmt.RI) (s : State) : Outcome :=
  run ⟨4, f.word 0x41#8⟩ (operandsRI f 0) cpuidRule s

/-- SEQ (40 R341). -/
def execSeq (f : Fmt.R3) (s : State) : Outcome :=
  compute ⟨6, f.word 0x02#8 0x26#7⟩ (operandsR3 f) (fun a b _ => ofProp (a == b)) s

/-- SNE (40 R344). -/
def execSne (f : Fmt.R3) (s : State) : Outcome :=
  compute ⟨6, f.word 0x02#8 0x27#7⟩ (operandsR3 f) (fun a b _ => ofProp (a != b)) s

/-- SLT (40 R347). -/
def execSlt (f : Fmt.R3) (s : State) : Outcome :=
  compute ⟨6, f.word 0x02#8 0x20#7⟩ (operandsR3 f) (fun a b _ => ofProp (decide (a.toInt < b.toInt))) s

/-- SLTU (40 R350). -/
def execSltu (f : Fmt.R3) (s : State) : Outcome :=
  compute ⟨6, f.word 0x02#8 0x22#7⟩ (operandsR3 f) (fun a b _ => ofProp (decide (a.toNat < b.toNat))) s

/-- SGE (40 R351). -/
def execSge (f : Fmt.R3) (s : State) : Outcome :=
  compute ⟨6, f.word 0x02#8 0x21#7⟩ (operandsR3 f) (fun a b _ => ofProp (decide (a.toInt ≥ b.toInt))) s

/-- SGEU (40 R352). -/
def execSgeu (f : Fmt.R3) (s : State) : Outcome :=
  compute ⟨6, f.word 0x02#8 0x23#7⟩ (operandsR3 f) (fun a b _ => ofProp (decide (a.toNat ≥ b.toNat))) s

/-- SEQI (40 R342). -/
def execSeqi (f : Fmt.RI) (s : State) : Outcome :=
  compute ⟨4, f.word 0x16#8⟩ (operandsRI f (sext f.imm)) (fun a b _ => ofProp (a == b)) s

/-- SNEI (40 R345). -/
def execSnei (f : Fmt.RI) (s : State) : Outcome :=
  compute ⟨4, f.word 0x17#8⟩ (operandsRI f (sext f.imm)) (fun a b _ => ofProp (a != b)) s

/-- SLTI (40 R348). -/
def execSlti (f : Fmt.RI) (s : State) : Outcome :=
  compute ⟨4, f.word 0x18#8⟩ (operandsRI f (sext f.imm)) (fun a b _ => ofProp (decide (a.toInt < b.toInt))) s

/-- SGTI (40 R353). -/
def execSgti (f : Fmt.RI) (s : State) : Outcome :=
  compute ⟨4, f.word 0x1B#8⟩ (operandsRI f (sext f.imm)) (fun a b _ => ofProp (decide (a.toInt > b.toInt))) s

/-- SGTUI (40 R355). -/
def execSgtui (f : Fmt.RI) (s : State) : Outcome :=
  compute ⟨4, f.word 0x1F#8⟩ (operandsRI f (zext f.imm)) (fun a b _ => ofProp (decide (a.toNat > b.toNat))) s

/-- SLEI (40 R357, the alias of SLTI). -/
def execSlei (f : Fmt.RI) (s : State) : Outcome :=
  compute ⟨4, (Fmt.RI.word 0x18#8 { f with imm := f.imm + 1#11 })⟩ (operandsRI f (sext f.imm)) (fun a b _ => ofProp (decide (a.toInt ≤ b.toInt))) s

/-- SEQIL with an immediate and a length given: its own, or those of a prefixed pair (30 R263). -/
def seqilWith (f : Fmt.RIL) (imm : Word) (c : Ctx) (s : State) : Outcome :=
  compute c (operandsRIL f imm) (fun a b _ => ofProp (a == b)) s

/-- SEQIL (40 R343). -/
def execSeqil (f : Fmt.RIL) (s : State) : Outcome :=
  seqilWith f (sext f.imm) ⟨6, f.word 0xD6#8⟩ s

/-- SNEIL with an immediate and a length given: its own, or those of a prefixed pair (30 R263). -/
def sneilWith (f : Fmt.RIL) (imm : Word) (c : Ctx) (s : State) : Outcome :=
  compute c (operandsRIL f imm) (fun a b _ => ofProp (a != b)) s

/-- SNEIL (40 R346). -/
def execSneil (f : Fmt.RIL) (s : State) : Outcome :=
  sneilWith f (sext f.imm) ⟨6, f.word 0xD7#8⟩ s

/-- SLTIL with an immediate and a length given: its own, or those of a prefixed pair (30 R263). -/
def sltilWith (f : Fmt.RIL) (imm : Word) (c : Ctx) (s : State) : Outcome :=
  compute c (operandsRIL f imm) (fun a b _ => ofProp (decide (a.toInt < b.toInt))) s

/-- SLTIL (40 R349). -/
def execSltil (f : Fmt.RIL) (s : State) : Outcome :=
  sltilWith f (sext f.imm) ⟨6, f.word 0xD3#8⟩ s

/-- SGTIL with an immediate and a length given: its own, or those of a prefixed pair (30 R263). -/
def sgtilWith (f : Fmt.RIL) (imm : Word) (c : Ctx) (s : State) : Outcome :=
  compute c (operandsRIL f imm) (fun a b _ => ofProp (decide (a.toInt > b.toInt))) s

/-- SGTIL (40 R354). -/
def execSgtil (f : Fmt.RIL) (s : State) : Outcome :=
  sgtilWith f (sext f.imm) ⟨6, f.word 0xDB#8⟩ s

/-- SGTUIL with an immediate and a length given: its own, or those of a prefixed pair (30 R263). -/
def sgtuilWith (f : Fmt.RIL) (imm : Word) (c : Ctx) (s : State) : Outcome :=
  compute c (operandsRIL f imm) (fun a b _ => ofProp (decide (a.toNat > b.toNat))) s

/-- SGTUIL (40 R356). -/
def execSgtuil (f : Fmt.RIL) (s : State) : Outcome :=
  sgtuilWith f (zext f.imm) ⟨6, f.word 0xDF#8⟩ s

end Sys2Proof.Machine
end

