-- ==== Sys2Proof/Machine/Logical.lean ====
section
/-! DEFINITION. Bitwise logic, shifts and rotates, bit counts and reversal, bit matrices, byte maps, carry-less
multiplication and index searches (41_integer_logical_shift). -/

namespace Sys2Proof.Machine

/-! ### The rules -/

/-- The low six bits of a shift amount (R420). -/
def shiftAmount (w : Word) : Nat := (w.extractLsb' 0 6).toNat

/-- Bits 127:64 of {B, A} shifted left (R422). -/
def shiftLeftPair (a b c : Word) : Word := ((b ++ a) <<< shiftAmount c).extractLsb' 64 64

/-- Bits 63:0 of {B, A} shifted right (R423). -/
def shiftRightPair (a b c : Word) : Word := ((b ++ a) >>> shiftAmount c).extractLsb' 0 64

/-- The bits of A reversed within groups of 8 << Sz (R432). -/
def reverseBits (sz : BitVec 2) (a : Word) : Word :=
  let w := 8 <<< sz.toNat
  bitsOf (fun i => a.getLsbD (i / w * w + (w - 1 - i % w))) 64

/-- Element (i, j) of a register as an 8 by 8 matrix: bit 63 is (0, 0) (R435). -/
def matrixBit (x : Word) (i j : Nat) : Bool := x.getLsbD (63 - (8 * i + j))

/-- The register of an 8 by 8 matrix. -/
def ofMatrix (p : Nat → Nat → Bool) : Word := bitsOf (fun n => p ((63 - n) / 8) ((63 - n) % 8)) 64

/-- The products A(i,k) and B(k,j) for k in 0..7. -/
def matrixTerms (a b : Word) (i j : Nat) : List Bool :=
  (List.range 8).map fun k => matrixBit a i k && matrixBit b k j

/-- MOR: the products joined by or (R435). -/
def matrixOr (a b : Word) (i j : Nat) : Bool := (matrixTerms a b i j).any id

/-- MXOR: the products joined by exclusive or (R435). -/
def matrixXor (a b : Word) (i j : Nat) : Bool := (matrixTerms a b i j).foldl xor false

/-- BMAP: byte n of the result is the byte of {B, A} that nibble n of C names (R436). -/
def byteMap (a b c : Word) : Word :=
  wordOf ((List.range 8).map fun n => (b ++ a).extractLsb' (8 * (c.extractLsb' (4 * n) 4).toNat) 8)

/-- The 128-bit carry-less product (R437). -/
def carrylessProduct (a b : Word) : BitVec 128 :=
  (List.range 64).foldl (fun p i => if b.getLsbD i then p ^^^ (a.setWidth 128 <<< i) else p) 0#128

/-- The least index below `n` of an item of `w` bits equal to `x`, or all ones (R440 to R446). -/
def searchIndex (w n : Nat) (a : Word) (x : BitVec w) : Word :=
  match (List.range n).find? fun i => a.extractLsb' (w * i) w == x with
  | some i => BitVec.ofNat 64 i
  | none => BitVec.allOnes 64

/-! ### The meanings -/

/-- AND (41 R400). -/
def execAndS (f : Fmt.R2) (s : State) : Outcome :=
  compute ⟨4, f.word 0x1A#8⟩ (operandsR2 f) (fun a b _ => a &&& b) s

/-- AND (41 R401). -/
def execAnd (f : Fmt.R3) (s : State) : Outcome :=
  compute ⟨6, f.word 0x02#8 0x08#7⟩ (operandsR3 f) (fun a b c => a &&& b &&& c) s

/-- ANDC (41 R402). -/
def execAndc (f : Fmt.R3) (s : State) : Outcome :=
  compute ⟨6, f.word 0x02#8 0x0B#7⟩ (operandsR3 f) (fun a b c => a &&& ~~~b &&& c) s

/-- OR (41 R403). -/
def execOrS (f : Fmt.R2) (s : State) : Outcome :=
  compute ⟨4, f.word 0x1D#8⟩ (operandsR2 f) (fun a b _ => a ||| b) s

/-- OR (41 R404). -/
def execOr (f : Fmt.R3) (s : State) : Outcome :=
  compute ⟨6, f.word 0x02#8 0x09#7⟩ (operandsR3 f) (fun a b c => a ||| b ||| c) s

/-- ORC (41 R405). -/
def execOrc (f : Fmt.R3) (s : State) : Outcome :=
  compute ⟨6, f.word 0x02#8 0x03#7⟩ (operandsR3 f) (fun a b c => a ||| ~~~b ||| c) s

/-- EOR (41 R406). -/
def execEorS (f : Fmt.R2) (s : State) : Outcome :=
  compute ⟨4, f.word 0x1E#8⟩ (operandsR2 f) (fun a b _ => a ^^^ b) s

/-- EOR (41 R407). -/
def execEor (f : Fmt.R3) (s : State) : Outcome :=
  compute ⟨6, f.word 0x02#8 0x0A#7⟩ (operandsR3 f) (fun a b c => a ^^^ b ^^^ c) s

/-- ENOR (41 R408). -/
def execEnor (f : Fmt.R3) (s : State) : Outcome :=
  compute ⟨6, f.word 0x02#8 0x02#7⟩ (operandsR3 f) (fun a b c => ~~~(a ^^^ b ^^^ c)) s

/-- NAND (41 R409). -/
def execNand (f : Fmt.R3) (s : State) : Outcome :=
  compute ⟨6, f.word 0x02#8 0x00#7⟩ (operandsR3 f) (fun a b c => ~~~(a &&& b &&& c)) s

/-- NOR (41 R410). -/
def execNor (f : Fmt.R3) (s : State) : Outcome :=
  compute ⟨6, f.word 0x02#8 0x01#7⟩ (operandsR3 f) (fun a b c => ~~~(a ||| b ||| c)) s

/-- MUX (41 R411). -/
def execMux (f : Fmt.R3) (s : State) : Outcome :=
  compute ⟨6, f.word 0x02#8 0x34#7⟩ (operandsR3 f) (fun a b c => (a &&& b) ||| (~~~a &&& c)) s

/-- ANDI (41 R412). -/
def execAndi (f : Fmt.RI) (s : State) : Outcome :=
  compute ⟨4, f.word 0x08#8⟩ (operandsRI f (oext f.imm)) (fun a b _ => a &&& b) s

/-- ANDIL with an immediate and a length given: its own, or those of a prefixed pair (30 R263). -/
def andilWith (f : Fmt.RIL) (imm : Word) (c : Ctx) (s : State) : Outcome :=
  compute c (operandsRIL f imm) (fun a b _ => a &&& b) s

/-- ANDIL (41 R413). -/
def execAndil (f : Fmt.RIL) (s : State) : Outcome :=
  andilWith f (oext f.imm) ⟨6, f.word 0xD8#8⟩ s

/-- ORI (41 R414). -/
def execOri (f : Fmt.RI) (s : State) : Outcome :=
  compute ⟨4, f.word 0x09#8⟩ (operandsRI f (zext f.imm)) (fun a b _ => a ||| b) s

/-- ORIL with an immediate and a length given: its own, or those of a prefixed pair (30 R263). -/
def orilWith (f : Fmt.RIL) (imm : Word) (c : Ctx) (s : State) : Outcome :=
  compute c (operandsRIL f imm) (fun a b _ => a ||| b) s

/-- ORIL (41 R415). -/
def execOril (f : Fmt.RIL) (s : State) : Outcome :=
  orilWith f (zext f.imm) ⟨6, f.word 0xD9#8⟩ s

/-- EORI (41 R416). -/
def execEori (f : Fmt.RI) (s : State) : Outcome :=
  compute ⟨4, f.word 0x0A#8⟩ (operandsRI f (zext f.imm)) (fun a b _ => a ^^^ b) s

/-- EORIL with an immediate and a length given: its own, or those of a prefixed pair (30 R263). -/
def eorilWith (f : Fmt.RIL) (imm : Word) (c : Ctx) (s : State) : Outcome :=
  compute c (operandsRIL f imm) (fun a b _ => a ^^^ b) s

/-- EORIL (41 R417). -/
def execEoril (f : Fmt.RIL) (s : State) : Outcome :=
  eorilWith f (zext f.imm) ⟨6, f.word 0xDA#8⟩ s

/-- SLL (41 R421). -/
def execSllS (f : Fmt.R2) (s : State) : Outcome :=
  compute ⟨4, f.word 0x58#8⟩ (operandsR2 f) (fun a b _ => a <<< shiftAmount b) s

/-- SLLP (41 R422). The high half of the pair is B = opnd(Tb, Rb): with Tb = 2 or 3 it is the immediate, although the page
asks for a register pair. DEDUCED (log 53). -/
def execSllp (f : Fmt.R3) (s : State) : Outcome :=
  compute ⟨6, f.word 0x02#8 0x40#7⟩ (operandsR3 f) (fun a b c => shiftLeftPair a b c) s

/-- ROL (41 R426, the alias of SLLP). With v = 1 it is the SLLP of its word too: A is v[Ra] and B the scalar r[Rb], where
R426 says only rotate of A. DEDUCED (log 55). -/
def execRol (f : Fmt.R3) (s : State) : Outcome :=
  compute ⟨6, f.word 0x02#8 0x40#7⟩ (operandsR3 f) (fun a b c => shiftLeftPair a b c) s

/-- SRLP (41 R423). The high half of the pair is B = opnd(Tb, Rb): with Tb = 2 or 3 it is the immediate, although the page
asks for a register pair. DEDUCED (log 53). -/
def execSrlp (f : Fmt.R3) (s : State) : Outcome :=
  compute ⟨6, f.word 0x02#8 0x41#7⟩ (operandsR3 f) (fun a b c => shiftRightPair a b c) s

/-- SRL (41 R424, the alias of SRLP). -/
def execSrl (f : Fmt.R3) (s : State) : Outcome :=
  compute ⟨6, f.word 0x02#8 0x41#7⟩ (operandsR3 f) (fun a b c => shiftRightPair a b c) s

/-- ROR (41 R427, the alias of SRLP). With v = 1 it is the SRLP of its word too: A is v[Ra] and B the scalar r[Rb], where
R427 says only rotate of A. DEDUCED (log 55). -/
def execRor (f : Fmt.R3) (s : State) : Outcome :=
  compute ⟨6, f.word 0x02#8 0x41#7⟩ (operandsR3 f) (fun a b c => shiftRightPair a b c) s

/-- SRA (41 R425). -/
def execSra (f : Fmt.R3) (s : State) : Outcome :=
  compute ⟨6, f.word 0x02#8 0x42#7⟩ (operandsR3 f) (fun a b _ => a.sshiftRight (shiftAmount b)) s

/-- CNTLZ (41 R430). -/
def execCntlz (f : Fmt.R1) (s : State) : Outcome :=
  compute ⟨4, f.word 0x01#8 0x00#7⟩ (operandsR1 f) (fun a _ _ => a.clz) s

/-- CNTPOP (41 R431). -/
def execCntpop (f : Fmt.R1) (s : State) : Outcome :=
  compute ⟨4, f.word 0x01#8 0x02#7⟩ (operandsR1 f) (fun a _ _ => a.cpop) s

/-- REVBIT (41 R432). -/
def execRevbit (sz : BitVec 2) (f : Fmt.R1) (s : State) : Outcome :=
  compute ⟨4, f.word 0x01#8 (0xA#5 ++ sz)⟩ (operandsR1 f) (fun a _ _ => reverseBits sz a) s

/-- MOR (41 R435). -/
def execMor (f : Fmt.R3) (s : State) : Outcome :=
  compute ⟨6, f.word 0x02#8 0x30#7⟩ (operandsR3 f) (fun a b _ => ofMatrix (matrixOr a b)) s

/-- MXOR (41 R435). -/
def execMxor (f : Fmt.R3) (s : State) : Outcome :=
  compute ⟨6, f.word 0x02#8 0x31#7⟩ (operandsR3 f) (fun a b _ => ofMatrix (matrixXor a b)) s

/-- MORT (41 R435). The result is transposed (D49). -/
def execMort (f : Fmt.R3) (s : State) : Outcome :=
  compute ⟨6, f.word 0x02#8 0x32#7⟩ (operandsR3 f) (fun a b _ => ofMatrix fun i j => matrixOr a b j i) s

/-- MXORT (41 R435). The result is transposed (D49). -/
def execMxort (f : Fmt.R3) (s : State) : Outcome :=
  compute ⟨6, f.word 0x02#8 0x33#7⟩ (operandsR3 f) (fun a b _ => ofMatrix fun i j => matrixXor a b j i) s

/-- BMAP (41 R436). A nonzero Func7 is refused: DEDUCED (log 52). -/
def execBmap (f : Fmt.R3P) (s : State) : Outcome :=
  compute ⟨6, f.word 0x4C#8⟩ (operandsR3P f) (fun a b c => byteMap a b c) s

/-- CLMUL (41 R437). B is opnd(Tb, Rb): with Tb = 2 or 3 it is the immediate, although the page says that both operands
must be in registers. DEDUCED (log 53). -/
def execClmul (f : Fmt.R3) (s : State) : Outcome :=
  compute ⟨6, f.word 0x02#8 0x2E#7⟩ (operandsR3 f) (fun a b _ => (carrylessProduct a b).extractLsb' 0 64) s

/-- CLMULH (41 R438). B is opnd(Tb, Rb) as for CLMUL: with Tb = 2 or 3 the immediate. DEDUCED (log 53). -/
def execClmulh (f : Fmt.R3) (s : State) : Outcome :=
  compute ⟨6, f.word 0x02#8 0x2F#7⟩ (operandsR3 f) (fun a b _ => (carrylessProduct a b).extractLsb' 64 64) s

/-- BYTNDX (41 R440). -/
def execBytndx (f : Fmt.R3) (s : State) : Outcome :=
  compute ⟨6, f.word 0x02#8 0x1A#7⟩ (operandsR3 f) (fun a b _ => searchIndex 8 8 a (b.extractLsb' 0 8)) s

/-- BYTNDXI (41 R442). -/
def execBytndxi (f : Fmt.RI) (s : State) : Outcome :=
  compute ⟨4, f.word 0x55#8⟩ (operandsRI f (zext (f.imm.extractLsb' 0 8))) (fun a b _ => searchIndex 8 8 a (b.extractLsb' 0 8)) s

/-- WYDENDX (41 R443). -/
def execWydendx (f : Fmt.R3) (s : State) : Outcome :=
  compute ⟨6, f.word 0x02#8 0x1B#7⟩ (operandsR3 f) (fun a b _ => searchIndex 16 4 a (b.extractLsb' 0 16)) s

/-- WYDENDXI with an immediate and a length given: its own, or those of a prefixed pair (30 R263). -/
def wydendxiWith (f : Fmt.RIL) (imm : Word) (c : Ctx) (s : State) : Outcome :=
  compute c (operandsRIL f imm) (fun a b _ => searchIndex 16 4 a (b.extractLsb' 0 16)) s

/-- WYDENDXI (41 R444). The immediate's bits above 15 take no part and may have any value (log 54). -/
def execWydendxi (f : Fmt.RIL) (s : State) : Outcome :=
  wydendxiWith f (zext f.imm) ⟨6, f.word 0x56#8⟩ s

/-- UTF21NDX (41 R445). -/
def execUtf21ndx (f : Fmt.R3) (s : State) : Outcome :=
  compute ⟨6, f.word 0x02#8 0x1C#7⟩ (operandsR3 f) (fun a b _ => searchIndex 21 3 a (b.extractLsb' 0 21)) s

/-- UTF21NDXI with an immediate and a length given: its own, or those of a prefixed pair (30 R263). -/
def utf21ndxiWith (f : Fmt.RIL) (imm : Word) (c : Ctx) (s : State) : Outcome :=
  compute c (operandsRIL f imm) (fun a b _ => searchIndex 21 3 a (b.extractLsb' 0 21)) s

/-- UTF21NDXI (41 R446). The immediate's bits above 20 take no part and may have any value (log 54). -/
def execUtf21ndxi (f : Fmt.RIL) (s : State) : Outcome :=
  utf21ndxiWith f (zext f.imm) ⟨6, f.word 0x57#8⟩ s

end Sys2Proof.Machine
end

