-- ==== Sys2Proof/Machine/Prefix.lean ====
section
/-! DEFINITION. Fetching one instruction (30 R242) and the four immediate prefixes, which fetch the instruction they
extend and run it with the extended immediate (30 R262 to R267). -/

namespace Sys2Proof.Machine

/-! ### Fetching one instruction -/

/-- The bytes of the instruction at an address: its first parcel, and as many more as its root opcode asks for. A root
without a length gives the parcel alone (30 R242). A failed fetch changes nothing. -/
def State.fetchInstruction (s : State) (va : Word) : Res (List Byte) :=
  Res.restore s <|
    (s.fetchBytes va 2).bind fun parcel s1 =>
      match lengthOf (parcel.headD 0) with
      | none => .ok parcel s1
      | some n => (s1.fetchBytes (nextIp va 2) (n - 2)).bind fun rest s2 => .ok (parcel ++ rest) s2

/-- The trap of an exception for which no instruction was decoded: M_BAD_INSTR receives a free value
(60 R1011, 93 U48). -/
def State.raiseUndecoded (s : State) (e : Exc) : Outcome :=
  (s.fresh.takeTrap ⟨e.cause, s.ip, none, e.badAddr, s.freeBadInstr, e.debug, false⟩).outcome

/-- UNIMP of fetched bytes (60 R1015). -/
def State.raiseUnimplemented (s : State) (bs : List Byte) : Outcome :=
  s.raise ⟨bs.length, wordOf bs⟩ (.plain causeUNIMP)

/-! ### The instruction after a prefix -/

/-- The RIL instruction of a root opcode as a function of its fields, immediate, length and bits (30 R263). -/
def prefixedMeaning (root : Byte) : Option (Fmt.RIL → Word → Ctx → State → Outcome) :=
  match root.toNat with
  | 0xD4 => some addilWith
  | 0x42 => some divilWith
  | 0xD0 => some cmpilWith
  | 0xD6 => some seqilWith
  | 0xD7 => some sneilWith
  | 0xD3 => some sltilWith
  | 0xDB => some sgtilWith
  | 0xDF => some sgtuilWith
  | 0xD8 => some andilWith
  | 0xD9 => some orilWith
  | 0xDA => some eorilWith
  | 0x56 => some wydendxiWith
  | 0x57 => some utf21ndxiWith
  | _ => none

/-- Whether an instruction is a prefix: it fetches the unit it begins itself (30 R262). -/
def isPrefix : Instr → Bool
  | .exi7 _ => true
  | .exi23 _ => true
  | .exi41 _ => true
  | .exi55 _ => true
  | _ => false

/-- The fetch of a prefix of `size` bytes and the instruction after it as one unit: the bytes of the instruction. A
failed fetch changes nothing (30 R242, R262). -/
def State.fetchPair (s : State) (size : Nat) : Res (List Byte) :=
  ((s.fetchBytes s.ip size).bind fun _ s1 => s1.fetchInstruction (nextIp s.ip size)).restore s

/-- A prefix of `size` bytes with the immediate bits `p`: ip stays the prefix's, the pair advances by both lengths, and
M_BAD_INSTR of its traps is the RIL instruction (30 R262, R263, 60 R1011). Before anything else the prefix has no
meaning (93 U46). `s` is the state before the unit is fetched. -/
def runPrefix {w : Nat} (size : Nat) (p : BitVec w) (s : State) : Outcome :=
  match s.fetchPair size with
  | .stop h => h.outcome
  | .trap e s1 => s1.raiseUndecoded e
  | .ok bs s1 =>
    match prefixedMeaning (bs.headD 0) with
    | some g =>
      let f := Fmt.RIL.ofWord (wordOf bs)
      if f.v = 0#1 ∧ ¬(f.z = 0#1 ∧ f.m = 0#3) then .refused .noRoleField
      else g f (sext (p ++ f.imm)) ⟨size + 6, wordOf bs⟩ s1
    | none =>
      if lengthOf (bs.headD 0) = none then { s with draw := s1.draw }.raiseUnimplemented bs else .refused .prefixTarget

/-! ### The meanings -/

/-- EXI7 (30 R264). -/
def execExi7 (f : Fmt.EXI7) (s : State) : Outcome :=
  runPrefix 2 f.imm s

/-- EXI23 (30 R265). -/
def execExi23 (f : Fmt.EXI23) (s : State) : Outcome :=
  runPrefix 4 f.imm s

/-- EXI41 (30 R266). -/
def execExi41 (f : Fmt.EXI41) (s : State) : Outcome :=
  runPrefix 6 (f.immHi ++ f.immLo) s

/-- EXI55 (30 R267). -/
def execExi55 (f : Fmt.EXI55) (s : State) : Outcome :=
  runPrefix 8 f.imm s

end Sys2Proof.Machine
end

