-- ==== Sys2Proof/Machine/Agents.lean ====
section
/-! DEFINITION. What happens between instructions: interrupts, single step and the instruction address match
(60 sections 4 and 5), and the moves of the other agents and inputs (log 5). -/

namespace Sys2Proof.Machine

/-! ### Before an instruction (60 R1013) -/

/-- A request is present that ends a wait (47 R829). -/
def State.requested (s : State) : Bool := s.inputs.irqLevel != 0#3 || s.inputs.nmi

/-- A waiting core: with a request the WFI completes (47 R829, 60 R1036). -/
def State.waitStep (s : State) : Outcome :=
  if s.requested then .next ({ s with mode := { s.mode with waiting := false } }.advance 2) else .next s

/-- The trap of an interrupt (60 R1031). -/
def State.interrupt (s : State) (cause : BitVec 8) (level : BitVec 3) : Outcome :=
  (s.fresh.takeTrap ⟨cause, s.ip, some level, none, s.freeBadInstr, false, true⟩).outcome

/-- NMI is consumed when it is taken (60 R1032). -/
def State.takeNmi (s : State) : Outcome :=
  { s with inputs := { s.inputs with nmi := false } }.interrupt causeNMI 7

/-- The recognition of a maskable request (60 R1031, R1033). -/
def State.recognised (s : State) : Bool :=
  s.inputs.irqLevel != 0#3 && s.im == 0#1 && decide (s.ipl < s.inputs.irqLevel) && s.mode.diCount == 0#3

/-- The single-step trap (60 R1051). -/
def State.singleStep (s : State) : Outcome := s.raiseUndecoded ⟨causeSSM, none, true⟩

/-- The instruction address match (60 R1050): the trap, or the state in which the instruction goes on. -/
def State.instructionMatch (s : State) : Res Unit :=
  let m := matchBits (debugMatchesFetch s)
  if m = 0#4 then .ok () s
  else if s.matchTraps m then .trap ⟨causeDBG, none, true⟩ (s.recordMatch m)
  else .ok () (s.recordMatch m)

/-- What the start of an instruction changes: single stepping is noted (60 R1051), DI's count goes down (47 R826), and
free values are fresh (log 6). -/
def State.begin (s : State) : State :=
  { s with
    draw := s.draw + 1
    mode := { s.mode with
      stepPending := s.csr.dbcr.getLsbD 63
      diCount := if s.mode.diCount = 0#3 then 0#3 else s.mode.diCount - 1#3 } }

/-! ### The other agents (log 5) -/

/-- One tick of tm_clk_i (10_state R69). -/
def timeAfterTick (hz : Nat) (t : Word) : Word :=
  let lo := t.extractLsb' 0 32 + 1
  if lo.toNat = hz then (t.extractLsb' 32 32 + 1) ++ 0#32 else t.extractLsb' 32 32 ++ lo

/-- The trace record formats (60 R1052). -/
def traceRecordOk (r : BitVec 112) : Bool :=
  r.extractLsb' 0 2 == 0#2 || (r.extractLsb' 0 2 == 1#2 && decide ((r.extractLsb' 2 7).toNat ≤ 103))

/-- The trace unit pushes a record while tracing, and tracing ends when queue 15 is full (60 R1052, 93 U47). The record is
pushed whole, 112 bits, also where QWIDTH[15] is less (60 R1052; 47 R835 speaks of the width: DEDUCED, log 24). -/
def State.traceStep (s : State) (r : BitVec 112) : State :=
  if s.mode.tracing && traceRecordOk r then
    let q := s.queues.get 15
    let depth := s.config.qdepth.get 15
    let q1 := if q.length < depth then q ++ [r] else q
    { s with queues := s.queues.set 15 q1
             mode := { s.mode with tracing := decide (q1.length < depth) } }
  else s

/-- Another bus master writes a byte of memory (60 R1041, 20_memory R220). -/
def State.busWrite (s : State) (addr : Nat) (b : Byte) : State :=
  let a := addr % 2 ^ 64
  match platformKind s.config.platformMap a with
  | .memory => (s.keepTetras (BitVec.ofNat 64 a) 1).storeByte a b
  | _ => s

/-- The reset line: the core starts again and its caches are empty; memory, the inputs, the schedule and the
implementation stay (70_reset R1080, log 33). -/
def State.resetCore (s : State) : State :=
  { State.reset with mem := s.mem, inputs := s.inputs, env := s.env, era := s.era + 1, draw := s.draw + 1,
                     config := s.config }

/-- A move that is not the core's. -/
def State.agentStep (s : State) : Event → Outcome
  | .core => .next s
  | .irq level cause => .next { s with inputs := { s.inputs with irqLevel := level, irqCause := cause } }
  | .nmi => .next { s with inputs := { s.inputs with nmi := true } }
  | .seed w => .next { s with inputs := { s.inputs with seed := w } }
  | .clocks n => .next { s with csr := { s.csr with tick := s.csr.tick + BitVec.ofNat 64 n } }
  | .tmTick => .next { s with csr := { s.csr with time := timeAfterTick s.config.tmClkHz s.csr.time } }
  | .busWrite addr b => .next (s.busWrite addr b)
  | .graphics => s.graphicsStep
  | .neuronDone n => s.neuronStep n
  | .trace r => .next (s.traceStep r)
  | .reset => .next s.resetCore

end Sys2Proof.Machine
end

