-- ==== Sys2Proof/Machine/Bitfield.lean ====
section
/-! DEFINITION. Bit fields, register moves and BCD (42_bitfield_bcd). A bit field with Mb > Me and a BCD operand with
a digit above 9 give a free value (R481, R495; 93 U32, U33). -/

namespace Sys2Proof.Machine

/-! ### The rules -/

/-- mask(Mb, Me): ones in bit positions Mb to Me inclusive, Mb <= Me (R480). -/
def fieldMask (mb me : Nat) : Word := (BitVec.allOnes 64 <<< mb) &&& (BitVec.allOnes 64 >>> (63 - me))

/-- A rule of A, Mb and Me; a free value where Mb > Me (R480, R481). -/
def onField (g : Word → Nat → Nat → Word) (free a b c : Word) : Word :=
  let mb := (b.extractLsb' 0 6).toNat
  let me := (c.extractLsb' 0 6).toNat
  if me < mb then free else g a mb me

/-- BFFFO: the index of the highest set bit of the field, relative to the field, or -1 (R484, D50). -/
def fieldFirstOne (a : Word) (mb me : Nat) : Word :=
  let field := (a &&& fieldMask mb me) >>> mb
  if field = 0 then BitVec.allOnes 64 else 63 - field.clz

/-- BFEXT: the field right-aligned with bit Me copied upward (R486). -/
def fieldSigned (a : Word) (mb me : Nat) : Word := (a <<< (63 - me)).sshiftRight (63 - me + mb)

/-- BFEXTU: the field right-aligned (R485). -/
def fieldUnsigned (a : Word) (mb me : Nat) : Word := (a &&& fieldMask mb me) >>> mb

/-- The number that a byte of two decimal digits stands for (R495). -/
def bcdValue (x : BitVec 8) : Nat := 10 * (x.extractLsb' 4 4).toNat + (x.extractLsb' 0 4).toNat

/-- Both digits are at most 9 (R495). -/
def bcdValid (x : BitVec 8) : Bool := decide ((x.extractLsb' 4 4).toNat ≤ 9 ∧ (x.extractLsb' 0 4).toNat ≤ 9)

/-- The n decimal digits of a number, the lowest in bits 3:0 (R495). -/
def bcdDigits : Nat → Nat → Nat
  | 0, _ => 0
  | n + 1, k => k % 10 + 16 * bcdDigits n (k / 10)

/-- A rule of the numbers in the low bytes; a free value for an invalid digit (R495). -/
def onBcd (g : Nat → Nat → Nat) (free a b : Word) : Word :=
  let x := a.extractLsb' 0 8
  let y := b.extractLsb' 0 8
  if bcdValid x && bcdValid y then BitVec.ofNat 64 (g (bcdValue x) (bcdValue y)) else free

/-! ### The meanings -/

/-- BFALIGN (42 R483). -/
def execBfalign (f : Fmt.R3) (s : State) : Outcome :=
  computeFree ⟨6, f.word 0xAA#8 0x00#7⟩ (operandsR3 f) (onField (fun a mb me => (a <<< mb) &&& fieldMask mb me)) s

/-- BFFFO (42 R484). -/
def execBfffo (f : Fmt.R3) (s : State) : Outcome :=
  computeFree ⟨6, f.word 0xAA#8 0x01#7⟩ (operandsR3 f) (onField fieldFirstOne) s

/-- BFEXTU (42 R485). -/
def execBfextu (f : Fmt.R3) (s : State) : Outcome :=
  computeFree ⟨6, f.word 0xAA#8 0x04#7⟩ (operandsR3 f) (onField fieldUnsigned) s

/-- MOV (42 R492, the alias of BFEXTU). -/
def execMov (f : Fmt.R3) (s : State) : Outcome :=
  computeFree ⟨6, f.word 0xAA#8 0x04#7⟩ (operandsR3 f) (onField fieldUnsigned) s

/-- MOVZXB (42 R494, the alias of BFEXTU). -/
def execMovzxb (f : Fmt.R3) (s : State) : Outcome :=
  computeFree ⟨6, f.word 0xAA#8 0x04#7⟩ (operandsR3 f) (onField fieldUnsigned) s

/-- MOVZXW (42 R494, the alias of BFEXTU). -/
def execMovzxw (f : Fmt.R3) (s : State) : Outcome :=
  computeFree ⟨6, f.word 0xAA#8 0x04#7⟩ (operandsR3 f) (onField fieldUnsigned) s

/-- MOVZXT (42 R494, the alias of BFEXTU). -/
def execMovzxt (f : Fmt.R3) (s : State) : Outcome :=
  computeFree ⟨6, f.word 0xAA#8 0x04#7⟩ (operandsR3 f) (onField fieldUnsigned) s

/-- BFEXT (42 R486). -/
def execBfext (f : Fmt.R3) (s : State) : Outcome :=
  computeFree ⟨6, f.word 0xAA#8 0x05#7⟩ (operandsR3 f) (onField fieldSigned) s

/-- MOVSXB (42 R493, the alias of BFEXT). -/
def execMovsxb (f : Fmt.R3) (s : State) : Outcome :=
  computeFree ⟨6, f.word 0xAA#8 0x05#7⟩ (operandsR3 f) (onField fieldSigned) s

/-- MOVSXW (42 R493, the alias of BFEXT). -/
def execMovsxw (f : Fmt.R3) (s : State) : Outcome :=
  computeFree ⟨6, f.word 0xAA#8 0x05#7⟩ (operandsR3 f) (onField fieldSigned) s

/-- MOVSXT (42 R493, the alias of BFEXT). -/
def execMovsxt (f : Fmt.R3) (s : State) : Outcome :=
  computeFree ⟨6, f.word 0xAA#8 0x05#7⟩ (operandsR3 f) (onField fieldSigned) s

/-- ANDM (42 R487). -/
def execAndm (f : Fmt.R3) (s : State) : Outcome :=
  computeFree ⟨6, f.word 0xAA#8 0x08#7⟩ (operandsR3 f) (onField (fun a mb me => a &&& fieldMask mb me)) s

/-- BFSET (42 R488). -/
def execBfset (f : Fmt.R3) (s : State) : Outcome :=
  computeFree ⟨6, f.word 0xAA#8 0x09#7⟩ (operandsR3 f) (onField (fun a mb me => a ||| fieldMask mb me)) s

/-- BFCHG (42 R489). -/
def execBfchg (f : Fmt.R3) (s : State) : Outcome :=
  computeFree ⟨6, f.word 0xAA#8 0x0A#7⟩ (operandsR3 f) (onField (fun a mb me => a ^^^ fieldMask mb me)) s

/-- COM (42 R491, the alias of BFCHG). -/
def execCom (f : Fmt.R3) (s : State) : Outcome :=
  computeFree ⟨6, f.word 0xAA#8 0x0A#7⟩ (operandsR3 f) (onField (fun a mb me => a ^^^ fieldMask mb me)) s

/-- BFCLR (42 R490). -/
def execBfclr (f : Fmt.R3) (s : State) : Outcome :=
  computeFree ⟨6, f.word 0xAA#8 0x0B#7⟩ (operandsR3 f) (onField (fun a mb me => a &&& ~~~fieldMask mb me)) s

/-- BCDADD (42 R496). -/
def execBcdadd (f : Fmt.R3) (s : State) : Outcome :=
  computeFree ⟨6, f.word 0xF5#8 0x00#7⟩ (operandsR3 f) (fun free a b _ => onBcd (fun x y => bcdDigits 2 ((x + y) % 100)) free a b) s

/-- BCDSUB (42 R497). -/
def execBcdsub (f : Fmt.R3) (s : State) : Outcome :=
  computeFree ⟨6, f.word 0xF5#8 0x01#7⟩ (operandsR3 f) (fun free a b _ => onBcd (fun x y => bcdDigits 2 ((x + 100 - y) % 100)) free a b) s

/-- BCDMUL (42 R498). -/
def execBcdmul (f : Fmt.R3) (s : State) : Outcome :=
  computeFree ⟨6, f.word 0xF5#8 0x02#7⟩ (operandsR3 f) (fun free a b _ => onBcd (fun x y => bcdDigits 4 (x * y)) free a b) s

end Sys2Proof.Machine
end

