-- ==== Sys2Proof/Machine/Branch.lean ====
section
/-! DEFINITION. Branches, jumps, returns, the call gate and NOP (46_branch). -/

namespace Sys2Proof.Machine

/-! ### Targets, links and the branch itself -/

/-- Whether a Ca value leaves the selector unchanged: C0 and the instruction pointer (R745). -/
def nearBase (ca : BitVec 3) : Bool := ca == 0#3 || ca == 7#3

/-- The target of a branch: base plus displacement, and the selector that goes with it (R744, R745). c[7].off is ip. -/
def branchTarget (s : State) (ca : BitVec 3) (disp : Word) : CodeAddr :=
  ⟨(s.codeAddr ca).off + disp, if nearBase ca then s.cs else (s.codeAddr ca).sel⟩

/-- The link register receives the next address and the current selector (R746). -/
def State.link (s : State) (lk : BitVec 2) (ret : Word) : State :=
  if lk = 1#2 then s.setCodeAddr 1 ⟨ret, s.cs⟩
  else if lk = 2#2 then s.setCodeAddr 2 ⟨ret, s.cs⟩
  else s

/-- LC of a decrementing branch goes down by one, taken or not (R780). -/
def State.countLoop (s : State) (dec : Bool) : State := if dec then s.setLc (s.lc - 1) else s

/-- Whether a branch is taken (R747, R780). -/
def branchTaken (s : State) (dec cond : Bool) : Bool := cond && (!dec || s.lc != 0)

/-- A branch (R744 to R748, R780): everything is read before the link register and LC are written; a taken branch to
its own address raises BT with neither written. -/
def branch (c : Ctx) (lk : BitVec 2) (ca : BitVec 3) (disp : Word) (dec cond : Bool) (s : State) : Outcome :=
  if lk = 3#2 then .refused .reservedLink
  else
    let t := branchTarget s ca disp
    let s1 := (s.countLoop dec).link lk (nextIp s.ip c.size)
    if branchTaken s dec cond then
      if t = s.codeAddr 7 then s.raise c (.plain causeBT)
      else if nearBase ca then .next (s1.setIp t.off)
      else finish c (s1.jumpFar t)
    else next c s1

/-- Const20 of the BR format, a count of bytes, sign-extended (R741, R744, D57). 90_conflicts C24 calls it 21 bits, of
which the drawn fields have 20 (DEDUCED, log 59). -/
def displacementBR (f : Fmt.BR) : Word := sext (f.target ++ f.tgt)

/-- Const12 of the BZ format, sign-extended (R743). -/
def displacementBZ (f : Fmt.BZ) : Word := sext (f.tgtHi ++ f.tgtLo)

/-- Const34 of the JMP format, sign-extended (R742). -/
def displacementJMP (f : Fmt.JMP) : Word := sext (f.targetHi ++ f.targetLo)

/-- A conditional branch on A and B (R741). -/
def branchBR (c : Ctx) (f : Fmt.BR) (dec : Bool) (test : Word → Word → Bool) (s : State) : Outcome :=
  match (opnd f.tb f.rb).scalar s with
  | some b => branch c f.lk f.ca (displacementBR f) dec (test (s.reg f.ra) b) s
  | none => .refused .vectorOperandInScalar

/-- A compare with zero (R743). -/
def branchBZ (c : Ctx) (f : Fmt.BZ) (test : Word → Bool) (s : State) : Outcome :=
  branch c f.lk f.ca (displacementBZ f) false (test (s.reg f.ra)) s

/-- An unconditional transfer (R742, R781). -/
def branchJMP (c : Ctx) (f : Fmt.JMP) (dec : Bool) (s : State) : Outcome :=
  branch c f.lk f.ca (displacementJMP f) dec true s

/-! ### The conditions (R749) -/

def testBitClear (a b : Word) : Bool := !a.getLsbD (b.extractLsb' 0 6).toNat
def testBitSet (a b : Word) : Bool := a.getLsbD (b.extractLsb' 0 6).toNat
def testEqual (a b : Word) : Bool := a == b
def testNotEqual (a b : Word) : Bool := a != b
def testLess (a b : Word) : Bool := decide (a.toInt < b.toInt)
def testGreaterEqual (a b : Word) : Bool := decide (a.toInt ≥ b.toInt)
def testLessEqual (a b : Word) : Bool := decide (a.toInt ≤ b.toInt)
def testGreater (a b : Word) : Bool := decide (a.toInt > b.toInt)
def testBelow (a b : Word) : Bool := decide (a.toNat < b.toNat)
def testAboveEqual (a b : Word) : Bool := decide (a.toNat ≥ b.toNat)
def testBelowEqual (a b : Word) : Bool := decide (a.toNat ≤ b.toNat)
def testAbove (a b : Word) : Bool := decide (a.toNat > b.toNat)

/-! ### Call gate and return -/

/-- A descriptor that a call gate may be: bit 18 set and type 4 (20_memory R173, R177, log 18). -/
def isCallGate (d : Descriptor) : Bool := Descriptor.isSystem d && Descriptor.type d == 4#4

/-- Offset and Selector of a call gate (20_memory R177). -/
def gateTarget (d : Descriptor) : CodeAddr := ⟨d.o0, d.o2.extractLsb' 0 32⟩

/-- JGATE to a target already read (R800, R746; a gate to JGATE itself raises BT, log 19). -/
def gateJump (c : Ctx) (lk : BitVec 2) (t : CodeAddr) (s : State) : Outcome :=
  if t = s.codeAddr 7 then s.raise c (.plain causeBT)
  else finish c ((s.link lk (nextIp s.ip c.size)).jumpFar t)

/-- The target of RTS through a link register (R805). -/
def returnTarget (f : Fmt.RTS) (s : State) : CodeAddr :=
  let l := s.codeAddr (f.lk.setWidth 3)
  ⟨l.off + zext f.const6, l.sel⟩

/-- The stack pointer after RTS removes its arguments (R805). -/
def returnStack (f : Fmt.RTS) (s : State) : Word := s.reg 27#6 + zext f.const15 <<< 3

/-! ### The meanings -/

/-- BBC (46 R750). -/
def execBbc (f : Fmt.BR) (s : State) : Outcome :=
  branchBR ⟨6, f.word 0x24#8⟩ f false testBitClear s

/-- BBS (46 R751). -/
def execBbs (f : Fmt.BR) (s : State) : Outcome :=
  branchBR ⟨6, f.word 0x25#8⟩ f false testBitSet s

/-- BEQ (46 R752). -/
def execBeq (f : Fmt.BR) (s : State) : Outcome :=
  branchBR ⟨6, f.word 0x26#8⟩ f false testEqual s

/-- BNE (46 R753). -/
def execBne (f : Fmt.BR) (s : State) : Outcome :=
  branchBR ⟨6, f.word 0x27#8⟩ f false testNotEqual s

/-- BLT (46 R754). -/
def execBlt (f : Fmt.BR) (s : State) : Outcome :=
  branchBR ⟨6, f.word 0x28#8⟩ f false testLess s

/-- BGE (46 R755). -/
def execBge (f : Fmt.BR) (s : State) : Outcome :=
  branchBR ⟨6, f.word 0x29#8⟩ f false testGreaterEqual s

/-- BLE (46 R756). -/
def execBle (f : Fmt.BR) (s : State) : Outcome :=
  branchBR ⟨6, f.word 0x2A#8⟩ f false testLessEqual s

/-- BGT (46 R757). -/
def execBgt (f : Fmt.BR) (s : State) : Outcome :=
  branchBR ⟨6, f.word 0x2B#8⟩ f false testGreater s

/-- BLTU (46 R758). -/
def execBltu (f : Fmt.BR) (s : State) : Outcome :=
  branchBR ⟨6, f.word 0x2C#8⟩ f false testBelow s

/-- BGEU (46 R759). -/
def execBgeu (f : Fmt.BR) (s : State) : Outcome :=
  branchBR ⟨6, f.word 0x2D#8⟩ f false testAboveEqual s

/-- BLEU (46 R760). -/
def execBleu (f : Fmt.BR) (s : State) : Outcome :=
  branchBR ⟨6, f.word 0x2E#8⟩ f false testBelowEqual s

/-- BGTU (46 R761). -/
def execBgtu (f : Fmt.BR) (s : State) : Outcome :=
  branchBR ⟨6, f.word 0x2F#8⟩ f false testAbove s

/-- DBBC (46 R782). -/
def execDbbc (f : Fmt.BR) (s : State) : Outcome :=
  branchBR ⟨6, f.word 0x34#8⟩ f true testBitClear s

/-- DBBS (46 R783). -/
def execDbbs (f : Fmt.BR) (s : State) : Outcome :=
  branchBR ⟨6, f.word 0x35#8⟩ f true testBitSet s

/-- DBEQ (46 R784). -/
def execDbeq (f : Fmt.BR) (s : State) : Outcome :=
  branchBR ⟨6, f.word 0x36#8⟩ f true testEqual s

/-- DBNE (46 R785). -/
def execDbne (f : Fmt.BR) (s : State) : Outcome :=
  branchBR ⟨6, f.word 0x37#8⟩ f true testNotEqual s

/-- DBLT (46 R786). -/
def execDblt (f : Fmt.BR) (s : State) : Outcome :=
  branchBR ⟨6, f.word 0x38#8⟩ f true testLess s

/-- DBGE (46 R787). -/
def execDbge (f : Fmt.BR) (s : State) : Outcome :=
  branchBR ⟨6, f.word 0x39#8⟩ f true testGreaterEqual s

/-- DBLE (46 R788). -/
def execDble (f : Fmt.BR) (s : State) : Outcome :=
  branchBR ⟨6, f.word 0x3A#8⟩ f true testLessEqual s

/-- DBGT (46 R789). -/
def execDbgt (f : Fmt.BR) (s : State) : Outcome :=
  branchBR ⟨6, f.word 0x3B#8⟩ f true testGreater s

/-- DBLTU (46 R790). -/
def execDbltu (f : Fmt.BR) (s : State) : Outcome :=
  branchBR ⟨6, f.word 0x3C#8⟩ f true testBelow s

/-- DBGEU (46 R791). -/
def execDbgeu (f : Fmt.BR) (s : State) : Outcome :=
  branchBR ⟨6, f.word 0x3D#8⟩ f true testAboveEqual s

/-- DBLEU (46 R792). -/
def execDbleu (f : Fmt.BR) (s : State) : Outcome :=
  branchBR ⟨6, f.word 0x3E#8⟩ f true testBelowEqual s

/-- DBGTU (46 R793). -/
def execDbgtu (f : Fmt.BR) (s : State) : Outcome :=
  branchBR ⟨6, f.word 0x3F#8⟩ f true testAbove s

/-- BEQZ (46 R765). -/
def execBeqz (f : Fmt.BZ) (s : State) : Outcome :=
  branchBZ ⟨4, f.word 0x10#8⟩ f (fun a => a == 0) s

/-- BNEZ (46 R766). -/
def execBnez (f : Fmt.BZ) (s : State) : Outcome :=
  branchBZ ⟨4, f.word 0x12#8⟩ f (fun a => a != 0) s

/-- BRA (46 R770, the alias of JMP). -/
def execBra (f : Fmt.JMP) (s : State) : Outcome :=
  branchJMP ⟨6, f.word 0x20#8⟩ f false s

/-- BSR (46 R771, the alias of JMP). -/
def execBsr (f : Fmt.JMP) (s : State) : Outcome :=
  branchJMP ⟨6, f.word 0x20#8⟩ f false s

/-- JMP (46 R772). -/
def execJmp (f : Fmt.JMP) (s : State) : Outcome :=
  branchJMP ⟨6, f.word 0x20#8⟩ f false s

/-- JSR (46 R773, the alias of JMP). -/
def execJsr (f : Fmt.JMP) (s : State) : Outcome :=
  branchJMP ⟨6, f.word 0x20#8⟩ f false s

/-- DBRA (46 R781), linkage as R780 has it; its page draws Lk as 0 and `WellFormed.check` refuses another (30 R254,
log 43). -/
def execDbra (f : Fmt.JMP) (s : State) : Outcome :=
  branchJMP ⟨6, f.word 0x30#8⟩ f true s

/-- JGATE (46 R800); whether the gate lies inside its table is not checked (log 18). -/
def execJgate (f : Fmt.JGATE) (s : State) : Outcome :=
  if f.lk = 3#2 then .refused .reservedLink
  else
    match s.readDescriptor f.selector with
    | .ok d s1 =>
      if isCallGate d.1 then gateJump ⟨6, f.word 0x14#8⟩ f.lk (gateTarget d.1) s1 else .refused .notCallGate
    | r => finish ⟨6, f.word 0x14#8⟩ (r.bind fun _ s1 => .ok () s1)

/-- RTS (46 R805). -/
def execRts (f : Fmt.RTS) (s : State) : Outcome :=
  if f.lk = 0#2 ∨ f.lk = 3#2 then .refused .reservedLink
  else if returnTarget f s = s.codeAddr 7 then s.raise ⟨4, f.word 0xF2#8⟩ (.plain causeBT)
  else finish ⟨4, f.word 0xF2#8⟩ ((s.setReg 27#6 (returnStack f s)).jumpFar (returnTarget f s))

/-- NOP (46 R810). -/
def execNop (f : Fmt.NOP) (s : State) : Outcome :=
  next ⟨2, f.word 0xF1#8⟩ s

end Sys2Proof.Machine
end

