-- ==== Sys2Proof/Machine/Crypto.lean ====
section
/-! DEFINITION. Cryptographic instructions (49 section 1). The algorithms the spec does not give are the
uninterpreted functions of Config (93 U42). -/

namespace Sys2Proof.Machine

/-- ror32 of the low 32 bits (R931). -/
def ror32 (w : BitVec 32) (n : Nat) : BitVec 32 := w.rotateRight n

/-- rol32 of the low 32 bits (R939). -/
def rol32 (w : BitVec 32) (n : Nat) : BitVec 32 := w.rotateLeft n

/-- A function of the low 32 bits whose result is sign-extended (R932 to R935, R939). -/
def low32 (g : BitVec 32 → BitVec 32) (a : Word) : Word := sext (g (a.extractLsb' 0 32))

/-! ### The meanings -/

/-- AES64DS (49 R930). -/
def execAes64ds (f : Fmt.R3) (s : State) : Outcome :=
  compute ⟨6, f.word 0x02#8 0x50#7⟩ (operandsR3 f) (fun a b _ => Config.aes64ds a b) s

/-- AES64DSM (49 R930). -/
def execAes64dsm (f : Fmt.R3) (s : State) : Outcome :=
  compute ⟨6, f.word 0x02#8 0x51#7⟩ (operandsR3 f) (fun a b _ => Config.aes64dsm a b) s

/-- AES64ES (49 R930). -/
def execAes64es (f : Fmt.R3) (s : State) : Outcome :=
  compute ⟨6, f.word 0x02#8 0x52#7⟩ (operandsR3 f) (fun a b _ => Config.aes64es a b) s

/-- AES64ESM (49 R930). -/
def execAes64esm (f : Fmt.R3) (s : State) : Outcome :=
  compute ⟨6, f.word 0x02#8 0x53#7⟩ (operandsR3 f) (fun a b _ => Config.aes64esm a b) s

/-- SHA256SIG0 (49 R932). -/
def execSha256sig0 (f : Fmt.R1) (s : State) : Outcome :=
  compute ⟨4, f.word 0x01#8 0x30#7⟩ (operandsR1 f) (fun a _ _ => low32 (fun w => ror32 w 7 ^^^ ror32 w 18 ^^^ w >>> 3) a) s

/-- SHA256SIG1 (49 R933). -/
def execSha256sig1 (f : Fmt.R1) (s : State) : Outcome :=
  compute ⟨4, f.word 0x01#8 0x31#7⟩ (operandsR1 f) (fun a _ _ => low32 (fun w => ror32 w 17 ^^^ ror32 w 19 ^^^ w >>> 10) a) s

/-- SHA256SUM0 (49 R934). -/
def execSha256sum0 (f : Fmt.R1) (s : State) : Outcome :=
  compute ⟨4, f.word 0x01#8 0x32#7⟩ (operandsR1 f) (fun a _ _ => low32 (fun w => ror32 w 2 ^^^ ror32 w 13 ^^^ ror32 w 22) a) s

/-- SHA256SUM1 (49 R935). -/
def execSha256sum1 (f : Fmt.R1) (s : State) : Outcome :=
  compute ⟨4, f.word 0x01#8 0x33#7⟩ (operandsR1 f) (fun a _ _ => low32 (fun w => ror32 w 6 ^^^ ror32 w 11 ^^^ ror32 w 25) a) s

/-- SHA512SIG0 (49 R936). -/
def execSha512sig0 (f : Fmt.R1) (s : State) : Outcome :=
  compute ⟨4, f.word 0x01#8 0x34#7⟩ (operandsR1 f) (fun a _ _ => a.rotateRight 1 ^^^ a.rotateRight 8 ^^^ a >>> 7) s

/-- SHA512SIG1 (49 R937). -/
def execSha512sig1 (f : Fmt.R1) (s : State) : Outcome :=
  compute ⟨4, f.word 0x01#8 0x35#7⟩ (operandsR1 f) (fun a _ _ => a.rotateRight 19 ^^^ a.rotateRight 61 ^^^ a >>> 6) s

/-- SHA512SUM0 (49 R938). -/
def execSha512sum0 (f : Fmt.R1) (s : State) : Outcome :=
  compute ⟨4, f.word 0x01#8 0x36#7⟩ (operandsR1 f) (fun a _ _ => a.rotateRight 28 ^^^ a.rotateRight 34 ^^^ a.rotateRight 39) s

/-- SHA512SUM1 (49 R938). -/
def execSha512sum1 (f : Fmt.R1) (s : State) : Outcome :=
  compute ⟨4, f.word 0x01#8 0x37#7⟩ (operandsR1 f) (fun a _ _ => a.rotateRight 14 ^^^ a.rotateRight 18 ^^^ a.rotateRight 41) s

/-- SM3P0 (49 R939). -/
def execSm3p0 (f : Fmt.R1) (s : State) : Outcome :=
  compute ⟨4, f.word 0x01#8 0x38#7⟩ (operandsR1 f) (fun a _ _ => low32 (fun w => w ^^^ rol32 w 9 ^^^ rol32 w 17) a) s

/-- SM3P1 (49 R939). -/
def execSm3p1 (f : Fmt.R1) (s : State) : Outcome :=
  compute ⟨4, f.word 0x01#8 0x39#7⟩ (operandsR1 f) (fun a _ _ => low32 (fun w => w ^^^ rol32 w 15 ^^^ rol32 w 23) a) s

/-- SM4ED (49 R940). -/
def execSm4ed (f : Fmt.R3P) (s : State) : Outcome :=
  compute ⟨6, f.word 0x5E#8⟩ (operandsR3P f) (fun a b c => Config.sm4ed a b c) s

/-- SM4KS (49 R940). -/
def execSm4ks (f : Fmt.R3P) (s : State) : Outcome :=
  compute ⟨6, f.word 0x5F#8⟩ (operandsR3P f) (fun a b c => Config.sm4ks a b c) s

end Sys2Proof.Machine
end

