-- ==== Sys2Proof/Machine/Flags.lean ====
section
/-! DEFINITION. The status flags of the machine, which are those of U_FSTAT (10_state R60, R70): the update that every
binary and decimal floating-point operation makes (43 R523, R524), and the control operations on the same register
(43 R565 to R571). -/

namespace Sys2Proof.Machine

/-- The five conditions as bits 4:0: inexact, divide by zero, underflow, overflow, invalid; the order of U_FSTAT
52:48, 43:39 and 19:15 (10_state R70). -/
structure Conds where
  invalid : Bool
  ovf : Bool
  under : Bool
  dbz : Bool
  inexact : Bool
  deriving DecidableEq, Repr

/-- The conditions as they lie in U_FSTAT. -/
def Conds.bits (c : Conds) : BitVec 5 :=
  BitVec.ofBool c.inexact ++ BitVec.ofBool c.dbz ++ BitVec.ofBool c.under ++ BitVec.ofBool c.ovf ++
    BitVec.ofBool c.invalid

/-- No condition. -/
def Conds.none : Conds := ⟨false, false, false, false, false⟩

/-- Invalid operation alone. -/
def Conds.invalidOnly : Conds := ⟨true, false, false, false, false⟩

/-! The sub-causes of an invalid operation, U_FSTAT bits 7:0 (10_state R70). -/

def subCvt : BitVec 8 := 0x80
def subSqrtn : BitVec 8 := 0x40
def subNaNComp : BitVec 8 := 0x20
def subInfzero : BitVec 8 := 0x10
def subZerozero : BitVec 8 := 0x08
def subInfdiv : BitVec 8 := 0x04
def subSubinf : BitVec 8 := 0x02
def subSnan : BitVec 8 := 0x01

/-- The class of a result, for U_FSTAT bits 31:26 (43 R524 step 4). -/
structure ResultClass where
  rawayz : Bool
  special : Bool
  neg : Bool
  pos : Bool
  zero : Bool
  inf : Bool
  deriving DecidableEq, Repr

/-- Bits 31:26: RA, C, neg, pos, zero, inf. -/
def ResultClass.bits (r : ResultClass) : BitVec 6 :=
  BitVec.ofBool r.rawayz ++ BitVec.ofBool r.special ++ BitVec.ofBool r.neg ++ BitVec.ofBool r.pos ++
    BitVec.ofBool r.zero ++ BitVec.ofBool r.inf

/-- The class of an integer result, read as signed (log 31). -/
def integerClass (rawayz : Bool) (w : Word) : ResultClass :=
  ⟨rawayz, false, w.msb, !w.msb && w != 0, w == 0, false⟩

/-- What a floating-point operation computes. -/
structure FpResult where
  value : Word
  conds : Conds
  sub : BitVec 8
  cls : ResultClass
  deriving DecidableEq, Repr

/-- The enables, U_FSTAT 43:39. -/
def fpEnables (fstat : Word) : BitVec 5 := fstat.extractLsb' 39 5

/-- The rounding mode, U_FSTAT 46:44 (43 R522). -/
def fpRm (fstat : Word) : BitVec 3 := fstat.extractLsb' 44 3

/-- Whether a condition set meets the enabled set. -/
def fpRaises (fstat : Word) (f : BitVec 5) : Bool := (f &&& fpEnables fstat) != 0#5

/-- U_FSTAT after an operation with result class and conditions (43 R524 steps 1 to 5). -/
def fstatAfter (w : Word) (r : FpResult) : Word :=
  let f := r.conds.bits
  w.extractLsb' 53 11 ++ f ++ w.extractLsb' 33 15
    ++ BitVec.ofBool r.conds.inexact ++ r.cls.bits
    ++ w.extractLsb' 20 6
    ++ (w.extractLsb' 15 5 ||| f)
    ++ (w.extractLsb' 14 1 ||| BitVec.ofBool (fpRaises w f))
    ++ (w.extractLsb' 13 1 ||| BitVec.ofBool (f != 0#5))
    ++ w.extractLsb' 8 5
    ++ (w.extractLsb' 0 8 ||| r.sub)

/-- Writes U_FSTAT. -/
def State.setFstat (s : State) (w : Word) : State := { s with csr := { s.csr with fstat := w } }

/-- The status update and the value, or FLT; the update stays when the instruction raises (43 R524, log 21). -/
def State.fpCommit (s : State) (r : FpResult) : Res Word :=
  let s1 := s.setFstat (fstatAfter s.csr.fstat r)
  if fpRaises s.csr.fstat r.conds.bits then .trap (.plain causeFLT) s1 else .ok r.value s1

/-! ### Control operations (43 R565 to R571, 44 R630) -/

/-- The mask operand M = r[Ra] | uimm6, of which bits 5:0 are used (43 R565). -/
def fpMask (s : State) (f : Fmt.F1) : BitVec 6 := (s.reg f.ra).extractLsb' 0 6 ||| f.u

/-- FTX: the sticky bits and sumx are set; gx where one is enabled (43 R566). -/
def fstatTrigger (w : Word) (m : BitVec 5) : Word :=
  w.extractLsb' 20 44 ++ (w.extractLsb' 15 5 ||| m)
    ++ (w.extractLsb' 14 1 ||| BitVec.ofBool (fpRaises w m))
    ++ (w.extractLsb' 13 1 ||| BitVec.ofBool (m != 0#5))
    ++ w.extractLsb' 0 13

/-- FCX (43 R567): M[4:0] clear the sticky and last-operation bits, M[0] also the sub-causes, M[5] sumx and gx. -/
def fstatClear (w : Word) (m : BitVec 6) : Word :=
  let m5 := m.extractLsb' 0 5
  let m0 := m.getLsbD 0
  let ms := m.getLsbD 5
  w.extractLsb' 53 11 ++ (w.extractLsb' 48 5 &&& ~~~m5) ++ w.extractLsb' 20 28
    ++ (w.extractLsb' 15 5 &&& ~~~m5)
    ++ (if ms then 0#2 else w.extractLsb' 13 2)
    ++ w.extractLsb' 8 5
    ++ (if m0 then 0#8 else w.extractLsb' 0 8)

/-- FEX (43 R568). -/
def fstatEnable (w : Word) (m : BitVec 5) : Word :=
  w.extractLsb' 44 20 ++ (w.extractLsb' 39 5 ||| m) ++ w.extractLsb' 0 39

/-- FDX (43 R569). -/
def fstatDisable (w : Word) (m : BitVec 5) : Word :=
  w.extractLsb' 44 20 ++ (w.extractLsb' 39 5 &&& ~~~m) ++ w.extractLsb' 0 39

/-- FRM (43 R570). -/
def fstatSetRm (w : Word) (m : BitVec 3) : Word := w.extractLsb' 47 17 ++ m ++ w.extractLsb' 0 44

/-- U_FSTAT as it is read: the reserved fields 63:53 and 37:33 read 0 (10_state R70). -/
def fstatRead (w : Word) : Word := 0#11 ++ w.extractLsb' 38 15 ++ 0#5 ++ w.extractLsb' 0 33

/-- FTX and DFTX. -/
def State.fpTrigger (s : State) (f : Fmt.F1) : Res Unit :=
  let m := (fpMask s f).extractLsb' 0 5
  let s1 := s.setFstat (fstatTrigger s.csr.fstat m)
  if fpRaises s.csr.fstat m then .trap (.plain causeFLT) s1 else .ok () s1

end Sys2Proof.Machine
end

