-- ==== Sys2Proof/Machine/Csr.lean ====
section
/-! DEFINITION. The CSR file and the CSR instructions (10_state section 6, 47 R822). -/

namespace Sys2Proof.Machine

/-! ### The CSR file (10_state R61 to R65) -/

/-- The registers that CSR numbers name. -/
inductive CsrName
  | ie (k : BitVec 2)
  | cause (k : BitVec 2)
  | badaddr (k : BitVec 2)
  | scratch (k : BitVec 2)
  | time
  | fstat
  | mask (n : BitVec 3)
  | asid
  | keys (n : BitVec 3)
  | cr0
  | hartid
  | tick
  | seed
  | badInstr
  | dbad (n : BitVec 2)
  | dbcr
  | dbsr
  | tvecLow (n : BitVec 2)
  | tvecHigh (n : BitVec 2)
  | pmStack
  | gdtb
  | gdtl
  | tcb
  | codeLow (n : BitVec 3)
  | codeHigh (n : BitVec 3)
  /-- ZS to CS, S_PTA, M_LDT and M_KYT by their selector numbers. -/
  | selector (n : Nat)
  | vstep
  | vtmp
  deriving DecidableEq, Repr

/-- The registers present at every operating level, by bits 11:0 of their number (R65 to R69, R97). -/
def csrPerMode (k : BitVec 2) (low : BitVec 12) : Option CsrName :=
  if low = 0x004#12 then some (.ie k)
  else if low = 0x006#12 then some (.cause k)
  else if low = 0x007#12 then some (.badaddr k)
  else if low = 0x041#12 then some (.scratch k)
  else if low = 0xFE0#12 then some .time
  else none

/-- The user registers (R55, R70). -/
def csrUser (low : BitVec 12) : Option CsrName :=
  if low = 0x014#12 then some .fstat
  else if low.extractLsb' 3 9 = 0x026#9 then some (.mask (low.extractLsb' 0 3))
  else none

/-- The supervisor registers (R80 to R83). -/
def csrSupervisor (low : BitVec 12) : Option CsrName :=
  if low = 0x003#12 then some (.selector 16)
  else if low = 0x01F#12 then some .asid
  else if low.extractLsb' 3 9 = 0x004#9 then some (.keys (low.extractLsb' 0 3))
  else none

/-- The machine registers (R38, R90 to R111). -/
def csrMachine (low : BitVec 12) : Option CsrName :=
  if low = 0x000#12 then some .cr0
  else if low = 0x001#12 then some .hartid
  else if low = 0x002#12 then some .tick
  else if low = 0x003#12 then some .seed
  else if low = 0x00B#12 then some .badInstr
  else if low.extractLsb' 2 10 = 0x006#10 then some (.dbad (low.extractLsb' 0 2))
  else if low = 0x01C#12 then some .dbcr
  else if low = 0x01D#12 then some .dbsr
  else if low.extractLsb' 3 9 = 0x006#9 then
    some (if low.getLsbD 0 then .tvecHigh (low.extractLsb' 1 2) else .tvecLow (low.extractLsb' 1 2))
  else if low = 0x040#12 then some .pmStack
  else if low = 0x050#12 then some .gdtb
  else if low = 0x051#12 then some .gdtl
  else if low = 0x052#12 then some (.selector 17)
  else if low = 0x053#12 then some (.selector 18)
  else if low = 0x054#12 then some .tcb
  else if low.extractLsb' 4 8 = 0x10#8 then
    some (if low.getLsbD 0 then .codeHigh (low.extractLsb' 1 3) else .codeLow (low.extractLsb' 1 3))
  else if low.extractLsb' 3 9 = 0x024#9 then some (.selector (low.extractLsb' 0 3).toNat)
  else none

/-- The debug registers (R112, R113). -/
def csrDebug (low : BitVec 12) : Option CsrName :=
  if low = 0x046#12 then some .vstep else if low = 0x047#12 then some .vtmp else none

/-- The register a CSR number names; `none` where no rule defines one (R63). -/
def csrName (r : BitVec 16) : Option CsrName :=
  let low := r.extractLsb' 0 12
  match (r.extractLsb' 12 4).toNat with
  | 0 => (csrPerMode 0 low).orElse fun _ => csrUser low
  | 1 => (csrPerMode 1 low).orElse fun _ => csrSupervisor low
  | 2 => csrPerMode 2 low
  | 3 => (csrPerMode 3 low).orElse fun _ => csrMachine low
  | 4 => csrDebug low
  | _ => none

/-- The access check: PRIV below the mode of the number, and below machine mode for the debug registers (R62). -/
def csrPrivileged (om : BitVec 2) (r : BitVec 16) : Bool :=
  let k := (r.extractLsb' 12 4).toNat
  if k ≤ 3 then decide (om.toNat < k) else k == 4 && om != 3#2

/-- The IE bits seen and written through the address of mode k (R66). -/
def ieView (k : BitVec 2) : BitVec 4 := (2#4 <<< k.toNat) - 1

/-- The value of a CSR, after the accesses that reading it makes. FSTAT is described with 43 R524. -/
def State.csrRead (s : State) : CsrName → Word × State
  | .ie k => (zext (s.csr.ie &&& ieView k), s)
  | .cause k => (zext (s.csr.cause.get k.toFin), s)
  | .badaddr k => (s.csr.badaddr.get k.toFin, s)
  | .scratch k => (s.csr.scratch.get k.toFin, s)
  | .time => (s.csr.time, s)
  | .fstat => (fstatRead s.csr.fstat, s)
  | .mask n => (s.mask n, s)
  | .asid => (zext s.csr.asid, s)
  | .keys n => (zext (s.csr.keys.get n.toFin), s)
  | .cr0 => (s.csr.cr0, s)
  | .hartid => (s.config.hartid, s)
  | .tick => (s.csr.tick, s)
  | .seed => (s.inputs.seed, s)
  | .badInstr => (s.csr.badInstr, s)
  | .dbad n => (s.csr.dbad.get n.toFin, s)
  | .dbcr => (s.csr.dbcr, s)
  | .dbsr => (zext s.csr.dbsr, s)
  | .tvecLow n => s.useTvecLow n
  | .tvecHigh n => s.useTvecHigh n
  | .pmStack => (s.mode.pmStack, s)
  | .gdtb => (s.csr.gdtb, s)
  | .gdtl => (s.csr.gdtl, s)
  | .tcb => (zext s.csr.tcb, s)
  | .codeLow n => ((s.codeAddr n).off, s)
  | .codeHigh n => (zext (s.codeAddr n).sel, s)
  | .selector n => (zext (s.selector n).sel, s)
  | .vstep => (zext s.csr.vstep, s)
  | .vtmp => (s.csr.vtmp, s)

/-- A write of a CSR by a CSR instruction: only the implemented bits, and nothing for a read-only register (R65). -/
def State.csrWrite (s : State) (n : CsrName) (w : Word) : Res Unit :=
  match n with
  | .ie k => .ok () { s with csr := { s.csr with
      ie := (s.csr.ie &&& ~~~(ieView k)) ||| (w.extractLsb' 0 4 &&& ieView k) } }
  | .cause k => .ok () { s with csr := { s.csr with cause := s.csr.cause.set k.toNat (w.extractLsb' 0 16) k.isLt } }
  | .badaddr k => .ok () { s with csr := { s.csr with badaddr := s.csr.badaddr.set k.toNat w k.isLt } }
  | .scratch k => .ok () { s with csr := { s.csr with scratch := s.csr.scratch.set k.toNat w k.isLt } }
  | .time => .ok () (if s.om = 3#2 then { s with csr := { s.csr with time := w } } else s)
  | .fstat => .ok () s
  | .mask k => .ok () (s.setMask k w)
  | .asid => .ok () { s with csr := { s.csr with asid := w.extractLsb' 0 8 } }
  | .keys k => .ok () { s with csr := { s.csr with keys := s.csr.keys.set k.toNat (w.extractLsb' 0 20) k.isLt } }
  | .cr0 => .ok () { s with csr := { s.csr with cr0 := w } }
  | .hartid => .ok () s
  | .tick => .ok () s
  | .seed => .ok () s
  | .badInstr => .ok () { s with csr := { s.csr with badInstr := w } }
  | .dbad k => .ok () { s with csr := { s.csr with dbad := s.csr.dbad.set k.toNat w k.isLt } }
  | .dbcr => .ok () { s with csr := { s.csr with dbcr := w } }
  | .dbsr => .ok () { s with csr := { s.csr with dbsr := w.extractLsb' 0 4 } }
  | .tvecLow k => .ok () (s.setTvecLow k w)
  | .tvecHigh k => .ok () (s.setTvecHigh k (w.extractLsb' 0 32))
  | .pmStack => .ok () { s with mode := { s.mode with pmStack := w } }
  | .gdtb => .ok () { s with csr := { s.csr with gdtb := w } }
  | .gdtl => .ok () { s with csr := { s.csr with gdtl := w } }
  | .tcb => .ok () { s with csr := { s.csr with tcb := w.extractLsb' 0 32 } }
  | .codeLow k => .ok () (if k = 7#3 then s else s.setCodeAddr k ⟨w, (s.codeAddr k).sel⟩)
  | .codeHigh k => .ok () (if k = 7#3 then s else s.setCodeAddr k ⟨(s.codeAddr k).off, w.extractLsb' 0 32⟩)
  | .selector k => s.writeSelector k (w.extractLsb' 0 32)
  | .vstep => .ok () { s with csr := { s.csr with vstep := w.extractLsb' 0 8 } }
  | .vtmp => .ok () { s with csr := { s.csr with vtmp := w } }

/-- The registers with set and clear capability (R64). -/
def CsrName.settable : CsrName → Bool
  | .ie _ => true
  | .cr0 => true
  | _ => false

/-! ### The CSR instructions (47 R822) -/

/-- What a CSR instruction writes: the register, the old value and A give the new value, or no write. -/
abbrev CsrUpdate := CsrName → Word → Word → Option Word

/-- CSRRD: no write. -/
def csrReadOnly : CsrUpdate := fun _ _ _ => none
/-- CSRRW: A. -/
def csrReplace : CsrUpdate := fun _ _ a => some a
/-- CSRRS: old or A, on the registers that support it. -/
def csrSetBits : CsrUpdate := fun n old a => if n.settable then some (old ||| a) else none
/-- CSRRC: old and not A, on the registers that support it. -/
def csrClearBits : CsrUpdate := fun n old a => if n.settable then some (old &&& ~~~a) else none

/-- A CSR instruction after its access check: the old value goes to Rt, then the register is written. A number no
rule defines reads 0 and ignores the write (10_state R63). -/
def csrAccess (rt : RegNum) (n : Option CsrName) (a : Word) (g : CsrUpdate) (s : State) : Res Unit :=
  match n with
  | none => .ok () (s.setReg rt 0)
  | some n =>
    let u := s.csrRead n
    let s1 := u.2.setReg rt u.1
    match g n u.1 a with
    | none => .ok () s1
    | some w => s1.csrWrite n w

/-- A CSR instruction. -/
def csrInstruction (c : Ctx) (f : Fmt.CSR) (g : CsrUpdate) (s : State) : Outcome :=
  finishSeq c (if csrPrivileged s.om f.regno then .trap (.plain causePRIV) s
    else csrAccess f.rt (csrName f.regno) (s.reg f.ra) g s)

/-! ### The meanings -/

/-- CSRRD (47 R822). -/
def execCsrrd (f : Fmt.CSR) (s : State) : Outcome :=
  csrInstruction ⟨6, f.word 0x0F#8 0x00#3⟩ f csrReadOnly s

/-- CSRRW (47 R822). -/
def execCsrrw (f : Fmt.CSR) (s : State) : Outcome :=
  csrInstruction ⟨6, f.word 0x0F#8 0x01#3⟩ f csrReplace s

/-- CSRRS (47 R822). -/
def execCsrrs (f : Fmt.CSR) (s : State) : Outcome :=
  csrInstruction ⟨6, f.word 0x0F#8 0x02#3⟩ f csrSetBits s

/-- CSRRC (47 R822). -/
def execCsrrc (f : Fmt.CSR) (s : State) : Outcome :=
  csrInstruction ⟨6, f.word 0x0F#8 0x03#3⟩ f csrClearBits s

end Sys2Proof.Machine
end

