-- ==== Sys2Proof/Machine/Fp.lean ====
section
/-! DEFINITION. Binary64 arithmetic (43_float R520, R522, R523, R524): values as exact integers times a power of two,
one rounding, and the result of every operation with its conditions, sub-causes and result class. -/

namespace Sys2Proof.Machine

/-! ### Values -/

/-- A binary64 value: a finite one is (-1)^neg * m * 2^e. -/
inductive FpVal
  | nan (signalling : Bool)
  | inf (neg : Bool)
  | fin (neg : Bool) (m : Nat) (e : Int)
  deriving DecidableEq, Repr

/-- The biased exponent, bits 62:52. -/
def fpExponent (w : Word) : Nat := (w.extractLsb' 52 11).toNat

/-- The fraction, bits 51:0. -/
def fpFraction (w : Word) : BitVec 52 := w.extractLsb' 0 52

/-- The value of a binary64 encoding (R520). -/
def fpUnpack (w : Word) : FpVal :=
  if fpExponent w = 0x7FF then
    (if fpFraction w = 0#52 then .inf w.msb else .nan (!w.getLsbD 51))
  else if fpExponent w = 0 then .fin w.msb (fpFraction w).toNat (-1074)
  else .fin w.msb (2 ^ 52 + (fpFraction w).toNat) (Int.ofNat (fpExponent w) - 1075)

/-- The default quiet NaN (R520, D52). -/
def fpDefaultNaN : Word := 0x7FF8000000000000

/-- A NaN operand, quieted (R520, D52). -/
def fpQuiet (w : Word) : Word := w ||| 0x0008000000000000

/-- Infinity of a sign. -/
def fpInf (neg : Bool) : Word := BitVec.ofBool neg ++ 0x7FF#11 ++ 0#52

/-- Zero of a sign. -/
def fpZero (neg : Bool) : Word := BitVec.ofBool neg ++ 0#63

/-- The largest finite magnitude with a sign. -/
def fpMax (neg : Bool) : Word := BitVec.ofBool neg ++ 0x7FE#11 ++ BitVec.allOnes 52

/-! ### Rounding -/

/-- Whether the magnitude is rounded up, from the bits below the last kept one: `odd` is that bit, `rem` of `2 ^ sh`
the discarded part, `sticky` whether more lies below it (R522). -/
def roundsUp (rm : BitVec 3) (neg odd : Bool) (rem sh : Nat) (sticky : Bool) : Bool :=
  let half := 2 ^ (sh - 1)
  let inexact := rem != 0 || sticky
  if rm = 1#3 then false
  else if rm = 2#3 then inexact && !neg
  else if rm = 3#3 then inexact && neg
  else if rm = 4#3 then decide (half ≤ rem)
  else decide (half < rem) || (rem == half && (sticky || odd))

/-- A magnitude m * 2^-sh (a little more where `sticky`), rounded to an integer: the integer, whether it is inexact,
and whether it was rounded up. -/
def roundShift (rm : BitVec 3) (neg : Bool) (m sh : Nat) (sticky : Bool) : Nat × Bool × Bool :=
  let q := m >>> sh
  let rem := m % 2 ^ sh
  let up := roundsUp rm neg (q % 2 == 1) rem sh sticky
  (if up then q + 1 else q, rem != 0 || sticky, up)

/-- What rounding a non-zero magnitude gives. -/
structure Rounded where
  value : Word
  ovf : Bool
  under : Bool
  inexact : Bool
  away : Bool
  deriving DecidableEq, Repr

/-- The result of an overflow: infinity or the largest finite number (R522). -/
def overflowed (rm : BitVec 3) (neg : Bool) : Rounded :=
  let toMax := rm == 1#3 || (rm == 2#3 && neg) || (rm == 3#3 && !neg)
  ⟨if toMax then fpMax neg else fpInf neg, true, false, true, !toMax⟩

/-- Rounds (-1)^neg * m * 2^e, m > 0, a little more in magnitude where `sticky`, to binary64 (R520, R522). A result
is tiny before rounding when its magnitude is below 2^-1022; whether it is tiny after rounding matters only just below
that bound. Underflow is a tiny and inexact result, whether or not underxe is enabled (log 30). -/
def fpRound (rm : BitVec 3) (neg : Bool) (m0 : Nat) (e0 : Int) (sticky : Bool) : Rounded :=
  let m := m0 <<< 120
  let e := e0 - 120
  let top : Int := e + Int.ofNat m.log2
  let q : Int := if top - 52 < -1074 then -1074 else top - 52
  let r := roundShift rm neg m (q - e).toNat sticky
  let man := if r.1 = 2 ^ 53 then 2 ^ 52 else r.1
  let expo := q + 1075 + (if r.1 = 2 ^ 53 then 1 else 0)
  if man < 2 ^ 52 ∨ q = -1074 ∧ expo = 1 ∧ r.1 = 2 ^ 52 ∧ top < -1022 then
    let tiny := if r.1 < 2 ^ 52 then true
      else
        (roundShift rm neg m (top - 52 - e).toNat sticky).1 < 2 ^ 53 || Config.tininessBeforeRounding
    ⟨BitVec.ofBool neg ++ BitVec.ofNat 63 man, false, tiny && r.2.1, r.2.1, r.2.2⟩
  else if 2047 ≤ expo then overflowed rm neg
  else
    ⟨BitVec.ofBool neg ++ BitVec.ofNat 11 expo.toNat ++ BitVec.ofNat 52 man, false, false, r.2.1, r.2.2⟩

/-! ### Results -/

/-- The class of a binary64 result (43 R524 step 4). -/
def fpClass (away : Bool) (w : Word) : ResultClass :=
  match fpUnpack w with
  | .nan signalling => ⟨away, !signalling, false, false, false, !signalling⟩
  | .inf neg => ⟨away, false, neg, !neg, false, true⟩
  | .fin neg m _ =>
    ⟨away, (m == 0 && neg) || (m != 0 && fpExponent w == 0), m != 0 && neg, m != 0 && !neg, m == 0, false⟩

/-- A result without conditions. -/
def fpExact (w : Word) : FpResult := ⟨w, .none, 0, fpClass false w⟩

/-- An invalid operation with a sub-cause: the default NaN (R520). -/
def fpInvalid (sub : BitVec 8) : FpResult := ⟨fpDefaultNaN, .invalidOnly, sub, fpClass false fpDefaultNaN⟩

/-- A rounded result. -/
def fpRounded (r : Rounded) : FpResult :=
  ⟨r.value, ⟨false, r.ovf, r.under, false, r.inexact⟩, 0, fpClass r.away r.value⟩

/-- Rounds a signed finite value; an exact zero has the given sign. -/
def fpFinite (rm : BitVec 3) (zeroNeg neg : Bool) (m : Nat) (e : Int) (sticky : Bool) : FpResult :=
  if m = 0 then fpExact (fpZero zeroNeg) else fpRounded (fpRound rm neg m e sticky)

/-- Whether a value is a signalling NaN. -/
def FpVal.isSignalling : FpVal → Bool
  | .nan s => s
  | _ => false

/-- Whether a value is a NaN. -/
def FpVal.isNaN : FpVal → Bool
  | .nan _ => true
  | _ => false

/-- The result of an operation with a NaN operand: the first NaN operand, quieted; invalid for a signalling one
(R520). -/
def fpPropagate (ws : List Word) : FpResult :=
  let q := fpQuiet ((ws.find? fun w => (fpUnpack w).isNaN).getD fpDefaultNaN)
  if ws.any fun w => (fpUnpack w).isSignalling then ⟨q, .invalidOnly, subSnan, fpClass false q⟩ else fpExact q

/-- Whether any operand is a NaN. -/
def anyNaN (ws : List Word) : Bool := ws.any fun w => (fpUnpack w).isNaN

/-! ### Arithmetic (R540 to R545) -/

/-- The signed integer (-1)^neg * m. -/
def signedMag (neg : Bool) (m : Nat) : Int := if neg then -Int.ofNat m else Int.ofNat m

/-- The exact sum of two finite values, rounded once. -/
def fpAddFinite (rm : BitVec 3) (n1 : Bool) (m1 : Nat) (e1 : Int) (n2 : Bool) (m2 : Nat) (e2 : Int) : FpResult :=
  let e := if e1 ≤ e2 then e1 else e2
  let sum := signedMag n1 (m1 <<< (e1 - e).toNat) + signedMag n2 (m2 <<< (e2 - e).toNat)
  let zeroNeg := if n1 = n2 then n1 else rm == 3#3
  fpFinite rm zeroNeg (decide (sum < 0)) sum.natAbs e false

/-- FADD (R540). -/
def fpAdd (rm : BitVec 3) (a b : Word) : FpResult :=
  if anyNaN [a, b] then fpPropagate [a, b]
  else
    match fpUnpack a, fpUnpack b with
    | .inf n1, .inf n2 => if n1 = n2 then fpExact (fpInf n1) else fpInvalid subSubinf
    | .inf n1, _ => fpExact (fpInf n1)
    | _, .inf n2 => fpExact (fpInf n2)
    | .fin n1 m1 e1, .fin n2 m2 e2 => fpAddFinite rm n1 m1 e1 n2 m2 e2
    | _, _ => fpPropagate [a, b]

/-- The sign bit inverted; a NaN stays as it is. -/
def fpNegate (b : Word) : Word := if (fpUnpack b).isNaN then b else b ^^^ 0x8000000000000000

/-- FSUB (R541). -/
def fpSub (rm : BitVec 3) (a b : Word) : FpResult := fpAdd rm a (fpNegate b)

/-- FMUL (R542). -/
def fpMul (rm : BitVec 3) (a b : Word) : FpResult :=
  if anyNaN [a, b] then fpPropagate [a, b]
  else
    match fpUnpack a, fpUnpack b with
    | .inf n1, .inf n2 => fpExact (fpInf (n1 != n2))
    | .inf n1, .fin n2 m _ => if m = 0 then fpInvalid subInfzero else fpExact (fpInf (n1 != n2))
    | .fin n1 m _, .inf n2 => if m = 0 then fpInvalid subInfzero else fpExact (fpInf (n1 != n2))
    | .fin n1 m1 e1, .fin n2 m2 e2 => fpFinite rm (n1 != n2) (n1 != n2) (m1 * m2) (e1 + e2) false
    | _, _ => fpPropagate [a, b]

/-- FDIV (R543). -/
def fpDiv (rm : BitVec 3) (a b : Word) : FpResult :=
  if anyNaN [a, b] then fpPropagate [a, b]
  else
    match fpUnpack a, fpUnpack b with
    | .inf _, .inf _ => fpInvalid subInfdiv
    | .inf n1, .fin n2 _ _ => fpExact (fpInf (n1 != n2))
    | .fin n1 _ _, .inf n2 => fpExact (fpZero (n1 != n2))
    | .fin n1 m1 e1, .fin n2 m2 e2 =>
      let neg := n1 != n2
      if m2 = 0 then
        (if m1 = 0 then fpInvalid subZerozero
         else ⟨fpInf neg, ⟨false, false, false, true, false⟩, 0, fpClass false (fpInf neg)⟩)
      else
        let num := m1 <<< 120
        fpFinite rm neg neg (num / m2) (e1 - e2 - 120) (num % m2 != 0)
    | _, _ => fpPropagate [a, b]

/-- The fused sum of a product and an addend (R544). The product of infinity and zero is invalid; with a quiet NaN
addend IEEE 754 leaves the flag open (log 30). -/
def fpMulAdd (rm : BitVec 3) (a b c : Word) : FpResult :=
  let infZero :=
    match fpUnpack a, fpUnpack b with
    | .inf _, .fin _ m _ => m == 0
    | .fin _ m _, .inf _ => m == 0
    | _, _ => false
  if anyNaN [a, b, c] then
    let r := fpPropagate [a, b, c]
    if infZero && Config.fmaInfZeroNaNInvalid then { r with conds := .invalidOnly, sub := r.sub ||| subInfzero } else r
  else if infZero then fpInvalid subInfzero
  else
    match fpUnpack a, fpUnpack b, fpUnpack c with
    | .fin n1 m1 e1, .fin n2 m2 e2, .fin n3 m3 e3 => fpAddFinite rm (n1 != n2) (m1 * m2) (e1 + e2) n3 m3 e3
    | .fin _ _ _, .fin _ _ _, _ => fpExact c
    | _, _, .inf n3 =>
      let neg := a.msb != b.msb
      if neg = n3 then fpExact (fpInf neg) else fpInvalid subSubinf
    | _, _, _ => fpExact (fpInf (a.msb != b.msb))

/-- One step of the integer square root: bit b of the root, highest first. -/
def isqrtFrom : Nat → Nat → Nat → Nat
  | 0, _, r => r
  | b + 1, n, r => if (r + 2 ^ b) * (r + 2 ^ b) ≤ n then isqrtFrom b n (r + 2 ^ b) else isqrtFrom b n r

/-- The integer square root of a number below 2^200. -/
def isqrt (n : Nat) : Nat := isqrtFrom 100 n 0

/-- FSQRT (R545); a NaN operand propagates with its sign bit (R520, log 50). -/
def fpSqrt (rm : BitVec 3) (a : Word) : FpResult :=
  if anyNaN [a] then fpPropagate [a]
  else
    match fpUnpack a with
    | .inf neg => if neg then fpInvalid subSqrtn else fpExact (fpInf false)
    | .fin neg m e =>
      if m = 0 then fpExact (fpZero false)
      else if neg then fpInvalid subSqrtn
      else
        let odd := (e % 2).natAbs
        let n := m <<< (128 + odd)
        let r := isqrt n
        fpFinite rm false false r ((e - Int.ofNat odd) / 2 - 64) (r * r != n)
    | .nan _ => fpPropagate [a]

/-! ### Conversion (R550 to R552) -/

/-- A finite value rounded to an integer: magnitude, inexact, rounded up. Magnitudes beyond 2^64 are cut there. -/
def roundToInteger (rm : BitVec 3) (neg : Bool) (m : Nat) (e : Int) : Nat × Bool × Bool :=
  if m = 0 then (0, false, false)
  else if 0 ≤ e then (if 64 < e then 2 ^ 64 else m <<< e.toNat, false, false)
  else roundShift rm neg m (-e).toNat false

/-- An invalid conversion to integer: the value is free and the class is that of the free value (R550, 93 U34). -/
def conversionInvalid (free : Word) (sub : BitVec 8) : FpResult := ⟨free, .invalidOnly, sub, integerClass false free⟩

/-- An integer magnitude with a sign as a conversion result (R550). -/
def integerResult (free : Word) (neg : Bool) (r : Nat × Bool × Bool) : FpResult :=
  if (if neg then decide (2 ^ 63 < r.1) else decide (2 ^ 63 ≤ r.1)) then conversionInvalid free subCvt
  else
    let w := BitVec.ofInt 64 (signedMag neg r.1)
    ⟨w, ⟨false, false, false, false, r.2.1⟩, 0, integerClass r.2.2 w⟩

/-- FTOI (R550). -/
def fpToInt (rm : BitVec 3) (free a : Word) : FpResult :=
  match fpUnpack a with
  | .nan signalling => conversionInvalid free (if signalling then subCvt ||| subSnan else subCvt)
  | .inf _ => conversionInvalid free subCvt
  | .fin neg m e => integerResult free neg (roundToInteger rm neg m e)

/-- ITOF (R551). -/
def fpOfInt (rm : BitVec 3) (a : Word) : FpResult :=
  fpFinite rm false a.msb a.toInt.natAbs 0 false

/-- FTRUNC (R552). -/
def fpTrunc (a : Word) : FpResult :=
  match fpUnpack a with
  | .nan _ => fpPropagate [a]
  | .inf _ => fpExact a
  | .fin neg m e =>
    if m = 0 ∨ 0 ≤ e then fpExact a
    else
      let r := roundShift 1 neg m (-e).toNat false
      let w := if r.1 = 0 then fpZero neg else (fpRound 1 neg r.1 0 false).value
      ⟨w, ⟨false, false, false, false, r.2.1⟩, 0, fpClass false w⟩

/-! ### Comparison (R555 to R560) -/

/-- The order of two values that are not NaN, zeros equal. -/
def fpOrder (a b : Word) : Ordering :=
  let key (w : Word) : Int := signedMag w.msb (w.extractLsb' 0 63).toNat
  compare (key a) (key b)

/-- The order of two magnitudes. -/
def fpMagOrder (a b : Word) : Ordering := compare (a.extractLsb' 0 63).toNat (b.extractLsb' 0 63).toNat

/-- The conditions of a comparison: a signalling NaN is invalid, a quiet one only where the instruction is not one of
the unordered comparisons (R555). -/
def compareConds (unorderedOk : Bool) (a b : Word) : Conds × BitVec 8 :=
  let snan := (fpUnpack a).isSignalling || (fpUnpack b).isSignalling
  let comp := anyNaN [a, b] && !unorderedOk
  (if snan || comp then .invalidOnly else .none,
    (if snan then subSnan else 0) ||| (if comp then subNaNComp else 0))

/-- FCMP (R556). -/
def fpCmp (a b : Word) : FpResult :=
  let c := compareConds true a b
  let w : Word :=
    if anyNaN [a, b] then 0x4000000000000000
    else match fpOrder a b with
      | .lt => 0xBFF0000000000000
      | .eq => 0
      | .gt => 0x3FF0000000000000
  ⟨w, c.1, c.2, fpClass false w⟩

/-- The bit vector of FCMPB from the order of the values and of the magnitudes (R557). -/
def compareBits (o om : Ordering) : Word :=
  let lt := o == .lt
  let eq := o == .eq
  let mlt := om == .lt
  let low : BitVec 13 :=
    BitVec.ofBool true ++ BitVec.ofBool (!mlt) ++ BitVec.ofBool (!(lt || eq)) ++ BitVec.ofBool (!lt) ++
      BitVec.ofBool (!eq) ++ 0#3 ++ BitVec.ofBool false ++ BitVec.ofBool mlt ++ BitVec.ofBool (lt || eq) ++
      BitVec.ofBool lt ++ BitVec.ofBool eq
  BitVec.ofBool lt ++ 0#50 ++ low

/-- The bit vector of an unordered comparison: bits 4 and 8 (R557). -/
def unorderedBits : Word := 0x110

/-- FCMPB (R557). Its result class reads the bit vector as a signed integer (log 31). -/
def fpCmpBits (a b : Word) : FpResult :=
  let c := compareConds true a b
  let w := if anyNaN [a, b] then unorderedBits else compareBits (fpOrder a b) (fpMagOrder a b)
  ⟨w, c.1, c.2, integerClass false w⟩

/-- FSEQ, FSNE, FSLT: 1 or 0; the test is given the order, none when unordered (R558 to R560). -/
def fpTest (test : Option Ordering → Bool) (a b : Word) : FpResult :=
  let c := compareConds false a b
  let w := ofProp (test (if anyNaN [a, b] then none else some (fpOrder a b)))
  ⟨w, c.1, c.2, integerClass false w⟩

/-! ### Sign, move and classification (R530 to R535) -/

/-- FCLASS (R532). -/
def fpClassify (a : Word) : Word :=
  let bit : Nat :=
    match fpUnpack a with
    | .inf neg => if neg then 0 else 7
    | .nan signalling => if signalling then 8 else 9
    | .fin neg m _ =>
      if m = 0 then (if neg then 3 else 4)
      else if fpExponent a = 0 then (if neg then 2 else 5)
      else if neg then 1 else 6
  (a &&& 0x8000000000000000) ||| (1#64 <<< bit)

/-- FSIGN (R535). -/
def fpSign (a : Word) : Word :=
  if a.extractLsb' 0 63 = 0#63 then 0 else if a.msb then 0xBFF0000000000000 else 0x3FF0000000000000

/-! ### Estimates (R546, R547, 93 U35) -/

/-- The exact reciprocal square root of a positive finite value, to nearest: it serves where the implementation's
function would miss the 3% the spec promises (log 29). -/
def fpReciprocalSqrt (a : Word) : Word := (fpDiv 0 0x3FF0000000000000 (fpSqrt 0 a).value).value

/-- Whether x lies within 3% of y, both positive finite. -/
def within3Percent (x y : Word) : Bool :=
  match fpUnpack x, fpUnpack y with
  | .fin false m1 e1, .fin false m2 e2 =>
    let e := if e1 ≤ e2 then e1 else e2
    let p := Int.ofNat (m1 <<< (e1 - e).toNat)
    let q := Int.ofNat (m2 <<< (e2 - e).toNat)
    decide (100 * (p - q).natAbs ≤ 3 * q.natAbs)
  | _, _ => false

/-- The low bits that no single-precision number has, cleared. -/
def singleBits (w : Word) : Word := w &&& 0xFFFFFFFFE0000000

/-- The magnitude of a finite value lies in the range of the normal single-precision numbers, up to the largest. -/
def inSingleRange (a : Word) : Bool :=
  decide (0x381 ≤ fpExponent a) && decide (a.extractLsb' 0 63 ≤ 0x47EFFFFFE0000000#63)

/-- The magnitude of a finite value lies in the range of the subnormal single-precision numbers. -/
def inSingleSubnormals (a : Word) : Bool := decide (0x36A ≤ fpExponent a ∧ fpExponent a < 0x381)

/-- An estimate that R546 allows of a positive finite value: a single-precision number within 3%. -/
def isEstimate (f a : Word) : Bool := singleBits f == f && within3Percent f (fpReciprocalSqrt a)

/-- What an implementation's function answers where R546 asks for "infinity or zero": its own answer if it is one of
them, else `w`. R546 names no sign, so either sign is allowed (DESIGN CHOICE, log 29). -/
def infinityOrZero (f w : Word) : Word :=
  if f.extractLsb' 0 63 = 0#63 ∨ f.extractLsb' 0 63 = 0x7FF0000000000000#63 then f else w

/-- The NaN of FRSQRTE for a negative operand. R546 says only "NaN". Where the estimate reports an invalid operation
(sqrtn) it is the one of R520; where it reports none R520 fixes nothing, and any NaN that the implementation's
function gives is allowed, the default one standing for an answer that is none (DESIGN CHOICE, log 29). -/
def rsqrtNaN (a : Word) : Word :=
  let f := Config.frsqrteFn a
  if (fpUnpack f).isNaN && !(Config.frsqrteConds a).getLsbD 0 then f else fpDefaultNaN

/-- The value of FRSQRTE: the implementation's function under the constraints of R546: a NaN for a negative input
(`rsqrtNaN`), also for one outside the single-precision range, minus infinity among them (log 29); infinity or zero of
either sign for the other inputs outside the range and for a zero operand; a single-precision number within 3% inside
the range; the range's subnormal part counts as inside or as outside (log 29). -/
def rsqrtValue (a : Word) : Word :=
  let f := Config.frsqrteFn a
  match fpUnpack a with
  | .nan _ => fpQuiet a
  | .inf neg => if neg then rsqrtNaN a else infinityOrZero f (fpZero false)
  | .fin neg m _ =>
    if m = 0 then infinityOrZero f (fpInf false)
    else if neg then rsqrtNaN a
    else if inSingleRange a then (if isEstimate f a then f else singleBits (fpReciprocalSqrt a))
    else if inSingleSubnormals a && isEstimate f a then f
    else infinityOrZero f (fpInf false)

/-- Whether v exceeds the exact reciprocal square root of a in magnitude (R524 step 4). -/
def rsqrtAway (a v : Word) : Bool :=
  match fpUnpack a, fpUnpack v with
  | .inf false, .inf _ => true
  | .fin false m e, .fin _ n k =>
    let d := 2 * k + e
    m != 0 && (if 0 ≤ d then decide (1 < n * n * m * 2 ^ d.toNat) else decide (2 ^ (-d).toNat < n * n * m))
  | .fin false m _, .inf _ => m != 0
  | _, _ => false

/-- Whether a value is below zero and not a NaN. -/
def fpBelowZero (a : Word) : Bool := !(fpUnpack a).isNaN && fpOrder a 0 == .lt

/-- FRSQRTE (R546): the conditions are the implementation's, but a signalling NaN is invalid (snanx), and of the other
operands only a negative one may be (sqrtn) (R523, R524, log 29). -/
def fpRsqrtEstimate (a : Word) : FpResult :=
  let v := rsqrtValue a
  let c := Config.frsqrteConds a
  let snan := (fpUnpack a).isSignalling
  let sqrtn := fpBelowZero a && c.getLsbD 0
  ⟨v, ⟨snan || sqrtn, c.getLsbD 1, c.getLsbD 2, c.getLsbD 3, c.getLsbD 4⟩,
    (if snan then subSnan else 0) ||| (if sqrtn then subSqrtn else 0), fpClass (rsqrtAway a v) v⟩

/-- The value of FSIGMOID: the implementation's function under the constraints of R547: 0.0 below -8.0, 1.0 above 8.0,
between them in between (log 29). -/
def sigmoidValue (a : Word) : Word :=
  let f := Config.fsigmoidFn a
  let one : Word := 0x3FF0000000000000
  if anyNaN [a] then fpQuiet a
  else if fpOrder a 0xC020000000000000 == .lt then 0
  else if fpOrder a 0x4020000000000000 == .gt then one
  else if anyNaN [f] || fpOrder f 0 == .lt then 0
  else if fpOrder f one == .gt then one
  else f

/-- Whether v exceeds the exact sigmoid of a (R524 step 4): 0.0 never does, 1.0 does of every finite value, and the
exact sigmoid of zero is one half; else the implementation's (log 29). -/
def sigmoidAway (a v : Word) : Bool :=
  match fpUnpack a, fpUnpack v with
  | .fin _ m _, .fin _ n _ =>
    if n = 0 then false
    else if v = 0x3FF0000000000000 then true
    else if m = 0 then fpOrder v 0x3FE0000000000000 == .gt
    else Config.fsigmoidAway a
  | _, _ => false

/-- FSIGMOID (R547): the conditions are the implementation's, but a signalling NaN alone is invalid (R523, log 29). -/
def fpSigmoid (a : Word) : FpResult :=
  let v := sigmoidValue a
  let c := Config.fsigmoidConds a
  let snan := (fpUnpack a).isSignalling
  ⟨v, ⟨snan, c.getLsbD 0, c.getLsbD 1, c.getLsbD 2, c.getLsbD 3⟩, if snan then subSnan else 0,
    fpClass (sigmoidAway a v) v⟩

end Sys2Proof.Machine
end

