-- ==== Sys2Proof/Machine/Dfp.lean ====
section
/-! DEFINITION. Decimal arithmetic over the parameter DFP_FORMAT (44_decimal_float R600, R602): exact rational values,
one `dround`, the conditions and the status procedure of the binary family. The sign of an exact zero and of an
infinite result follows the binary family (log 32). -/

namespace Sys2Proof.Machine

open Sys2Proof.Config

/-- The class of a decimal result (43 R524 step 4 on the decimal value). -/
def dfpClass (away : Bool) (w : Word) : ResultClass :=
  match dval w with
  | .zero neg => ⟨away, neg, false, false, true, false⟩
  | .num q => ⟨away, dSubnormal w, decide (q < 0), decide (0 < q), decide (q = 0), false⟩
  | .inf neg => ⟨away, false, neg, !neg, false, true⟩
  | .qnan => ⟨away, true, false, false, false, true⟩
  | .snan => ⟨away, false, false, false, false, false⟩

/-- The sign of a value. -/
def DecValue.neg : DecValue → Bool
  | .zero n => n
  | .num q => decide (q < 0)
  | .inf n => n
  | _ => false

/-- The rational of a finite value, 0 for another. -/
def DecValue.toRat : DecValue → Rat
  | .num q => q
  | _ => 0

/-- Whether a value is a NaN. -/
def DecValue.isNaN : DecValue → Bool
  | .qnan => true
  | .snan => true
  | _ => false

/-- Whether a value is infinite. -/
def DecValue.isInf : DecValue → Bool
  | .inf _ => true
  | _ => false

/-- A result without conditions. -/
def dfpExact (w : Word) : FpResult := ⟨w, .none, 0, dfpClass false w⟩

/-- An invalid operation with a sub-cause. -/
def dfpInvalid (sub : BitVec 8) : FpResult := ⟨dqnan, .invalidOnly, sub, dfpClass false dqnan⟩

/-- Whether the encoding w is larger in magnitude than the exact value. -/
def dfpAway (w : Word) (q : Rat) : Bool :=
  match dval w with
  | .num r => decide ((if q < 0 then -q else q) < (if r < 0 then -r else r))
  | .inf _ => true
  | _ => false

/-- An exact value rounded once; an exact zero has the given sign. -/
def dfpFinite (rm : BitVec 3) (zeroNeg : Bool) (q : Rat) : FpResult :=
  if q = 0 then dfpExact (dzero zeroNeg)
  else
    let r := dround rm q
    ⟨r.bits, ⟨false, r.ovf, r.under, false, r.inexact⟩, 0, dfpClass (dfpAway r.bits q) r.bits⟩

/-- Whether any operand is a NaN. -/
def dfpAnyNaN (ws : List Word) : Bool := ws.any fun w => DecValue.isNaN (dval w)

/-- The first NaN operand, quieted; invalid for a signalling one. -/
def dfpPropagate (ws : List Word) : FpResult :=
  let q := dquiet ((ws.find? fun w => DecValue.isNaN (dval w)).getD dqnan)
  if ws.any fun w => dval w == .snan then ⟨q, .invalidOnly, subSnan, dfpClass false q⟩ else dfpExact q

/-- The sum of two values that are not NaN. -/
def dfpAddValues (rm : BitVec 3) (x y : DecValue) : FpResult :=
  match x, y with
  | .inf n1, .inf n2 => if n1 = n2 then dfpExact (dinf n1) else dfpInvalid subSubinf
  | .inf n1, _ => dfpExact (dinf n1)
  | _, .inf n2 => dfpExact (dinf n2)
  | x, y =>
    dfpFinite rm (if DecValue.neg x = DecValue.neg y then DecValue.neg x else rm == 3#3)
      (DecValue.toRat x + DecValue.toRat y)

/-- A value with its sign inverted. -/
def DecValue.negate : DecValue → DecValue
  | .zero n => .zero (!n)
  | .num q => .num (-q)
  | .inf n => .inf (!n)
  | v => v

/-- DFADD (R610). -/
def dfpAdd (rm : BitVec 3) (a b : Word) : FpResult :=
  if dfpAnyNaN [a, b] then dfpPropagate [a, b] else dfpAddValues rm (dval a) (dval b)

/-- DFSUB (R611). -/
def dfpSub (rm : BitVec 3) (a b : Word) : FpResult :=
  if dfpAnyNaN [a, b] then dfpPropagate [a, b] else dfpAddValues rm (dval a) (DecValue.negate (dval b))

/-- The value is a number of magnitude zero. -/
def dfpIsZero (x : DecValue) : Bool := !DecValue.isNaN x && !DecValue.isInf x && decide (DecValue.toRat x = 0)

/-- Infinity times zero (43 R523). -/
def dfpInfZero (x y : DecValue) : Bool :=
  (DecValue.isInf x && dfpIsZero y) || (DecValue.isInf y && dfpIsZero x)

/-- DFMUL (R612). -/
def dfpMul (rm : BitVec 3) (a b : Word) : FpResult :=
  let x := dval a
  let y := dval b
  let neg := DecValue.neg x != DecValue.neg y
  if dfpAnyNaN [a, b] then dfpPropagate [a, b]
  else if dfpInfZero x y then dfpInvalid subInfzero
  else if DecValue.isInf x || DecValue.isInf y then dfpExact (dinf neg)
  else dfpFinite rm neg (DecValue.toRat x * DecValue.toRat y)

/-- DFDIV (R613). -/
def dfpDiv (rm : BitVec 3) (a b : Word) : FpResult :=
  let x := dval a
  let y := dval b
  let neg := DecValue.neg x != DecValue.neg y
  if dfpAnyNaN [a, b] then dfpPropagate [a, b]
  else if DecValue.isInf x then (if DecValue.isInf y then dfpInvalid subInfdiv else dfpExact (dinf neg))
  else if DecValue.isInf y then dfpExact (dzero neg)
  else if DecValue.toRat y = 0 then
    (if DecValue.toRat x = 0 then dfpInvalid subZerozero
     else ⟨dinf neg, ⟨false, false, false, true, false⟩, 0, dfpClass false (dinf neg)⟩)
  else dfpFinite rm neg (DecValue.toRat x / DecValue.toRat y)

/-- The fused sum of a product, negated where `negProduct`, and an addend, negated where `negAddend` (R614). -/
def dfpMulAdd (negProduct negAddend : Bool) (rm : BitVec 3) (a b c : Word) : FpResult :=
  let x := dval a
  let y := dval b
  let z := if negAddend then DecValue.negate (dval c) else dval c
  let neg := (DecValue.neg x != DecValue.neg y) != negProduct
  let infZero := dfpInfZero x y
  if dfpAnyNaN [a, b, c] then
    let r := dfpPropagate [a, b, c]
    if infZero && Config.fmaInfZeroNaNInvalid then { r with conds := .invalidOnly, sub := r.sub ||| subInfzero } else r
  else if infZero then dfpInvalid subInfzero
  else
    let q := DecValue.toRat x * DecValue.toRat y
    let product : DecValue :=
      if DecValue.isInf x || DecValue.isInf y then .inf neg
      else if q = 0 then .zero neg
      else .num (if negProduct then -q else q)
    dfpAddValues rm product z

/-- A rational magnitude rounded to an integer: magnitude, inexact, rounded up (43 R522). -/
def roundRat (rm : BitVec 3) (q : Rat) : Nat × Bool × Bool :=
  let n := q.num.natAbs
  let d := q.den
  let fl := n / d
  let rem := n % d
  let neg := decide (q < 0)
  let up :=
    if rem = 0 ∨ rm = 1#3 then false
    else if rm = 2#3 then !neg
    else if rm = 3#3 then neg
    else if rm = 4#3 then decide (d ≤ 2 * rem)
    else decide (d < 2 * rem) || (2 * rem == d && fl % 2 == 1)
  (if up then fl + 1 else fl, rem != 0, up)

/-- DFTOI (R620). -/
def dfpToInt (rm : BitVec 3) (free a : Word) : FpResult :=
  match dval a with
  | .qnan => conversionInvalid free subCvt
  | .snan => conversionInvalid free (subCvt ||| subSnan)
  | .inf _ => conversionInvalid free subCvt
  | .zero _ => integerResult free false (0, false, false)
  | .num q => integerResult free (decide (q < 0)) (roundRat rm q)

/-- ITODF (R621). -/
def dfpOfInt (rm : BitVec 3) (a : Word) : FpResult := dfpFinite rm false (Rat.ofInt a.toInt)

/-- The order of two rationals. -/
def ratOrder (p q : Rat) : Ordering := if p < q then .lt else if p = q then .eq else .gt

/-- The order of two values that are not NaN. -/
def dfpOrder (x y : DecValue) : Ordering :=
  match x, y with
  | .inf n1, .inf n2 => if n1 = n2 then .eq else if n1 then .lt else .gt
  | .inf n1, _ => if n1 then .lt else .gt
  | _, .inf n2 => if n2 then .gt else .lt
  | x, y => ratOrder (DecValue.toRat x) (DecValue.toRat y)

/-- A value without its sign. -/
def DecValue.abs (v : DecValue) : DecValue := if DecValue.neg v then DecValue.negate v else v

/-- The conditions of an unordered comparison: a signalling NaN is invalid (43 R555). -/
def dfpCompareConds (a b : Word) : Conds × BitVec 8 :=
  if dval a == .snan || dval b == .snan then (.invalidOnly, subSnan) else (.none, 0)

/-- DFCMP (R625). -/
def dfpCmp (a b : Word) : FpResult :=
  let c := dfpCompareConds a b
  let w :=
    if dfpAnyNaN [a, b] then dfTwo
    else match dfpOrder (dval a) (dval b) with
      | .lt => dfMinusOne
      | .eq => dzero false
      | .gt => dfOne
  ⟨w, c.1, c.2, dfpClass false w⟩

/-- DFCMPB (R626). -/
def dfpCmpBits (a b : Word) : FpResult :=
  let c := dfpCompareConds a b
  let w :=
    if dfpAnyNaN [a, b] then unorderedBits
    else compareBits (dfpOrder (dval a) (dval b)) (dfpOrder (DecValue.abs (dval a)) (DecValue.abs (dval b)))
  ⟨w, c.1, c.2, integerClass false w⟩

/-- DFSIGN (R608). -/
def dfpSign (a : Word) : Word :=
  match dval a with
  | .zero _ => dzero false
  | .num q => if q = 0 then dzero false else if a.msb then dfMinusOne else dfOne
  | _ => if a.msb then dfMinusOne else dfOne

end Sys2Proof.Machine
end

