-- ==== Sys2Proof/Machine/Float.lean ====
section
/-! DEFINITION. Binary floating-point instructions (43_float). R1 and R2 forms round with U_FSTAT.rm, R2L and R3 forms
with their Rm3 field (R522); every arithmetic, conversion and compare instruction commits its result through the
status update of R524. -/

namespace Sys2Proof.Machine

/-- A rule that computes a floating-point result under a rounding mode and commits it; `rm` none means the dynamic
mode U_FSTAT.rm (R522, R524). The free value is the first argument of the operation. -/
def fpRule (rm : Option (BitVec 3)) (g : BitVec 3 → Word → Word → Word → Word → FpResult) : Rule := fun x a b c s =>
  s.fpCommit (g (rm.getD (fpRm s.csr.fstat)) (s.free x) a b c)

/-- An F1 instruction that rewrites U_FSTAT from its mask operand (R565). -/
def fpControl (c : Ctx) (f : Fmt.F1) (g : Word → BitVec 6 → Word) (s : State) : Outcome :=
  next c (s.setFstat (g s.csr.fstat (fpMask s f)))

/-- FSTAT and DFSTAT: `r[Rt] <- U_FSTAT`, Rt in the place of uimm6 (R571). -/
def fpStatus (c : Ctx) (f : Fmt.F1) (s : State) : Outcome := next c (s.setReg f.u (fstatRead s.csr.fstat))

/-- FABS (43 R530). -/
def execFabs (f : Fmt.R1) (s : State) : Outcome :=
  compute ⟨4, f.word 0x61#8 0x20#7⟩ (operandsR1 f) (fun a _ _ => a &&& 0x7FFFFFFFFFFFFFFF) s

/-- FNEG (43 R531). -/
def execFneg (f : Fmt.R1) (s : State) : Outcome :=
  compute ⟨4, f.word 0x61#8 0x22#7⟩ (operandsR1 f) (fun a _ _ => a ^^^ 0x8000000000000000) s

/-- FCLASS (43 R532). -/
def execFclass (f : Fmt.R1) (s : State) : Outcome :=
  compute ⟨4, f.word 0x61#8 0x1E#7⟩ (operandsR1 f) (fun a _ _ => fpClassify a) s

/-- FFINITE (43 R533). -/
def execFfinite (f : Fmt.R1) (s : State) : Outcome :=
  compute ⟨4, f.word 0x61#8 0x0F#7⟩ (operandsR1 f) (fun a _ _ => ofProp (fpExponent a != 0x7FF)) s

/-- ISNAN (43 R534). -/
def execIsnan (f : Fmt.R1) (s : State) : Outcome :=
  compute ⟨4, f.word 0x61#8 0x0E#7⟩ (operandsR1 f) (fun a _ _ => ofProp (fpUnpack a).isNaN) s

/-- FMAN (43 R535). -/
def execFman (f : Fmt.R1) (s : State) : Outcome :=
  compute ⟨4, f.word 0x61#8 0x07#7⟩ (operandsR1 f) (fun a _ _ => zext (fpFraction a)) s

/-- FSIGN (43 R535). -/
def execFsign (f : Fmt.R1) (s : State) : Outcome :=
  compute ⟨4, f.word 0x61#8 0x06#7⟩ (operandsR1 f) (fun a _ _ => fpSign a) s

/-- FADD (43 R540). -/
def execFadd (f : Fmt.FR2) (s : State) : Outcome :=
  run ⟨6, f.word 0x62#8 0x04#7⟩ (operandsFR2 f) (fpRule none (fun rm _ a b _ => fpAdd rm a b)) s

/-- FADD (43 R540). -/
def execFaddL (f : Fmt.FR2L) (s : State) : Outcome :=
  run ⟨6, f.word 0x72#8 0x04#7⟩ (operandsFR2L f) (fpRule (some f.rm) (fun rm _ a b _ => fpAdd rm a b)) s

/-- FSUB (43 R541). -/
def execFsub (f : Fmt.FR2) (s : State) : Outcome :=
  run ⟨6, f.word 0x62#8 0x05#7⟩ (operandsFR2 f) (fpRule none (fun rm _ a b _ => fpSub rm a b)) s

/-- FSUB (43 R541). -/
def execFsubL (f : Fmt.FR2L) (s : State) : Outcome :=
  run ⟨6, f.word 0x72#8 0x05#7⟩ (operandsFR2L f) (fpRule (some f.rm) (fun rm _ a b _ => fpSub rm a b)) s

/-- FMUL (43 R542). -/
def execFmul (f : Fmt.FR2) (s : State) : Outcome :=
  run ⟨6, f.word 0x62#8 0x08#7⟩ (operandsFR2 f) (fpRule none (fun rm _ a b _ => fpMul rm a b)) s

/-- FMUL (43 R542). -/
def execFmulL (f : Fmt.FR2L) (s : State) : Outcome :=
  run ⟨6, f.word 0x72#8 0x08#7⟩ (operandsFR2L f) (fpRule (some f.rm) (fun rm _ a b _ => fpMul rm a b)) s

/-- FDIV (43 R543). -/
def execFdiv (f : Fmt.FR2) (s : State) : Outcome :=
  run ⟨6, f.word 0x62#8 0x09#7⟩ (operandsFR2 f) (fpRule none (fun rm _ a b _ => fpDiv rm a b)) s

/-- FDIV (43 R543). -/
def execFdivL (f : Fmt.FR2L) (s : State) : Outcome :=
  run ⟨6, f.word 0x72#8 0x09#7⟩ (operandsFR2L f) (fpRule (some f.rm) (fun rm _ a b _ => fpDiv rm a b)) s

/-- FMA (43 R544). -/
def execFma (f : Fmt.FR3) (s : State) : Outcome :=
  run ⟨6, f.word 0x63#8 0x00#4⟩ (operandsFR3 f) (fpRule (some f.rm) (fun rm _ a b c => fpMulAdd rm a b c)) s

/-- FMS (43 R544). -/
def execFms (f : Fmt.FR3) (s : State) : Outcome :=
  run ⟨6, f.word 0x63#8 0x01#4⟩ (operandsFR3 f) (fpRule (some f.rm) (fun rm _ a b c => fpMulAdd rm a b (fpNegate c))) s

/-- FNMA (43 R544). -/
def execFnma (f : Fmt.FR3) (s : State) : Outcome :=
  run ⟨6, f.word 0x63#8 0x02#4⟩ (operandsFR3 f) (fpRule (some f.rm) (fun rm _ a b c => fpMulAdd rm (fpNegate a) b c)) s

/-- FNMS (43 R544). -/
def execFnms (f : Fmt.FR3) (s : State) : Outcome :=
  run ⟨6, f.word 0x63#8 0x03#4⟩ (operandsFR3 f) (fpRule (some f.rm) (fun rm _ a b c => fpMulAdd rm (fpNegate a) b (fpNegate c))) s

/-- FSQRT (43 R545). -/
def execFsqrt (f : Fmt.R1) (s : State) : Outcome :=
  run ⟨4, f.word 0x61#8 0x08#7⟩ (operandsR1 f) (fpRule none (fun rm _ a _ _ => fpSqrt rm a)) s

/-- FRSQRTE (43 R546). -/
def execFrsqrte (f : Fmt.R1) (s : State) : Outcome :=
  run ⟨4, f.word 0x61#8 0x01#7⟩ (operandsR1 f) (fpRule none (fun _ _ a _ _ => fpRsqrtEstimate a)) s

/-- FSIGMOID (43 R547). -/
def execFsigmoid (f : Fmt.R1) (s : State) : Outcome :=
  run ⟨4, f.word 0x61#8 0x28#7⟩ (operandsR1 f) (fpRule none (fun _ _ a _ _ => fpSigmoid a)) s

/-- FTOI (43 R550). -/
def execFtoi (f : Fmt.R1) (s : State) : Outcome :=
  run ⟨4, f.word 0x61#8 0x02#7⟩ (operandsR1 f) (fpRule none (fun rm free a _ _ => fpToInt rm free a)) s

/-- ITOF (43 R551). -/
def execItof (f : Fmt.R1) (s : State) : Outcome :=
  run ⟨4, f.word 0x61#8 0x03#7⟩ (operandsR1 f) (fpRule none (fun rm _ a _ _ => fpOfInt rm a)) s

/-- FTRUNC (43 R552). -/
def execFtrunc (f : Fmt.R1) (s : State) : Outcome :=
  run ⟨4, f.word 0x61#8 0x15#7⟩ (operandsR1 f) (fpRule none (fun _ _ a _ _ => fpTrunc a)) s

/-- FCMP (43 R556). -/
def execFcmp (f : Fmt.FR2) (s : State) : Outcome :=
  run ⟨6, f.word 0x62#8 0x10#7⟩ (operandsFR2 f) (fpRule none (fun _ _ a b _ => fpCmp a b)) s

/-- FCMPB (43 R557). -/
def execFcmpb (f : Fmt.FR2) (s : State) : Outcome :=
  run ⟨6, f.word 0x62#8 0x15#7⟩ (operandsFR2 f) (fpRule none (fun _ _ a b _ => fpCmpBits a b)) s

/-- FSEQ (43 R558). -/
def execFseq (f : Fmt.FR2) (s : State) : Outcome :=
  run ⟨6, f.word 0x62#8 0x11#7⟩ (operandsFR2 f) (fpRule none (fun _ _ a b _ => fpTest (fun o => o == some .eq) a b)) s

/-- FSNE (43 R559). -/
def execFsne (f : Fmt.FR2) (s : State) : Outcome :=
  run ⟨6, f.word 0x62#8 0x14#7⟩ (operandsFR2 f) (fpRule none (fun _ _ a b _ => fpTest (fun o => o != some .eq) a b)) s

/-- FSLT (43 R560). -/
def execFslt (f : Fmt.FR2) (s : State) : Outcome :=
  run ⟨6, f.word 0x62#8 0x12#7⟩ (operandsFR2 f) (fpRule none (fun _ _ a b _ => fpTest (fun o => o == some .lt) a b)) s

/-- FTX (43 R566). -/
def execFtx (f : Fmt.F1) (s : State) : Outcome :=
  finishSeq ⟨4, f.word 0x61#8 0x10#7⟩ (s.fpTrigger f)

/-- FCX (43 R567). -/
def execFcx (f : Fmt.F1) (s : State) : Outcome :=
  fpControl ⟨4, f.word 0x61#8 0x11#7⟩ f fstatClear s

/-- FEX (43 R568). -/
def execFex (f : Fmt.F1) (s : State) : Outcome :=
  fpControl ⟨4, f.word 0x61#8 0x12#7⟩ f (fun w m => fstatEnable w (m.extractLsb' 0 5)) s

/-- FDX (43 R569). -/
def execFdx (f : Fmt.F1) (s : State) : Outcome :=
  fpControl ⟨4, f.word 0x61#8 0x13#7⟩ f (fun w m => fstatDisable w (m.extractLsb' 0 5)) s

/-- FRM (43 R570). -/
def execFrm (f : Fmt.F1) (s : State) : Outcome :=
  fpControl ⟨4, f.word 0x61#8 0x14#7⟩ f (fun w m => fstatSetRm w (m.extractLsb' 0 3)) s

/-- FSTAT (43 R571). -/
def execFstat (f : Fmt.F1) (s : State) : Outcome :=
  fpStatus ⟨4, f.word 0x61#8 0x0C#7⟩ f s

end Sys2Proof.Machine
end

