-- ==== Sys2Proof/Machine/DecFloat.lean ====
section
/-! DEFINITION. Decimal floating-point instructions (44_decimal_float): the binary family's wrapper, status update and
control operations over decimal results (R602). -/

namespace Sys2Proof.Machine

/-- DFABS (44 R605). -/
def execDfabs (f : Fmt.R1) (s : State) : Outcome :=
  compute ⟨4, f.word 0x65#8 0x20#7⟩ (operandsR1 f) (fun a _ _ => a &&& 0x7FFFFFFFFFFFFFFF) s

/-- DFNEG (44 R606). -/
def execDfneg (f : Fmt.R1) (s : State) : Outcome :=
  compute ⟨4, f.word 0x65#8 0x22#7⟩ (operandsR1 f) (fun a _ _ => a ^^^ 0x8000000000000000) s

/-- DFMAN (44 R607). -/
def execDfman (f : Fmt.R1) (s : State) : Outcome :=
  compute ⟨4, f.word 0x65#8 0x07#7⟩ (operandsR1 f) (fun a _ _ => zext (a.extractLsb' 0 52)) s

/-- DFSIGN (44 R608). -/
def execDfsign (f : Fmt.R1) (s : State) : Outcome :=
  compute ⟨4, f.word 0x65#8 0x06#7⟩ (operandsR1 f) (fun a _ _ => dfpSign a) s

/-- DFADD (44 R610). -/
def execDfadd (f : Fmt.FR2) (s : State) : Outcome :=
  run ⟨6, f.word 0x66#8 0x04#7⟩ (operandsFR2 f) (fpRule none (fun rm _ a b _ => dfpAdd rm a b)) s

/-- DFADD (44 R610). -/
def execDfaddL (f : Fmt.FR2L) (s : State) : Outcome :=
  run ⟨6, f.word 0x76#8 0x04#7⟩ (operandsFR2L f) (fpRule (some f.rm) (fun rm _ a b _ => dfpAdd rm a b)) s

/-- DFSUB (44 R611). -/
def execDfsub (f : Fmt.FR2) (s : State) : Outcome :=
  run ⟨6, f.word 0x66#8 0x05#7⟩ (operandsFR2 f) (fpRule none (fun rm _ a b _ => dfpSub rm a b)) s

/-- DFSUB (44 R611). -/
def execDfsubL (f : Fmt.FR2L) (s : State) : Outcome :=
  run ⟨6, f.word 0x76#8 0x05#7⟩ (operandsFR2L f) (fpRule (some f.rm) (fun rm _ a b _ => dfpSub rm a b)) s

/-- DFMUL (44 R612). -/
def execDfmul (f : Fmt.FR2) (s : State) : Outcome :=
  run ⟨6, f.word 0x66#8 0x08#7⟩ (operandsFR2 f) (fpRule none (fun rm _ a b _ => dfpMul rm a b)) s

/-- DFMUL (44 R612). -/
def execDfmulL (f : Fmt.FR2L) (s : State) : Outcome :=
  run ⟨6, f.word 0x76#8 0x08#7⟩ (operandsFR2L f) (fpRule (some f.rm) (fun rm _ a b _ => dfpMul rm a b)) s

/-- DFDIV (44 R613). -/
def execDfdiv (f : Fmt.FR2) (s : State) : Outcome :=
  run ⟨6, f.word 0x66#8 0x09#7⟩ (operandsFR2 f) (fpRule none (fun rm _ a b _ => dfpDiv rm a b)) s

/-- DFDIV (44 R613). -/
def execDfdivL (f : Fmt.FR2L) (s : State) : Outcome :=
  run ⟨6, f.word 0x76#8 0x09#7⟩ (operandsFR2L f) (fpRule (some f.rm) (fun rm _ a b _ => dfpDiv rm a b)) s

/-- DFMA (44 R614). -/
def execDfma (f : Fmt.R3) (s : State) : Outcome :=
  run ⟨6, f.word 0x67#8 0x00#7⟩ (operandsR3 f) (fpRule none (fun rm _ a b c => dfpMulAdd false false rm a b c)) s

/-- DFMA (44 R614). -/
def execDfmaL (f : Fmt.FR3L) (s : State) : Outcome :=
  run ⟨8, f.word 0x77#8 0x00#7⟩ (operandsFR3L f) (fpRule (some f.rm) (fun rm _ a b c => dfpMulAdd false false rm a b c)) s

/-- DFMS (44 R614). -/
def execDfms (f : Fmt.R3) (s : State) : Outcome :=
  run ⟨6, f.word 0x67#8 0x01#7⟩ (operandsR3 f) (fpRule none (fun rm _ a b c => dfpMulAdd false true rm a b c)) s

/-- DFMS (44 R614). -/
def execDfmsL (f : Fmt.FR3L) (s : State) : Outcome :=
  run ⟨8, f.word 0x77#8 0x01#7⟩ (operandsFR3L f) (fpRule (some f.rm) (fun rm _ a b c => dfpMulAdd false true rm a b c)) s

/-- DFNMA (44 R614). -/
def execDfnma (f : Fmt.R3) (s : State) : Outcome :=
  run ⟨6, f.word 0x67#8 0x02#7⟩ (operandsR3 f) (fpRule none (fun rm _ a b c => dfpMulAdd true false rm a b c)) s

/-- DFNMA (44 R614). -/
def execDfnmaL (f : Fmt.FR3L) (s : State) : Outcome :=
  run ⟨8, f.word 0x77#8 0x02#7⟩ (operandsFR3L f) (fpRule (some f.rm) (fun rm _ a b c => dfpMulAdd true false rm a b c)) s

/-- DFNMS (44 R614). -/
def execDfnms (f : Fmt.R3) (s : State) : Outcome :=
  run ⟨6, f.word 0x67#8 0x03#7⟩ (operandsR3 f) (fpRule none (fun rm _ a b c => dfpMulAdd true true rm a b c)) s

/-- DFNMS (44 R614). -/
def execDfnmsL (f : Fmt.FR3L) (s : State) : Outcome :=
  run ⟨8, f.word 0x77#8 0x03#7⟩ (operandsFR3L f) (fpRule (some f.rm) (fun rm _ a b c => dfpMulAdd true true rm a b c)) s

/-- DFTOI (44 R620). -/
def execDftoi (f : Fmt.R1) (s : State) : Outcome :=
  run ⟨4, f.word 0x65#8 0x02#7⟩ (operandsR1 f) (fpRule none (fun rm free a _ _ => dfpToInt rm free a)) s

/-- ITODF (44 R621). -/
def execItodf (f : Fmt.R1) (s : State) : Outcome :=
  run ⟨4, f.word 0x65#8 0x03#7⟩ (operandsR1 f) (fpRule none (fun rm _ a _ _ => dfpOfInt rm a)) s

/-- DFCMP (44 R625). -/
def execDfcmp (f : Fmt.FR2) (s : State) : Outcome :=
  run ⟨6, f.word 0x66#8 0x10#7⟩ (operandsFR2 f) (fpRule none (fun _ _ a b _ => dfpCmp a b)) s

/-- DFCMPB (44 R626). -/
def execDfcmpb (f : Fmt.FR2) (s : State) : Outcome :=
  run ⟨6, f.word 0x66#8 0x15#7⟩ (operandsFR2 f) (fpRule none (fun _ _ a b _ => dfpCmpBits a b)) s

/-- DFTX (44 R630). -/
def execDftx (f : Fmt.F1) (s : State) : Outcome :=
  finishSeq ⟨4, f.word 0x65#8 0x10#7⟩ (s.fpTrigger f)

/-- DFCX (44 R630). -/
def execDfcx (f : Fmt.F1) (s : State) : Outcome :=
  fpControl ⟨4, f.word 0x65#8 0x11#7⟩ f fstatClear s

/-- DFEX (44 R630). -/
def execDfex (f : Fmt.F1) (s : State) : Outcome :=
  fpControl ⟨4, f.word 0x65#8 0x12#7⟩ f (fun w m => fstatEnable w (m.extractLsb' 0 5)) s

/-- DFDX (44 R630). -/
def execDfdx (f : Fmt.F1) (s : State) : Outcome :=
  fpControl ⟨4, f.word 0x65#8 0x13#7⟩ f (fun w m => fstatDisable w (m.extractLsb' 0 5)) s

/-- DFRM (44 R630). -/
def execDfrm (f : Fmt.F1) (s : State) : Outcome :=
  fpControl ⟨4, f.word 0x65#8 0x14#7⟩ f (fun w m => fstatSetRm w (m.extractLsb' 0 3)) s

/-- DFSTAT (44 R630). -/
def execDfstat (f : Fmt.F1) (s : State) : Outcome :=
  fpStatus ⟨4, f.word 0x65#8 0x0C#7⟩ f s

end Sys2Proof.Machine
end

