-- ==== Sys2Proof/Machine/LoadStore.lean ====
section
/-! DEFINITION. Loads, stores, address and cache instructions (45_load_store). -/

namespace Sys2Proof.Machine

/-! ### Effective addresses -/

/-- `ea` of the displacement format (R661). -/
def addressLSD (f : Fmt.LSD) (s : State) : Word := s.reg f.ra + sext f.disp

/-- `ea` of the short displacement format (R662). -/
def addressLSDS (f : Fmt.LSDS) (s : State) : Word := s.reg f.ra + sext f.disp

/-- `ea` of the store-register long format (R664). -/
def addressLSR (f : Fmt.LSR) (s : State) : Word := s.reg f.ra + sext (f.dispHi ++ f.dispLo)

/-- `ea` of the scaled indexed format for an index value (R663). -/
def addressLSX (f : Fmt.LSX) (s : State) (b : Word) : Word := s.reg f.ra + (b <<< f.sc.toNat) + sext f.disp

/-- y of the vector loop at element x: x, or the number of enabled elements below x when C = 1 (R667). A loop that
starts at D_VSTEP above 0 has the same y at x as one that starts at 0: it counts from element 0 of the mask as it is now,
so a resumed access goes on at the address where it stopped. 48 R884 changes only the start of x and does not say
what y starts at: DESIGN CHOICE (log 36). -/
def elementRank (c : BitVec 1) (mask : Word) (x : Nat) : Nat :=
  if c = 1#1 then ((List.range x).filter fun k => mask.getLsbD k).length else x

/-- n of the vector loop at element x (R667), also in a resumed loop (log 36). -/
def elementIndexValue (f : Fmt.LSX) (mask : Word) (x : Nat) (s : State) : Word :=
  match opnd f.tb f.rb with
  | .vec n => s.vec n x
  | b => b.element s x * BitVec.ofNat 64 (elementRank f.c mask x)

/-! ### What an access moves -/

/-- The register, or the element of a vector register, that an access reads or writes: `none` is the scalar form. -/
abbrev Lane := Option Nat

/-- r[n] or v[n][x]. -/
def State.readLane (s : State) (l : Lane) (n : RegNum) : Word :=
  match l with
  | none => s.reg n
  | some x => s.vec n x

/-- Writes r[n] or v[n][x]. -/
def State.writeLane (s : State) (l : Lane) (n : RegNum) (w : Word) : State :=
  match l with
  | none => s.setReg n w
  | some x => s.setVec n x w

/-- One access: the lane, the register and the segment it names, and its address. -/
abbrev Move := Lane → RegNum → BitVec 3 → Word → State → Res Unit

/-- A load of n bytes, extended (R665). -/
def loadMove (n : Nat) (ext : Word → Word) : Move := fun l rt sel ea s =>
  (s.memRead sel.toNat ea n).bind fun w s1 => .ok () (s1.writeLane l rt (ext w))

/-- A store of the low n bytes (R665). -/
def storeMove (n : Nat) : Move := fun l rs sel ea s => s.memWrite sel.toNat ea n (s.readLane l rs)

/-- The linear address, without an access (R700). -/
def linearMove : Move := fun l rt sel ea s =>
  let u := s.linear sel.toNat ea
  .ok () (u.2.writeLane l rt u.1)

/-- The high half of a linear address is 0 (R700, D56). -/
def linearHighMove : Move := fun l rt _ _ s => .ok () (s.writeLane l rt 0)

/-- The octa v is stored if a reservation exists at ea, which is then cleared (R716, D22). -/
def State.storeConditional (s : State) (sel : BitVec 3) (ea v : Word) : Res Unit :=
  if s.resv = some ea then (s.memWrite sel.toNat ea 8 v).bind fun _ s1 => .ok () { s1 with resv := none }
  else .ok () { s with resv := none }

/-- A conditional store (R716). -/
def conditionalMove8 : Move := fun l rs sel ea s => s.storeConditional sel ea (s.readLane l rs)

/-- M_CR0 with DCE replaced (10_state R93). -/
def setDataCacheEnable (cr0 : Word) (b : Bool) : Word :=
  cr0.extractLsb' 31 33 ++ BitVec.ofBool b ++ cr0.extractLsb' 0 30

/-- The data cache command (R725): 1 enables, 2 disables; invalidation changes no value a load returns
(20_memory R215). -/
def State.dataCacheCommand (s : State) (dc : BitVec 3) : State :=
  if dc = 1#3 then { s with csr := { s.csr with cr0 := setDataCacheEnable s.csr.cr0 true } }
  else if dc = 2#3 then { s with csr := { s.csr with cr0 := setDataCacheEnable s.csr.cr0 false } }
  else s

/-- IC = 3: the line of the physical address that a virtual address stands for; with no translation there is no
line (R725, 20_memory R216). -/
def State.invalidateAt (s : State) (sel : BitVec 3) (ea : Word) : State :=
  let u := s.linear sel.toNat ea
  if u.2.translates u.1 then
    match u.2.tlbLookup u.1 with
    | (none, s1) => s1
    | (some w, s1) =>
      s1.invalidateLine (tlbPhysical (s1.tlbEntry w (u.1.extractLsb' 12 10).toNat) u.1).toNat
  else u.2.invalidateLine u.1.toNat

/-- The instruction cache command (R725). The numbers 1 and 2, which R725 does not list for the instruction cache and does
not call reserved, do nothing, as the reserved ones. DEDUCED (log 41). -/
def State.instructionCacheCommand (s : State) (ic : BitVec 3) (sel : BitVec 3) (ea : Word) : State :=
  if ic = 3#3 then s.invalidateAt sel ea else if ic = 4#3 then s.invalidateAll else s

/-- A cache command: DC3 and IC3 stand in the register field (R725). Reserved commands do nothing. -/
def cacheMove : Move := fun _ field sel ea s =>
  .ok () ((s.instructionCacheCommand (field.extractLsb' 0 3) sel ea).dataCacheCommand (field.extractLsb' 3 3))

/-! ### The formats -/

/-- The displacement format (R661). -/
def moveLSD (c : Ctx) (f : Fmt.LSD) (act : Move) (s : State) : Outcome :=
  finishSeq c (act none f.rt f.sel (addressLSD f s) s)

/-- The short displacement format (R662). -/
def moveLSDS (c : Ctx) (f : Fmt.LSDS) (act : Move) (s : State) : Outcome :=
  finishSeq c (act none f.rt f.sel (addressLSDS f s) s)

/-- The store-register long format (R664): the value stored is the Tb/Rb operand. -/
def moveLSR (c : Ctx) (f : Fmt.LSR) (act : BitVec 3 → Word → Word → State → Res Unit) (s : State) : Outcome :=
  finishSeq c <|
    match (opnd f.tb f.rb).scalar s with
    | some b => act f.sel (addressLSR f s) b s
    | none => .stop (.refuse .vectorOperandInScalar)

/-- The scaled indexed format before the sequential advance (R663, R667): `off` is what a disabled element does. -/
def indexedMove (f : Fmt.LSX) (act : Move) (off : Nat → State → State) (s : State) : Res Unit :=
  if f.v = 1#1 then
    s.vectorLoop f.m
      (fun x s1 => act (some x) f.rt f.sel (addressLSX f s1 (elementIndexValue f (s.mask f.m) x s1)) s1) off
  else
    match (opnd f.tb f.rb).scalar s with
    | some b => act none f.rt f.sel (addressLSX f s b) s
    | none => .stop (.refuse .vectorOperandInScalar)

/-- A load or address instruction in the indexed format: z zeroes disabled elements (R667). -/
def loadLSX (c : Ctx) (f : Fmt.LSX) (act : Move) (s : State) : Outcome :=
  finishSeq c (indexedMove f act (zeroing f.z f.rt) s)

/-- A store in the indexed format: a disabled element stores nothing (R667). -/
def storeLSX (c : Ctx) (f : Fmt.LSX) (act : Move) (s : State) : Outcome :=
  finishSeq c (indexedMove f act (fun _ s1 => s1) s)

/-- The extensions of a loaded value (R670 to R676). -/
def extB (w : Word) : Word := sext (w.extractLsb' 0 8)
def extBU (w : Word) : Word := zext (w.extractLsb' 0 8)
def extW (w : Word) : Word := sext (w.extractLsb' 0 16)
def extWU (w : Word) : Word := zext (w.extractLsb' 0 16)
def extT (w : Word) : Word := sext (w.extractLsb' 0 32)
def extTU (w : Word) : Word := zext (w.extractLsb' 0 32)
def extO (w : Word) : Word := w

/-! ### The meanings -/

/-- LDB (45 R670). -/
def execLdb (f : Fmt.LSD) (s : State) : Outcome :=
  moveLSD ⟨6, f.word 0x80#8⟩ f (loadMove 1 extB) s

/-- LDBU (45 R671). -/
def execLdbu (f : Fmt.LSD) (s : State) : Outcome :=
  moveLSD ⟨6, f.word 0x81#8⟩ f (loadMove 1 extBU) s

/-- LDW (45 R672). -/
def execLdw (f : Fmt.LSD) (s : State) : Outcome :=
  moveLSD ⟨6, f.word 0x82#8⟩ f (loadMove 2 extW) s

/-- LDWU (45 R673). -/
def execLdwu (f : Fmt.LSD) (s : State) : Outcome :=
  moveLSD ⟨6, f.word 0x83#8⟩ f (loadMove 2 extWU) s

/-- LDT (45 R674). -/
def execLdt (f : Fmt.LSD) (s : State) : Outcome :=
  moveLSD ⟨6, f.word 0x84#8⟩ f (loadMove 4 extT) s

/-- LDTU (45 R675). -/
def execLdtu (f : Fmt.LSD) (s : State) : Outcome :=
  moveLSD ⟨6, f.word 0x85#8⟩ f (loadMove 4 extTU) s

/-- LDO (45 R676). -/
def execLdo (f : Fmt.LSD) (s : State) : Outcome :=
  moveLSD ⟨6, f.word 0x86#8⟩ f (loadMove 8 extO) s

/-- LDOS (45 R677). -/
def execLdos (f : Fmt.LSDS) (s : State) : Outcome :=
  moveLSDS ⟨4, f.word 0x87#8⟩ f (loadMove 8 extO) s

/-- LDBX (45 R680). -/
def execLdbx (f : Fmt.LSX) (s : State) : Outcome :=
  loadLSX ⟨6, f.word 0xB0#8⟩ f (loadMove 1 extB) s

/-- LDBUX (45 R681). -/
def execLdbux (f : Fmt.LSX) (s : State) : Outcome :=
  loadLSX ⟨6, f.word 0xB1#8⟩ f (loadMove 1 extBU) s

/-- LDWX (45 R682). -/
def execLdwx (f : Fmt.LSX) (s : State) : Outcome :=
  loadLSX ⟨6, f.word 0xB2#8⟩ f (loadMove 2 extW) s

/-- LDWUX (45 R683). -/
def execLdwux (f : Fmt.LSX) (s : State) : Outcome :=
  loadLSX ⟨6, f.word 0xB3#8⟩ f (loadMove 2 extWU) s

/-- LDTX (45 R684). -/
def execLdtx (f : Fmt.LSX) (s : State) : Outcome :=
  loadLSX ⟨6, f.word 0xB4#8⟩ f (loadMove 4 extT) s

/-- LDTUX (45 R685). -/
def execLdtux (f : Fmt.LSX) (s : State) : Outcome :=
  loadLSX ⟨6, f.word 0xB5#8⟩ f (loadMove 4 extTU) s

/-- LDOX (45 R686). -/
def execLdox (f : Fmt.LSX) (s : State) : Outcome :=
  loadLSX ⟨6, f.word 0xB6#8⟩ f (loadMove 8 extO) s

/-- LLAL (45 R700). -/
def execLlal (f : Fmt.LSD) (s : State) : Outcome :=
  moveLSD ⟨6, f.word 0x88#8⟩ f linearMove s

/-- LLAH (45 R700). -/
def execLlah (f : Fmt.LSD) (s : State) : Outcome :=
  moveLSD ⟨6, f.word 0x89#8⟩ f linearHighMove s

/-- LLALX (45 R701). -/
def execLlalx (f : Fmt.LSX) (s : State) : Outcome :=
  loadLSX ⟨6, f.word 0xB8#8⟩ f linearMove s

/-- LLAHX (45 R701). -/
def execLlahx (f : Fmt.LSX) (s : State) : Outcome :=
  loadLSX ⟨6, f.word 0xB9#8⟩ f linearHighMove s

/-- LIN2PHL (45 R702). -/
def execLin2phl (f : Fmt.R3) (s : State) : Outcome :=
  run ⟨6, f.word 0x02#8 0x36#7⟩ (operandsR3 f) (fun x a _ _ s1 =>
    let u := s1.linearToPhysical a x
    .ok u.1 u.2) s

/-- LIN2PHH (45 R702). -/
def execLin2phh (f : Fmt.R3) (s : State) : Outcome :=
  compute ⟨6, f.word 0x02#8 0x37#7⟩ (operandsR3 f) (fun _ _ _ => 0) s

/-- STB (45 R705). -/
def execStb (f : Fmt.LSD) (s : State) : Outcome :=
  moveLSD ⟨6, f.word 0x90#8⟩ f (storeMove 1) s

/-- STW (45 R706). -/
def execStw (f : Fmt.LSD) (s : State) : Outcome :=
  moveLSD ⟨6, f.word 0x91#8⟩ f (storeMove 2) s

/-- STT (45 R707). -/
def execStt (f : Fmt.LSD) (s : State) : Outcome :=
  moveLSD ⟨6, f.word 0x92#8⟩ f (storeMove 4) s

/-- STO (45 R708). -/
def execSto (f : Fmt.LSD) (s : State) : Outcome :=
  moveLSD ⟨6, f.word 0x93#8⟩ f (storeMove 8) s

/-- STOS (45 R709). -/
def execStos (f : Fmt.LSDS) (s : State) : Outcome :=
  moveLSDS ⟨4, f.word 0x95#8⟩ f (storeMove 8) s

/-- STBX (45 R710). -/
def execStbx (f : Fmt.LSX) (s : State) : Outcome :=
  storeLSX ⟨6, f.word 0xC0#8⟩ f (storeMove 1) s

/-- STWX (45 R711). -/
def execStwx (f : Fmt.LSX) (s : State) : Outcome :=
  storeLSX ⟨6, f.word 0xC1#8⟩ f (storeMove 2) s

/-- STTX (45 R712). -/
def execSttx (f : Fmt.LSX) (s : State) : Outcome :=
  storeLSX ⟨6, f.word 0xC2#8⟩ f (storeMove 4) s

/-- STOX (45 R713). -/
def execStox (f : Fmt.LSX) (s : State) : Outcome :=
  storeLSX ⟨6, f.word 0xC3#8⟩ f (storeMove 8) s

/-- STWL (45 R714). -/
def execStwl (f : Fmt.LSR) (s : State) : Outcome :=
  moveLSR ⟨6, f.word 0xE1#8⟩ f (fun sel ea b s1 => s1.memWrite sel.toNat ea 2 b) s

/-- STTL (45 R714). -/
def execSttl (f : Fmt.LSR) (s : State) : Outcome :=
  moveLSR ⟨6, f.word 0xE2#8⟩ f (fun sel ea b s1 => s1.memWrite sel.toNat ea 4 b) s

/-- STOL (45 R714). -/
def execStol (f : Fmt.LSR) (s : State) : Outcome :=
  moveLSR ⟨6, f.word 0xE3#8⟩ f (fun sel ea b s1 => s1.memWrite sel.toNat ea 8 b) s

/-- STOC (45 R716). -/
def execStoc (f : Fmt.LSD) (s : State) : Outcome :=
  moveLSD ⟨6, f.word 0x94#8⟩ f conditionalMove8 s

/-- STOCL (45 R717). -/
def execStocl (f : Fmt.LSR) (s : State) : Outcome :=
  moveLSR ⟨6, f.word 0xE4#8⟩ f (fun sel ea b s1 => s1.storeConditional sel ea b) s

/-- STOCX (45 R718). -/
def execStocx (f : Fmt.LSX) (s : State) : Outcome :=
  storeLSX ⟨6, f.word 0xC4#8⟩ f conditionalMove8 s

/-- CACHE (45 R725). -/
def execCache (f : Fmt.LSD) (s : State) : Outcome :=
  moveLSD ⟨6, f.word 0x9F#8⟩ f (fun l n sel ea s1 => s1.machineOnly .cache (cacheMove l n sel ea s1)) s

/-- CACHEX (45 R726). -/
def execCachex (f : Fmt.LSX) (s : State) : Outcome :=
  finishSeq ⟨6, f.word 0xCF#8⟩ (s.machineOnly .cachex (indexedMove f cacheMove (fun _ s1 => s1) s))

end Sys2Proof.Machine
end

