-- ==== Sys2Proof/Machine/System.lean ====
section
/-! DEFINITION. System instructions: traps and returns, interrupts, barriers, selectors, hardware queues and the TLB
(47_system). -/

namespace Sys2Proof.Machine

open Sys2Proof.Config

/-! ### The format -/

/-- An OSR2 instruction that uses B, after the MACHINE_ONLY check (R820, R821). -/
def withB (c : Ctx) (f : Fmt.OSR2) (op : SysOp) (act : Word → State → Res Unit) (s : State) : Outcome :=
  finishSeq c (s.machineOnly op (match (opnd f.tb f.rb).scalar s with
    | some b => act b s
    | none => .stop (.refuse .vectorOperandInScalar)))

/-- The same for the instructions that R821 settles itself. -/
def withOperandB (f : Fmt.OSR2) (act : Word → State → Outcome) (s : State) : Outcome :=
  match (opnd f.tb f.rb).scalar s with
  | some b => act b s
  | none => .refused .vectorOperandInScalar

/-! ### Traps and interrupts by instruction -/

/-- The current entry of PMSTACK with its IPL replaced (10_state R104, R828). -/
def setIpl (pm : Word) (l : BitVec 3) : Word := pm.extractLsb' 4 60 ++ l ++ pm.extractLsb' 0 1

/-- The current entry of PMSTACK with its OM replaced (10_state R104, R843). -/
def setOm (pm : Word) (m : BitVec 2) : Word := pm.extractLsb' 6 58 ++ m ++ pm.extractLsb' 0 4

/-- The trap of SYS, INT, BRK and PFI: nothing of the instruction's fetch stays (60 R1004). -/
def State.softTrap (s : State) (c : Ctx) (cause : BitVec 8) (epc : Word) (level : Option (BitVec 3))
    (debug interrupt : Bool) : Outcome :=
  (s.abandonFetch.takeTrap ⟨cause, epc, level, none, c.bits, debug, interrupt⟩).outcome

/-- PFI takes the request that is present, whatever IM, IPL and di_count say (R827). -/
def pollInterrupt (c : Ctx) (rt : RegNum) (s : State) : Outcome :=
  if s.inputs.irqLevel = 0#3 then next c s
  else
    (s.setReg rt (zext (s.inputs.irqLevel ++ s.inputs.irqCause))).softTrap c s.inputs.irqCause s.ip
      (some s.inputs.irqLevel) false true

/-! ### Redirection (R843) -/

/-- cause and badaddr of the current mode are copied to the target mode, which becomes the operating mode. -/
def State.redirect (s : State) (tm : BitVec 2) : State :=
  { s with
    mode := { s.mode with pmStack := setOm s.mode.pmStack tm }
    csr := { s.csr with
      cause := s.csr.cause.set tm.toNat (s.csr.cause.get s.om.toFin) tm.isLt
      badaddr := s.csr.badaddr.set tm.toNat (s.csr.badaddr.get s.om.toFin) tm.isLt } }

/-- REX to mode tm. -/
def redirectException (c : Ctx) (tm : BitVec 2) (s : State) : Outcome :=
  if tm = 3#2 then .refused .reservedMode
  else if s.om ≤ tm then s.raise c (.plain causePRIV)
  else if s.csr.ie.getLsbD tm.toNat then
    let u := s.useTvec tm
    finish c ((u.2.redirect tm).jumpFar u.1)
  else next c s

/-! ### Hardware queues (R835 to R840) -/

/-- The queue that B names. -/
def queueNumber (b : Word) : BitVec 4 := b.extractLsb' 0 4

/-- Queue q, oldest entry first. -/
def State.queue (s : State) (q : BitVec 4) : List (BitVec 112) := s.queues.get q.toFin

/-- Replaces queue q. -/
def State.setQueue (s : State) (q : BitVec 4) (l : List (BitVec 112)) : State :=
  { s with queues := s.queues.set q.toNat l q.isLt }

/-- The low n bits of an entry. -/
def entryBits (n : Nat) (e : BitVec 112) : BitVec 112 := e &&& ((1#112 <<< n) - 1)

/-- An entry reaches the end of queue q; a full queue gets an unspecified content within its width and depth
(R835, 93 U40). -/
def State.append (s : State) (q : BitVec 4) (e : BitVec 112) : State :=
  let depth := s.config.qdepth.get q.toFin
  if (s.queue q).length < depth then s.setQueue q (s.queue q ++ [e])
  else (s.setQueue q (((freeQueue s.draw).take depth).map (entryBits (s.config.qwidth.get q.toFin)))).fresh

/-- PUSHQ: at most 64 bits come from A. -/
def State.push (s : State) (q : BitVec 4) (a : Word) : State :=
  s.append q (entryBits (min 64 (s.config.qwidth.get q.toFin)) (a.setWidth 112))

/-- The low 64 bits of the head of queue q, a free value when it is empty (R837, 93 U40). -/
def State.queueHead (s : State) (q : BitVec 4) : Word :=
  match s.queue q with
  | [] => s.free 0
  | e :: _ => e.extractLsb' 0 64

/-- XD of STATQ (R839). -/
def State.queueHigh (s : State) (q : BitVec 4) : BitVec 48 :=
  match s.queue q with
  | [] => (s.free 0).extractLsb' 0 48
  | e :: _ => if s.config.qwidth.get q.toFin ≤ 64 then 0 else e.extractLsb' 64 48

/-- The status of queue q (R839). -/
def State.queueStatus (s : State) (q : BitVec 4) : Word :=
  let empty := BitVec.ofBool (s.queue q).isEmpty
  empty ++ ~~~empty ++ BitVec.ofNat 14 (s.queue q).length ++ s.queueHigh q

/-! ### TLB (R850) -/

/-- The way that TLBRW reads and writes: bits 11:10 of A, or any way when bit 15 is set. The choice is a number of its own,
1, of the instruction's draw: no other choice, before it or after it, is tied to it (93 U51, log 6). -/
def tlbWay (s : State) (a : Word) : Nat :=
  if a.getLsbD 15 then freeChoice s.draw 1 % 4 else (a.extractLsb' 10 2).toNat

/-- TLBRW. -/
def State.tlbReadWrite (s : State) (rt : RegNum) (a b : Word) : State :=
  let e := (a.extractLsb' 0 10).toNat
  let s1 := s.setReg rt (s.tlbEntry (tlbWay s a) e)
  if a.getLsbD 63 then s1.setTlbEntry (tlbWay s a) e b else s1

/-! ### The meanings -/

/-- BRK (47 R823). -/
def execBrk (f : Fmt.S16) (s : State) : Outcome :=
  s.softTrap ⟨2, f.word 0x00#8⟩ s.config.fltBrk s.ip none true false

/-- SYS (47 R824). -/
def execSys (f : Fmt.SYS) (s : State) : Outcome :=
  s.softTrap ⟨4, f.word 0xA5#8⟩ f.cause (nextIp s.ip 4) none false false

/-- INT (47 R825). -/
def execInt (f : Fmt.INT) (s : State) : Outcome :=
  if f.lvl ≤ s.ipl then next ⟨4, f.word 0xA6#8⟩ s
  else s.softTrap ⟨4, f.word 0xA6#8⟩ f.cause s.ip (some f.lvl) false true

/-- DI (47 R826). -/
def execDi (f : Fmt.OSR2) (s : State) : Outcome :=
  withB ⟨6, f.word 0x07#8 0x16#7⟩ f .di (fun b s1 => .ok () { s1 with mode := { s1.mode with diCount := b.extractLsb' 0 3 } }) s

/-- PFI (47 R827). -/
def execPfi (f : Fmt.OSR2) (s : State) : Outcome :=
  if .pfi ∈ s.config.machineOnly ∧ s.om ≠ 3#2 then s.raise ⟨6, f.word 0x07#8 0x11#7⟩ (.plain causePRIV)
  else pollInterrupt ⟨6, f.word 0x07#8 0x11#7⟩ f.rt s

/-- SEI (47 R828). -/
def execSei (f : Fmt.OSR2) (s : State) : Outcome :=
  withOperandB f (fun b s1 =>
    finishSeq ⟨6, f.word 0x07#8 0x17#7⟩ (if s1.om ≠ 3#2 then .trap (.plain causePRIV) s1
      else
        let s2 := s1.setReg f.rt (zext s1.ipl)
        .ok () { s2 with mode := { s2.mode with pmStack := setIpl s2.mode.pmStack (b.extractLsb' 0 3) } })) s

/-- WFI (47 R829). With no request the core waits at the WFI; the step completes it (log 9). -/
def execWfi (f : Fmt.S16) (s : State) : Outcome :=
  if .wfi ∈ s.config.machineOnly ∧ s.om ≠ 3#2 then s.raise ⟨2, f.word 0xFA#8⟩ (.plain causePRIV)
  else if s.inputs.irqLevel = 0#3 ∧ s.inputs.nmi = false then
    .next { s with mode := { s.mode with waiting := true } }
  else next ⟨2, f.word 0xFA#8⟩ s

/-- MEMDB (47 R830). The model already makes every access in order (20_memory R221). -/
def execMemdb (f : Fmt.S16) (s : State) : Outcome :=
  next ⟨2, f.word 0xF9#8⟩ s

/-- MEMSB (47 R831). -/
def execMemsb (f : Fmt.S16) (s : State) : Outcome :=
  next ⟨2, f.word 0xF8#8⟩ s.memsb

/-- SYNC (47 R848). -/
def execSync (f : Fmt.S16) (s : State) : Outcome :=
  next ⟨2, f.word 0xF7#8⟩ s.sync

/-- MFSEL (47 R832). -/
def execMfsel (f : Fmt.OSR2) (s : State) : Outcome :=
  withB ⟨6, f.word 0x07#8 0x28#7⟩ f .mfsel (fun b s1 =>
    if 18 < b.toNat then .stop (.refuse .selectorNumber)
    else
      let u := s1.useSelector b.toNat
      .ok () (u.2.setReg f.rt (zext u.1.sel))) s

/-- MTSEL (47 R833). -/
def execMtsel (f : Fmt.OSR2) (s : State) : Outcome :=
  withB ⟨6, f.word 0x07#8 0x29#7⟩ f .mtsel (fun b s1 => s1.writeSelector b.toNat ((s1.reg f.ra).extractLsb' 0 32)) s

/-- PUSHQ (47 R836). -/
def execPushq (f : Fmt.OSR2) (s : State) : Outcome :=
  withB ⟨6, f.word 0x07#8 0x08#7⟩ f .pushq (fun b s1 => .ok () (s1.push (queueNumber b) (s1.reg f.ra))) s

/-- POPQ (47 R837). -/
def execPopq (f : Fmt.OSR2) (s : State) : Outcome :=
  withB ⟨6, f.word 0x07#8 0x09#7⟩ f .popq (fun b s1 =>
    let q := queueNumber b
    .ok () ((s1.setQueue q (s1.queue q).tail).setReg f.rt (s1.queueHead q))) s

/-- PEEKQ (47 R838). -/
def execPeekq (f : Fmt.OSR2) (s : State) : Outcome :=
  withB ⟨6, f.word 0x07#8 0x0A#7⟩ f .peekq (fun b s1 => .ok () (s1.setReg f.rt (s1.queueHead (queueNumber b)))) s

/-- STATQ (47 R839). -/
def execStatq (f : Fmt.OSR2) (s : State) : Outcome :=
  withB ⟨6, f.word 0x07#8 0x0B#7⟩ f .statq (fun b s1 => .ok () (s1.setReg f.rt (s1.queueStatus (queueNumber b)))) s

/-- RESETQ (47 R840). -/
def execResetq (f : Fmt.OSR2) (s : State) : Outcome :=
  withB ⟨6, f.word 0x07#8 0x0C#7⟩ f .resetq (fun b s1 => .ok () (s1.setQueue (queueNumber b) [])) s

/-- REX (47 R843). -/
def execRex (f : Fmt.OSR2) (s : State) : Outcome :=
  if .rex ∈ s.config.machineOnly ∧ s.om ≠ 3#2 then s.raise ⟨6, f.word 0x07#8 0x10#7⟩ (.plain causePRIV)
  else redirectException ⟨6, f.word 0x07#8 0x10#7⟩ (f.rt.extractLsb' 0 2) s

/-- RTE (47 R844). -/
def execRte (f : Fmt.OSR2) (s : State) : Outcome :=
  withOperandB f (fun b s1 =>
    if s1.om = 0#2 then s1.raise ⟨6, f.word 0x07#8 0x13#7⟩ (.plain causePRIV)
    else finish ⟨6, f.word 0x07#8 0x13#7⟩ (s1.returnFromTrap (f.ra ++ f.rt) (b.extractLsb' 0 6))) s

/-- TLBRW (47 R850). -/
def execTlbrw (f : Fmt.OSR2) (s : State) : Outcome :=
  withB ⟨6, f.word 0x07#8 0x1E#7⟩ f .tlbrw (fun b s1 => .ok () (s1.tlbReadWrite f.rt (s1.reg f.ra) b)) s

end Sys2Proof.Machine
end

