-- ==== Sys2Proof/Machine/Vector.lean ====
section
/-! DEFINITION. The instructions that exist only for vectors, and the mask register and vector length instructions
(48_vector sections 3 and 4). -/

namespace Sys2Proof.Machine

open Sys2Proof.Config

/-! ### Loops that carry a value from element to element -/

/-- The number of enabled elements from `lo` up to but not including `x`: the counter y of VGIDX and VCMPRSS, and the
number of terms of VSCAN's sum. A resumed loop starts it at 0 again (R884 e, log 36). -/
def enabledBetween (mask : Word) (lo x : Nat) : Nat :=
  ((List.range (x - lo)).filter fun k => mask.getLsbD (lo + k)).length

/-- A vector loop that acts on every element from D_VSTEP to VL - 1, whatever its mask bit. VSLLV and VSRLV too leave
the elements below D_VSTEP alone, although the printed loop of VSLLV runs down from VL - 1 and R884 a speaks of one that
starts at 0 (DESIGN CHOICE, log 36). -/
def State.everyElement (s : State) (act : Nat → State → State) : Res Unit :=
  let u := s.useVl
  let start := s.csr.vstep.toNat
  (elementLoop (BitVec.allOnes 64) (fun x s1 => .ok () (act x s1)) (fun _ s1 => s1) (u.1.toNat - start) start
    u.2).bind fun _ s1 => .ok () (s1.setVstep 0)

/-- A vector loop that acts on the enabled elements only. -/
def State.enabledElements (s : State) (m : BitVec 3) (act : Nat → State → State) : Res Unit :=
  s.vectorLoop m (fun x s1 => .ok () (act x s1)) (fun _ s1 => s1)

/-- A word with one bit replaced. -/
def setBit (w : Word) (x : Nat) (b : Bool) : Word :=
  (w &&& ~~~(1#64 <<< x)) ||| ((BitVec.ofBool b).setWidth 64 <<< x)

/-- The scalar value of Rb, or the stop of a vector register in its place (R885, R891, R893, R896). -/
def withScalarB (c : Ctx) (f : Fmt.R3) (act : Word → State → Res Unit) (s : State) : Outcome :=
  finishSeq c (match (opnd f.tb f.rb).scalar s with
    | some b => act b s
    | none => .stop (.refuse .vectorOperandInScalar))

/-! ### The rules -/

/-- V2BITS: bit n of each enabled element goes to the target's bit of the element's number (R885). -/
def vectorToBits (f : Fmt.R3) (b : Word) (s : State) : Res Unit :=
  let n := (b.extractLsb' 0 6).toNat
  let put := fun (x : Nat) (v : Bool) (s1 : State) => s1.setReg f.rt (setBit (s1.reg f.rt) x v)
  s.vectorLoop f.m (fun x s1 => .ok () (put x ((s1.vec f.ra x).getLsbD n) s1))
    (fun x s1 => if f.z = 1#1 then put x false s1 else s1)

/-- VGIDX: packed multiples of A plus B (R891). -/
def generateIndex (f : Fmt.R3) (b : Word) (s : State) : Res Unit :=
  let a := zext ((s.reg f.ra).extractLsb' 0 24)
  s.enabledElements f.m fun x s1 =>
    let y := enabledBetween (s.mask f.m) s.csr.vstep.toNat x
    s1.setVec f.rt y (a * BitVec.ofNat 64 y + b)

/-- VCMPRSS: the enabled elements are packed (R892). -/
def compressVector (f : Fmt.R1) (s : State) : Res Unit :=
  s.enabledElements f.m fun x s1 =>
    s1.setVec f.rt (enabledBetween (s.mask f.m) s.csr.vstep.toNat x) (s1.vec f.ra x)

/-- VSCAN: the exclusive running sum of A over the enabled elements (R895). -/
def runningSum (f : Fmt.R1) (s : State) : Res Unit :=
  s.everyElement fun x s1 =>
    s1.setVec f.rt x (s.reg f.ra * BitVec.ofNat 64 (enabledBetween (s.mask f.m) s.csr.vstep.toNat x))

/-- VSLLV: element x receives element x - Amt, or 0 (R896). -/
def slideUp (f : Fmt.R3) (b : Word) (s : State) : Res Unit :=
  s.everyElement fun x s1 => s1.setVec f.rt x (if b.toNat ≤ x then s.vec f.ra (x - b.toNat) else 0)

/-- VSRLV: element x receives element x + Amt below VL, or 0 (R896). -/
def slideDown (f : Fmt.R3) (b : Word) (s : State) : Res Unit :=
  let vl := s.useVl.1.toNat
  s.everyElement fun x s1 => s1.setVec f.rt x (if x + b.toNat < vl then s.vec f.ra (x + b.toNat) else 0)

/-- VEINS (R893). -/
def insertElement (f : Fmt.R3) (b : Word) (s : State) : Res Unit :=
  let n := (s.reg f.ra).toNat
  if n < s.config.vlmax then .ok () (s.setVec f.rt n b) else .stop (.refuse .elementIndex)

/-- VEX (R894). -/
def extractElement (f : Fmt.R3) (s : State) : Res Unit :=
  let n := (s.reg f.ra).toNat
  if f.tb.getLsbD 1 then .stop (.refuse .immediateVectorOperand)
  else if n < s.config.vlmax then .ok () (s.setReg f.rt (s.vec f.rb n))
  else .stop (.refuse .elementIndex)

/-! ### Mask registers and the vector length -/

/-- The Ra6 of the mask group, bits 17:12 (R897, R899). -/
def Fmt.VM.ra (f : Fmt.VM) : RegNum := f.hi ++ f.mid

/-- The Rt6 of the mask group, bits 14:9 (R898, R900). -/
def Fmt.VM.rt (f : Fmt.VM) : RegNum := f.mid ++ f.lo

/-- The number of set bits (R913). -/
def maskCount (w : Word) : Word := BitVec.ofNat 64 ((List.range 64).filter fun i => w.getLsbD i).length

/-- The index of the lowest set bit, or 65536 (R914). -/
def maskFirst (w : Word) : Word :=
  match (List.range 64).find? fun i => w.getLsbD i with
  | some i => BitVec.ofNat 64 i
  | none => 65536

/-- The index of the highest set bit, or 65536 (R915). -/
def maskLast (w : Word) : Word :=
  match (List.range 64).find? fun i => w.getLsbD (63 - i) with
  | some i => BitVec.ofNat 64 (63 - i)
  | none => 65536

/-- Ones from Mb to Me inclusive; a free value for Mb > Me (R918, 93 U32). -/
def maskRange (free : Word) (mb me : BitVec 6) : Word :=
  if me < mb then free else bitsOf (fun i => decide (mb.toNat ≤ i) && decide (i ≤ me.toNat)) 64

/-- A mask instruction of two masks: Vmb 17:15, Vma 14:12, Vmt 11:9 (R905). -/
def maskBinary (c : Ctx) (f : Fmt.VM) (g : Word → Word → Word) (s : State) : Outcome :=
  next c (s.setMask f.lo (g (s.mask f.mid) (s.mask f.hi)))

/-- A mask instruction with a scalar result: Vmb 17:15, Rt 14:9 (R898). -/
def maskToReg (c : Ctx) (f : Fmt.VM) (g : Word → Word) (s : State) : Outcome :=
  next c (s.setReg (Fmt.VM.rt f) (g (s.mask f.hi)))

/-! ### The meanings -/

/-- V2BITS (48 R885). -/
def execV2bits (f : Fmt.R3) (s : State) : Outcome :=
  withScalarB ⟨6, f.word 0x02#8 0x3D#7⟩ f (vectorToBits f) s

/-- VBITS2V (48 R890). -/
def execVbits2v (f : Fmt.R3) (s : State) : Outcome :=
  run ⟨6, f.word 0x02#8 0x3E#7⟩ ⟨f.v, f.z, f.m, f.rt, .gpr f.ra, noSrc, noSrc⟩
    (fun x a _ _ s1 => .ok (ofProp (a.getLsbD x)) s1) s

/-- VGIDX (48 R891). -/
def execVgidx (f : Fmt.R3) (s : State) : Outcome :=
  withScalarB ⟨6, f.word 0x02#8 0x3C#7⟩ f (generateIndex f) s

/-- VCMPRSS (48 R892). -/
def execVcmprss (f : Fmt.R1) (s : State) : Outcome :=
  finishSeq ⟨4, f.word 0x01#8 0x2C#7⟩ (compressVector f s)

/-- VEINS (48 R893). -/
def execVeins (f : Fmt.R3) (s : State) : Outcome :=
  withScalarB ⟨6, f.word 0x02#8 0x3B#7⟩ f (insertElement f) s

/-- VEX (48 R894). -/
def execVex (f : Fmt.R3) (s : State) : Outcome :=
  finishSeq ⟨6, f.word 0x02#8 0x3A#7⟩ (extractElement f s)

/-- VSCAN (48 R895). -/
def execVscan (f : Fmt.R1) (s : State) : Outcome :=
  finishSeq ⟨4, f.word 0x01#8 0x1E#7⟩ (runningSum f s)

/-- VSLLV (48 R896). -/
def execVsllv (f : Fmt.R3) (s : State) : Outcome :=
  withScalarB ⟨6, f.word 0x02#8 0x38#7⟩ f (slideUp f) s

/-- VSRLV (48 R896). -/
def execVsrlv (f : Fmt.R3) (s : State) : Outcome :=
  withScalarB ⟨6, f.word 0x02#8 0x39#7⟩ f (slideDown f) s

/-- MTVM (48 R897). -/
def execMtvm (f : Fmt.VM) (s : State) : Outcome :=
  next ⟨4, f.word 0x52#8 0x10#5⟩ (s.setMask f.lo (s.reg (Fmt.VM.ra f)))

/-- MFVM (48 R898). -/
def execMfvm (f : Fmt.VM) (s : State) : Outcome :=
  maskToReg ⟨4, f.word 0x52#8 0x11#5⟩ f (fun m => m) s

/-- MTVL (48 R899). -/
def execMtvl (f : Fmt.VM) (s : State) : Outcome :=
  if s.config.vlmax < (s.reg (Fmt.VM.ra f)).toNat then .refused .vectorLengthTooLarge
  else next ⟨4, f.word 0x52#8 0x12#5⟩ (s.setVl ((s.reg (Fmt.VM.ra f)).extractLsb' 0 8))

/-- MFVL (48 R900). -/
def execMfvl (f : Fmt.VM) (s : State) : Outcome :=
  let u := s.useVl
  next ⟨4, f.word 0x52#8 0x13#5⟩ (u.2.setReg (Fmt.VM.rt f) (zext u.1))

/-- VMADD (48 R905). -/
def execVmadd (f : Fmt.VM) (s : State) : Outcome :=
  maskBinary ⟨4, f.word 0x52#8 0x04#5⟩ f (fun a b => a + b) s

/-- VMSUB (48 R906). -/
def execVmsub (f : Fmt.VM) (s : State) : Outcome :=
  maskBinary ⟨4, f.word 0x52#8 0x05#5⟩ f (fun a b => a - b) s

/-- VMAND (48 R907). -/
def execVmand (f : Fmt.VM) (s : State) : Outcome :=
  maskBinary ⟨4, f.word 0x52#8 0x08#5⟩ f (fun a b => a &&& b) s

/-- VMOR (48 R908). -/
def execVmor (f : Fmt.VM) (s : State) : Outcome :=
  maskBinary ⟨4, f.word 0x52#8 0x09#5⟩ f (fun a b => a ||| b) s

/-- VMXOR (48 R909). -/
def execVmxor (f : Fmt.VM) (s : State) : Outcome :=
  maskBinary ⟨4, f.word 0x52#8 0x0A#5⟩ f (fun a b => a ^^^ b) s

/-- VMCNTPOP (48 R913). -/
def execVmcntpop (f : Fmt.VM) (s : State) : Outcome :=
  maskToReg ⟨4, f.word 0x52#8 0x0D#5⟩ f maskCount s

/-- VMFIRST (48 R914). -/
def execVmfirst (f : Fmt.VM) (s : State) : Outcome :=
  maskToReg ⟨4, f.word 0x52#8 0x0E#5⟩ f maskFirst s

/-- VMLAST (48 R915). -/
def execVmlast (f : Fmt.VM) (s : State) : Outcome :=
  maskToReg ⟨4, f.word 0x52#8 0x0F#5⟩ f maskLast s

/-- VMSLL (48 R916). Bit 19 is the top bit of the count (log 51). -/
def execVmsll (f : Fmt.VMS) (s : State) : Outcome :=
  next ⟨4, f.word 0x52#8 0x0E#4⟩ (s.setMask f.lo (s.mask f.mid <<< f.amount.toNat))

/-- VMSRL (48 R917). Bit 19 is the top bit of the count (log 51). -/
def execVmsrl (f : Fmt.VMS) (s : State) : Outcome :=
  next ⟨4, f.word 0x52#8 0x0F#4⟩ (s.setMask f.lo (s.mask f.mid >>> f.amount.toNat))

/-- VMFILL (48 R918). -/
def execVmfill (f : Fmt.VMF) (s : State) : Outcome :=
  next ⟨4, f.word 0x53#8⟩ (s.setMask f.vmt (maskRange (s.free 0) f.mb f.me))

end Sys2Proof.Machine
end

