-- ==== Sys2Proof/Machine/Dispatch.lean ====
section
/-! DEFINITION. The meaning of every instruction: one arm per constructor of Instr. -/

namespace Sys2Proof.Machine

-- One call per arm; the meanings stand in the family files.
def exec (i : Instr) (s : State) : Host.Outcome State Fault Refusal :=
  match i with
  -- prefixes (30)
  | .exi7 f => Sys2Proof.Machine.execExi7 f s
  | .exi23 f => Sys2Proof.Machine.execExi23 f s
  | .exi41 f => Sys2Proof.Machine.execExi41 f s
  | .exi55 f => Sys2Proof.Machine.execExi55 f s
  -- integer arithmetic (40)
  | .add f => Sys2Proof.Machine.execAdd f s
  | .addS f => Sys2Proof.Machine.execAddS f s
  | .addi f => Sys2Proof.Machine.execAddi f s
  | .addil f => Sys2Proof.Machine.execAddil f s
  | .ldi f => Sys2Proof.Machine.execLdi f s
  | .sub f => Sys2Proof.Machine.execSub f s
  | .subfi f => Sys2Proof.Machine.execSubfi f s
  | .neg f => Sys2Proof.Machine.execNeg f s
  | .mul f => Sys2Proof.Machine.execMul f s
  | .mulh f => Sys2Proof.Machine.execMulh f s
  | .muli f => Sys2Proof.Machine.execMuli f s
  | .mulf f => Sys2Proof.Machine.execMulf f s
  | .mulfi f => Sys2Proof.Machine.execMulfi f s
  | .div f => Sys2Proof.Machine.execDiv f s
  | .divi f => Sys2Proof.Machine.execDivi f s
  | .divil f => Sys2Proof.Machine.execDivil f s
  | .divu f => Sys2Proof.Machine.execDivu f s
  | .divui f => Sys2Proof.Machine.execDivui f s
  | .divsu f => Sys2Proof.Machine.execDivsu f s
  | .ptrdif f => Sys2Proof.Machine.execPtrdif f s
  | .dif f => Sys2Proof.Machine.execDif f s
  | .abs f => Sys2Proof.Machine.execAbs f s
  | .min f => Sys2Proof.Machine.execMin f s
  | .max f => Sys2Proof.Machine.execMax f s
  | .cmp f => Sys2Proof.Machine.execCmp f s
  | .cmpi f => Sys2Proof.Machine.execCmpi f s
  | .cmpil f => Sys2Proof.Machine.execCmpil f s
  | .cmpu f => Sys2Proof.Machine.execCmpu f s
  | .cmpui f => Sys2Proof.Machine.execCmpui f s
  | .chk f => Sys2Proof.Machine.execChk f s
  | .chki f => Sys2Proof.Machine.execChki f s
  | .cmovnz f => Sys2Proof.Machine.execCmovnz f s
  | .cpuid f => Sys2Proof.Machine.execCpuid f s
  | .mkbool f => Sys2Proof.Machine.execMkbool f s
  | .not f => Sys2Proof.Machine.execNot f s
  | .seq f => Sys2Proof.Machine.execSeq f s
  | .seqi f => Sys2Proof.Machine.execSeqi f s
  | .seqil f => Sys2Proof.Machine.execSeqil f s
  | .sne f => Sys2Proof.Machine.execSne f s
  | .snei f => Sys2Proof.Machine.execSnei f s
  | .sneil f => Sys2Proof.Machine.execSneil f s
  | .slt f => Sys2Proof.Machine.execSlt f s
  | .slti f => Sys2Proof.Machine.execSlti f s
  | .sltil f => Sys2Proof.Machine.execSltil f s
  | .sltu f => Sys2Proof.Machine.execSltu f s
  | .sge f => Sys2Proof.Machine.execSge f s
  | .sgeu f => Sys2Proof.Machine.execSgeu f s
  | .sgti f => Sys2Proof.Machine.execSgti f s
  | .sgtil f => Sys2Proof.Machine.execSgtil f s
  | .sgtui f => Sys2Proof.Machine.execSgtui f s
  | .sgtuil f => Sys2Proof.Machine.execSgtuil f s
  | .slei f => Sys2Proof.Machine.execSlei f s
  -- logic and shifts (41)
  | .andS f => Sys2Proof.Machine.execAndS f s
  | .and f => Sys2Proof.Machine.execAnd f s
  | .andc f => Sys2Proof.Machine.execAndc f s
  | .orS f => Sys2Proof.Machine.execOrS f s
  | .or f => Sys2Proof.Machine.execOr f s
  | .orc f => Sys2Proof.Machine.execOrc f s
  | .eorS f => Sys2Proof.Machine.execEorS f s
  | .eor f => Sys2Proof.Machine.execEor f s
  | .enor f => Sys2Proof.Machine.execEnor f s
  | .nand f => Sys2Proof.Machine.execNand f s
  | .nor f => Sys2Proof.Machine.execNor f s
  | .mux f => Sys2Proof.Machine.execMux f s
  | .andi f => Sys2Proof.Machine.execAndi f s
  | .andil f => Sys2Proof.Machine.execAndil f s
  | .ori f => Sys2Proof.Machine.execOri f s
  | .oril f => Sys2Proof.Machine.execOril f s
  | .eori f => Sys2Proof.Machine.execEori f s
  | .eoril f => Sys2Proof.Machine.execEoril f s
  | .sllS f => Sys2Proof.Machine.execSllS f s
  | .sllp f => Sys2Proof.Machine.execSllp f s
  | .srlp f => Sys2Proof.Machine.execSrlp f s
  | .srl f => Sys2Proof.Machine.execSrl f s
  | .sra f => Sys2Proof.Machine.execSra f s
  | .rol f => Sys2Proof.Machine.execRol f s
  | .ror f => Sys2Proof.Machine.execRor f s
  | .cntlz f => Sys2Proof.Machine.execCntlz f s
  | .cntpop f => Sys2Proof.Machine.execCntpop f s
  | .revbit sz f => Sys2Proof.Machine.execRevbit sz f s
  | .mor f => Sys2Proof.Machine.execMor f s
  | .mxor f => Sys2Proof.Machine.execMxor f s
  | .mort f => Sys2Proof.Machine.execMort f s
  | .mxort f => Sys2Proof.Machine.execMxort f s
  | .bmap f => Sys2Proof.Machine.execBmap f s
  | .clmul f => Sys2Proof.Machine.execClmul f s
  | .clmulh f => Sys2Proof.Machine.execClmulh f s
  | .bytndx f => Sys2Proof.Machine.execBytndx f s
  | .bytndxi f => Sys2Proof.Machine.execBytndxi f s
  | .wydendx f => Sys2Proof.Machine.execWydendx f s
  | .wydendxi f => Sys2Proof.Machine.execWydendxi f s
  | .utf21ndx f => Sys2Proof.Machine.execUtf21ndx f s
  | .utf21ndxi f => Sys2Proof.Machine.execUtf21ndxi f s
  -- bit fields and BCD (42)
  | .bfalign f => Sys2Proof.Machine.execBfalign f s
  | .bfffo f => Sys2Proof.Machine.execBfffo f s
  | .bfextu f => Sys2Proof.Machine.execBfextu f s
  | .bfext f => Sys2Proof.Machine.execBfext f s
  | .andm f => Sys2Proof.Machine.execAndm f s
  | .bfset f => Sys2Proof.Machine.execBfset f s
  | .bfchg f => Sys2Proof.Machine.execBfchg f s
  | .bfclr f => Sys2Proof.Machine.execBfclr f s
  | .com f => Sys2Proof.Machine.execCom f s
  | .mov f => Sys2Proof.Machine.execMov f s
  | .movsxb f => Sys2Proof.Machine.execMovsxb f s
  | .movsxw f => Sys2Proof.Machine.execMovsxw f s
  | .movsxt f => Sys2Proof.Machine.execMovsxt f s
  | .movzxb f => Sys2Proof.Machine.execMovzxb f s
  | .movzxw f => Sys2Proof.Machine.execMovzxw f s
  | .movzxt f => Sys2Proof.Machine.execMovzxt f s
  | .bcdadd f => Sys2Proof.Machine.execBcdadd f s
  | .bcdsub f => Sys2Proof.Machine.execBcdsub f s
  | .bcdmul f => Sys2Proof.Machine.execBcdmul f s
  -- binary floating point (43)
  | .fabs f => Sys2Proof.Machine.execFabs f s
  | .fneg f => Sys2Proof.Machine.execFneg f s
  | .fclass f => Sys2Proof.Machine.execFclass f s
  | .ffinite f => Sys2Proof.Machine.execFfinite f s
  | .isnan f => Sys2Proof.Machine.execIsnan f s
  | .fman f => Sys2Proof.Machine.execFman f s
  | .fsign f => Sys2Proof.Machine.execFsign f s
  | .fsqrt f => Sys2Proof.Machine.execFsqrt f s
  | .frsqrte f => Sys2Proof.Machine.execFrsqrte f s
  | .fsigmoid f => Sys2Proof.Machine.execFsigmoid f s
  | .ftoi f => Sys2Proof.Machine.execFtoi f s
  | .itof f => Sys2Proof.Machine.execItof f s
  | .ftrunc f => Sys2Proof.Machine.execFtrunc f s
  | .ftx f => Sys2Proof.Machine.execFtx f s
  | .fcx f => Sys2Proof.Machine.execFcx f s
  | .fex f => Sys2Proof.Machine.execFex f s
  | .fdx f => Sys2Proof.Machine.execFdx f s
  | .frm f => Sys2Proof.Machine.execFrm f s
  | .fstat f => Sys2Proof.Machine.execFstat f s
  | .fadd f => Sys2Proof.Machine.execFadd f s
  | .faddL f => Sys2Proof.Machine.execFaddL f s
  | .fsub f => Sys2Proof.Machine.execFsub f s
  | .fsubL f => Sys2Proof.Machine.execFsubL f s
  | .fmul f => Sys2Proof.Machine.execFmul f s
  | .fmulL f => Sys2Proof.Machine.execFmulL f s
  | .fdiv f => Sys2Proof.Machine.execFdiv f s
  | .fdivL f => Sys2Proof.Machine.execFdivL f s
  | .fcmp f => Sys2Proof.Machine.execFcmp f s
  | .fseq f => Sys2Proof.Machine.execFseq f s
  | .fslt f => Sys2Proof.Machine.execFslt f s
  | .fsne f => Sys2Proof.Machine.execFsne f s
  | .fcmpb f => Sys2Proof.Machine.execFcmpb f s
  | .fma f => Sys2Proof.Machine.execFma f s
  | .fms f => Sys2Proof.Machine.execFms f s
  | .fnma f => Sys2Proof.Machine.execFnma f s
  | .fnms f => Sys2Proof.Machine.execFnms f s
  -- decimal floating point (44)
  | .dfabs f => Sys2Proof.Machine.execDfabs f s
  | .dfneg f => Sys2Proof.Machine.execDfneg f s
  | .dfman f => Sys2Proof.Machine.execDfman f s
  | .dfsign f => Sys2Proof.Machine.execDfsign f s
  | .dftoi f => Sys2Proof.Machine.execDftoi f s
  | .itodf f => Sys2Proof.Machine.execItodf f s
  | .dftx f => Sys2Proof.Machine.execDftx f s
  | .dfcx f => Sys2Proof.Machine.execDfcx f s
  | .dfex f => Sys2Proof.Machine.execDfex f s
  | .dfdx f => Sys2Proof.Machine.execDfdx f s
  | .dfrm f => Sys2Proof.Machine.execDfrm f s
  | .dfstat f => Sys2Proof.Machine.execDfstat f s
  | .dfadd f => Sys2Proof.Machine.execDfadd f s
  | .dfaddL f => Sys2Proof.Machine.execDfaddL f s
  | .dfsub f => Sys2Proof.Machine.execDfsub f s
  | .dfsubL f => Sys2Proof.Machine.execDfsubL f s
  | .dfmul f => Sys2Proof.Machine.execDfmul f s
  | .dfmulL f => Sys2Proof.Machine.execDfmulL f s
  | .dfdiv f => Sys2Proof.Machine.execDfdiv f s
  | .dfdivL f => Sys2Proof.Machine.execDfdivL f s
  | .dfcmp f => Sys2Proof.Machine.execDfcmp f s
  | .dfcmpb f => Sys2Proof.Machine.execDfcmpb f s
  | .dfma f => Sys2Proof.Machine.execDfma f s
  | .dfmaL f => Sys2Proof.Machine.execDfmaL f s
  | .dfms f => Sys2Proof.Machine.execDfms f s
  | .dfmsL f => Sys2Proof.Machine.execDfmsL f s
  | .dfnma f => Sys2Proof.Machine.execDfnma f s
  | .dfnmaL f => Sys2Proof.Machine.execDfnmaL f s
  | .dfnms f => Sys2Proof.Machine.execDfnms f s
  | .dfnmsL f => Sys2Proof.Machine.execDfnmsL f s
  -- loads and stores (45)
  | .ldb f => Sys2Proof.Machine.execLdb f s
  | .ldbu f => Sys2Proof.Machine.execLdbu f s
  | .ldw f => Sys2Proof.Machine.execLdw f s
  | .ldwu f => Sys2Proof.Machine.execLdwu f s
  | .ldt f => Sys2Proof.Machine.execLdt f s
  | .ldtu f => Sys2Proof.Machine.execLdtu f s
  | .ldo f => Sys2Proof.Machine.execLdo f s
  | .llal f => Sys2Proof.Machine.execLlal f s
  | .llah f => Sys2Proof.Machine.execLlah f s
  | .stb f => Sys2Proof.Machine.execStb f s
  | .stw f => Sys2Proof.Machine.execStw f s
  | .stt f => Sys2Proof.Machine.execStt f s
  | .sto f => Sys2Proof.Machine.execSto f s
  | .stoc f => Sys2Proof.Machine.execStoc f s
  | .ldos f => Sys2Proof.Machine.execLdos f s
  | .stos f => Sys2Proof.Machine.execStos f s
  | .cache f => Sys2Proof.Machine.execCache f s
  | .ldbx f => Sys2Proof.Machine.execLdbx f s
  | .ldbux f => Sys2Proof.Machine.execLdbux f s
  | .ldwx f => Sys2Proof.Machine.execLdwx f s
  | .ldwux f => Sys2Proof.Machine.execLdwux f s
  | .ldtx f => Sys2Proof.Machine.execLdtx f s
  | .ldtux f => Sys2Proof.Machine.execLdtux f s
  | .ldox f => Sys2Proof.Machine.execLdox f s
  | .llalx f => Sys2Proof.Machine.execLlalx f s
  | .llahx f => Sys2Proof.Machine.execLlahx f s
  | .stbx f => Sys2Proof.Machine.execStbx f s
  | .stwx f => Sys2Proof.Machine.execStwx f s
  | .sttx f => Sys2Proof.Machine.execSttx f s
  | .stox f => Sys2Proof.Machine.execStox f s
  | .stocx f => Sys2Proof.Machine.execStocx f s
  | .cachex f => Sys2Proof.Machine.execCachex f s
  | .stwl f => Sys2Proof.Machine.execStwl f s
  | .sttl f => Sys2Proof.Machine.execSttl f s
  | .stol f => Sys2Proof.Machine.execStol f s
  | .stocl f => Sys2Proof.Machine.execStocl f s
  | .lin2phl f => Sys2Proof.Machine.execLin2phl f s
  | .lin2phh f => Sys2Proof.Machine.execLin2phh f s
  -- branches (46)
  | .bbc f => Sys2Proof.Machine.execBbc f s
  | .bbs f => Sys2Proof.Machine.execBbs f s
  | .beq f => Sys2Proof.Machine.execBeq f s
  | .bne f => Sys2Proof.Machine.execBne f s
  | .blt f => Sys2Proof.Machine.execBlt f s
  | .bge f => Sys2Proof.Machine.execBge f s
  | .ble f => Sys2Proof.Machine.execBle f s
  | .bgt f => Sys2Proof.Machine.execBgt f s
  | .bltu f => Sys2Proof.Machine.execBltu f s
  | .bgeu f => Sys2Proof.Machine.execBgeu f s
  | .bleu f => Sys2Proof.Machine.execBleu f s
  | .bgtu f => Sys2Proof.Machine.execBgtu f s
  | .beqz f => Sys2Proof.Machine.execBeqz f s
  | .bnez f => Sys2Proof.Machine.execBnez f s
  | .jmp f => Sys2Proof.Machine.execJmp f s
  | .bra f => Sys2Proof.Machine.execBra f s
  | .bsr f => Sys2Proof.Machine.execBsr f s
  | .jsr f => Sys2Proof.Machine.execJsr f s
  | .dbra f => Sys2Proof.Machine.execDbra f s
  | .dbbc f => Sys2Proof.Machine.execDbbc f s
  | .dbbs f => Sys2Proof.Machine.execDbbs f s
  | .dbeq f => Sys2Proof.Machine.execDbeq f s
  | .dbne f => Sys2Proof.Machine.execDbne f s
  | .dblt f => Sys2Proof.Machine.execDblt f s
  | .dbge f => Sys2Proof.Machine.execDbge f s
  | .dble f => Sys2Proof.Machine.execDble f s
  | .dbgt f => Sys2Proof.Machine.execDbgt f s
  | .dbltu f => Sys2Proof.Machine.execDbltu f s
  | .dbgeu f => Sys2Proof.Machine.execDbgeu f s
  | .dbleu f => Sys2Proof.Machine.execDbleu f s
  | .dbgtu f => Sys2Proof.Machine.execDbgtu f s
  | .jgate f => Sys2Proof.Machine.execJgate f s
  | .rts f => Sys2Proof.Machine.execRts f s
  | .nop f => Sys2Proof.Machine.execNop f s
  -- system (47)
  | .csrrd f => Sys2Proof.Machine.execCsrrd f s
  | .csrrw f => Sys2Proof.Machine.execCsrrw f s
  | .csrrs f => Sys2Proof.Machine.execCsrrs f s
  | .csrrc f => Sys2Proof.Machine.execCsrrc f s
  | .brk f => Sys2Proof.Machine.execBrk f s
  | .sys f => Sys2Proof.Machine.execSys f s
  | .int f => Sys2Proof.Machine.execInt f s
  | .di f => Sys2Proof.Machine.execDi f s
  | .pfi f => Sys2Proof.Machine.execPfi f s
  | .sei f => Sys2Proof.Machine.execSei f s
  | .wfi f => Sys2Proof.Machine.execWfi f s
  | .memdb f => Sys2Proof.Machine.execMemdb f s
  | .memsb f => Sys2Proof.Machine.execMemsb f s
  | .sync f => Sys2Proof.Machine.execSync f s
  | .mfsel f => Sys2Proof.Machine.execMfsel f s
  | .mtsel f => Sys2Proof.Machine.execMtsel f s
  | .pushq f => Sys2Proof.Machine.execPushq f s
  | .popq f => Sys2Proof.Machine.execPopq f s
  | .peekq f => Sys2Proof.Machine.execPeekq f s
  | .statq f => Sys2Proof.Machine.execStatq f s
  | .resetq f => Sys2Proof.Machine.execResetq f s
  | .rex f => Sys2Proof.Machine.execRex f s
  | .rte f => Sys2Proof.Machine.execRte f s
  | .tlbrw f => Sys2Proof.Machine.execTlbrw f s
  -- vector (48)
  | .v2bits f => Sys2Proof.Machine.execV2bits f s
  | .vbits2vC f => Sys2Proof.Machine.execVbits2vC f s
  | .vbits2v f => Sys2Proof.Machine.execVbits2v f s
  | .vgidx f => Sys2Proof.Machine.execVgidx f s
  | .vcmprss f => Sys2Proof.Machine.execVcmprss f s
  | .veins f => Sys2Proof.Machine.execVeins f s
  | .vex f => Sys2Proof.Machine.execVex f s
  | .vscan f => Sys2Proof.Machine.execVscan f s
  | .vsllv f => Sys2Proof.Machine.execVsllv f s
  | .vsrlv f => Sys2Proof.Machine.execVsrlv f s
  | .mtvm f => Sys2Proof.Machine.execMtvm f s
  | .mfvm f => Sys2Proof.Machine.execMfvm f s
  | .mtvl f => Sys2Proof.Machine.execMtvl f s
  | .mfvl f => Sys2Proof.Machine.execMfvl f s
  | .vmadd f => Sys2Proof.Machine.execVmadd f s
  | .vmsub f => Sys2Proof.Machine.execVmsub f s
  | .vmand f => Sys2Proof.Machine.execVmand f s
  | .vmor f => Sys2Proof.Machine.execVmor f s
  | .vmxor f => Sys2Proof.Machine.execVmxor f s
  | .vmcntpop f => Sys2Proof.Machine.execVmcntpop f s
  | .vmfirst f => Sys2Proof.Machine.execVmfirst f s
  | .vmlast f => Sys2Proof.Machine.execVmlast f s
  | .vmsll f => Sys2Proof.Machine.execVmsll f s
  | .vmsrl f => Sys2Proof.Machine.execVmsrl f s
  | .vmfill f => Sys2Proof.Machine.execVmfill f s
  -- cryptography, neural network, graphics (49)
  | .aes64ds f => Sys2Proof.Machine.execAes64ds f s
  | .aes64dsm f => Sys2Proof.Machine.execAes64dsm f s
  | .aes64es f => Sys2Proof.Machine.execAes64es f s
  | .aes64esm f => Sys2Proof.Machine.execAes64esm f s
  | .sha256sig0 f => Sys2Proof.Machine.execSha256sig0 f s
  | .sha256sig1 f => Sys2Proof.Machine.execSha256sig1 f s
  | .sha256sum0 f => Sys2Proof.Machine.execSha256sum0 f s
  | .sha256sum1 f => Sys2Proof.Machine.execSha256sum1 f s
  | .sha512sig0 f => Sys2Proof.Machine.execSha512sig0 f s
  | .sha512sig1 f => Sys2Proof.Machine.execSha512sig1 f s
  | .sha512sum0 f => Sys2Proof.Machine.execSha512sum0 f s
  | .sha512sum1 f => Sys2Proof.Machine.execSha512sum1 f s
  | .sm3p0 f => Sys2Proof.Machine.execSm3p0 f s
  | .sm3p1 f => Sys2Proof.Machine.execSm3p1 f s
  | .sm4ed f => Sys2Proof.Machine.execSm4ed f s
  | .sm4ks f => Sys2Proof.Machine.execSm4ks f s
  | .nnaTrig f => Sys2Proof.Machine.execNnaTrig f s
  | .nnaStat f => Sys2Proof.Machine.execNnaStat f s
  | .nnaMfact f => Sys2Proof.Machine.execNnaMfact f s
  | .nnaMtwt f => Sys2Proof.Machine.execNnaMtwt f s
  | .nnaMtin f => Sys2Proof.Machine.execNnaMtin f s
  | .nnaMtbias f => Sys2Proof.Machine.execNnaMtbias f s
  | .nnaMtfb f => Sys2Proof.Machine.execNnaMtfb f s
  | .nnaMtmc f => Sys2Proof.Machine.execNnaMtmc f s
  | .nnaMtbc f => Sys2Proof.Machine.execNnaMtbc f s
  | .blend f => Sys2Proof.Machine.execBlend f s
  | .clip f => Sys2Proof.Machine.execClip f s
  | .transform f => Sys2Proof.Machine.execTransform f s
  | .rwCoeff f => Sys2Proof.Machine.execRwCoeff f s

end Sys2Proof.Machine
end

