-- ==== Sys2Proof/WellFormed.lean ====
section
/-! DEFINITION. Which decoded instructions the spec gives a meaning: fields without a role are zero (30 R254, 93 U30),
no vector register stands where a scalar is read, no reserved small field (93 U38). Each violation has a name. -/

namespace Sys2Proof

/-- Why an instruction is ill formed. -/
inductive Flaw
  /-- A pad or a field without a role is not zero (93 U30). -/
  | noRoleField
  /-- Tb or Tc names a vector register where a scalar is read (93 U30). -/
  | vectorOperandInScalar
  /-- v = 1 in an instruction defined only for v = 0 (93 U30; 49 section 1). -/
  | vectorFormRefused
  /-- v = 0 in an instruction defined only for v = 1 (93 U30; 48 R891, R893). -/
  | scalarFormRefused
  /-- VEX with an immediate in place of its vector register (48 R894). -/
  | immediateVectorOperand
  /-- Lk = 3, or RTS with Lk = 0 or 3 (93 U38). -/
  | reservedLink
  /-- REX with Tm = 3 (93 U38). -/
  | reservedMode
  /-- A constructor that the decoder never gives these fields: an alias without its fixed fields, a core instruction
  with an alias's, or SLEI with the one constant whose successor does not fit (30 R291). -/
  | spelling
  deriving DecidableEq, Repr

namespace WellFormed

/-- A field or pad without a role is zero. -/
def noRole (ok : Bool) : Option Flaw := if ok then none else some .noRoleField
/-- m3 and z have a role only when v = 1 (30 R245, R254). -/
def maskRole (v z : BitVec 1) (m : BitVec 3) : Option Flaw := noRole (v == 1#1 || (z == 0#1 && m == 0#3))
/-- m3 and z have no role whatever v is (30 R254). -/
def noMask (z : BitVec 1) (m : BitVec 3) : Option Flaw := noRole (z == 0#1 && m == 0#3)
/-- A T field equal to 1 is refused when v = 0 (30 R250, R251). -/
def scalarOperand (v : BitVec 1) (t : BitVec 2) : Option Flaw :=
  if v == 1#1 || t != 1#2 then none else some .vectorOperandInScalar
/-- A T field equal to 1 is refused whatever v is (46 R741, 47 R820, 48 R885, R891, R893, R896). -/
def notVectorOperand (t : BitVec 2) : Option Flaw := if t != 1#2 then none else some .vectorOperandInScalar
/-- VEX accepts Tb = 0 or 1 (48 R894). -/
def vectorRegisterOperand (t : BitVec 2) : Option Flaw :=
  if t == 0#2 || t == 1#2 then none else some .immediateVectorOperand
/-- Defined only for v = 0. -/
def noVector (v : BitVec 1) : Option Flaw := if v == 0#1 then none else some .vectorFormRefused
/-- Defined only for v = 1. -/
def noScalar (v : BitVec 1) : Option Flaw := if v == 1#1 then none else some .scalarFormRefused
/-- Lk = 3 is reserved (46 R746). -/
def linkField (lk : BitVec 2) : Option Flaw := if lk != 3#2 then none else some .reservedLink
/-- RTS names a link register (46 R805). -/
def returnLink (lk : BitVec 2) : Option Flaw := if linkNamed lk then none else some .reservedLink
/-- REX with Tm = 3 is reserved (47 R843). -/
def redirectMode (tm : BitVec 2) : Option Flaw := if tm != 3#2 then none else some .reservedMode
/-- The fields are those of the constructor's own words. -/
def spelling (ok : Bool) : Option Flaw := if ok then none else some .spelling

/-- The first flaw of a list of checks. -/
def first : List (Option Flaw) → Option Flaw
  | [] => none
  | some e :: _ => some e
  | none :: l => first l

/-- The first flaw of an instruction, if any (93 U30). m3 and z have no role in VEINS, VEX, VSLLV and VSRLV, nor has z
in CHK, whatever v is; with v = 1 z is accepted in VGIDX, VCMPRSS and VSCAN, whose rules say that it has no effect, and
in the vector stores and CACHEX (log 48). CHKI and CPUID are accepted with v = 1 (log 49). A nonzero Lk of DBRA (log 43)
and a nonzero Func7 of BMAP (log 52) are fields without a role. SLLP, SRLP, CLMUL and CLMULH are accepted with an
immediate B (log 53), WYDENDXI and UTF21NDXI with any immediate (log 54). -/
def check : Instr → Option Flaw
  | .exi7 _ => none
  | .exi23 _ => none
  | .exi41 _ => none
  | .exi55 _ => none
  | .add f => first [maskRole f.v f.z f.m, scalarOperand f.v f.tb, scalarOperand f.v f.tc]
  | .addS f => first [maskRole f.v f.z f.m, scalarOperand f.v (f.tb.setWidth 2)]
  | .addi f => first [spelling (!f.isLdi)]
  | .addil f => first [maskRole f.v f.z f.m]
  | .ldi f => first [spelling (f.isLdi)]
  | .sub f => first [maskRole f.v f.z f.m, scalarOperand f.v f.tb, noRole (f.tc == 0#2 && f.rc == 0#6), spelling (!f.isNeg)]
  | .subfi _ => none
  | .neg f => first [maskRole f.v f.z f.m, scalarOperand f.v f.tb, noRole (f.tc == 0#2 && f.rc == 0#6), spelling (f.isNeg)]
  | .mul f => first [maskRole f.v f.z f.m, scalarOperand f.v f.tb, scalarOperand f.v f.tc]
  | .mulh f => first [maskRole f.v f.z f.m, scalarOperand f.v f.tb, noRole (f.tc == 0#2 && f.rc == 0#6)]
  | .muli _ => none
  | .mulf f => first [maskRole f.v f.z f.m, scalarOperand f.v f.tb, scalarOperand f.v f.tc]
  | .mulfi _ => none
  | .div f => first [maskRole f.v f.z f.m, scalarOperand f.v f.tb, noRole (f.tc == 0#2 && f.rc == 0#6)]
  | .divi _ => none
  | .divil f => first [maskRole f.v f.z f.m]
  | .divu f => first [maskRole f.v f.z f.m, scalarOperand f.v f.tb, noRole (f.tc == 0#2 && f.rc == 0#6)]
  | .divui _ => none
  | .divsu f => first [maskRole f.v f.z f.m, scalarOperand f.v f.tb, noRole (f.tc == 0#2 && f.rc == 0#6)]
  | .ptrdif f => first [maskRole f.v f.z f.m, scalarOperand f.v f.tb, scalarOperand f.v f.tc, spelling (!f.isDif)]
  | .dif f => first [maskRole f.v f.z f.m, scalarOperand f.v f.tb, noRole (f.tc == 0#2 && f.rc == 0#6), spelling (f.isDif && !f.isAbs)]
  | .abs f => first [maskRole f.v f.z f.m, scalarOperand f.v f.tb, noRole (f.tc == 0#2 && f.rc == 0#6), spelling (f.isAbs)]
  | .min f => first [maskRole f.v f.z f.m, scalarOperand f.v f.tb, scalarOperand f.v f.tc]
  | .max f => first [maskRole f.v f.z f.m, scalarOperand f.v f.tb, scalarOperand f.v f.tc]
  | .cmp f => first [maskRole f.v f.z f.m, scalarOperand f.v f.tb, noRole (f.tc == 0#2 && f.rc == 0#6)]
  | .cmpi _ => none
  | .cmpil f => first [maskRole f.v f.z f.m]
  | .cmpu f => first [maskRole f.v f.z f.m, scalarOperand f.v f.tb, noRole (f.tc == 0#2 && f.rc == 0#6)]
  | .cmpui _ => none
  | .chk f => first [maskRole f.v f.z f.m, scalarOperand f.v f.tb, scalarOperand f.v f.tc, noRole (f.z == 0#1 && f.rt.extractLsb' 3 3 == 0#3)]
  | .chki f => first [scalarOperand f.v f.tb]
  | .cmovnz f => first [maskRole f.v f.z f.m, scalarOperand f.v f.tb, scalarOperand f.v f.tc, spelling (!(f.hasImms 1#6 0#6) && !f.isNot)]
  | .cpuid f => first [noRole (f.imm == 0#11)]
  | .mkbool f => first [maskRole f.v f.z f.m, scalarOperand f.v f.tb, scalarOperand f.v f.tc, spelling (f.isMkbool)]
  | .not f => first [maskRole f.v f.z f.m, scalarOperand f.v f.tb, scalarOperand f.v f.tc, spelling (f.isNot)]
  | .seq f => first [maskRole f.v f.z f.m, scalarOperand f.v f.tb, noRole (f.tc == 0#2 && f.rc == 0#6)]
  | .seqi _ => none
  | .seqil f => first [maskRole f.v f.z f.m]
  | .sne f => first [maskRole f.v f.z f.m, scalarOperand f.v f.tb, noRole (f.tc == 0#2 && f.rc == 0#6)]
  | .snei _ => none
  | .sneil f => first [maskRole f.v f.z f.m]
  | .slt f => first [maskRole f.v f.z f.m, scalarOperand f.v f.tb, noRole (f.tc == 0#2 && f.rc == 0#6)]
  | .slti _ => none
  | .sltil f => first [maskRole f.v f.z f.m]
  | .sltu f => first [maskRole f.v f.z f.m, scalarOperand f.v f.tb, noRole (f.tc == 0#2 && f.rc == 0#6)]
  | .sge f => first [maskRole f.v f.z f.m, scalarOperand f.v f.tb, noRole (f.tc == 0#2 && f.rc == 0#6)]
  | .sgeu f => first [maskRole f.v f.z f.m, scalarOperand f.v f.tb, noRole (f.tc == 0#2 && f.rc == 0#6)]
  | .sgti _ => none
  | .sgtil f => first [maskRole f.v f.z f.m]
  | .sgtui _ => none
  | .sgtuil f => first [maskRole f.v f.z f.m]
  | .slei f => first [spelling (f.imm != 0x3FF#11)]
  | .andS f => first [maskRole f.v f.z f.m, scalarOperand f.v (f.tb.setWidth 2)]
  | .and f => first [maskRole f.v f.z f.m, scalarOperand f.v f.tb, scalarOperand f.v f.tc]
  | .andc f => first [maskRole f.v f.z f.m, scalarOperand f.v f.tb, scalarOperand f.v f.tc]
  | .orS f => first [maskRole f.v f.z f.m, scalarOperand f.v (f.tb.setWidth 2)]
  | .or f => first [maskRole f.v f.z f.m, scalarOperand f.v f.tb, scalarOperand f.v f.tc]
  | .orc f => first [maskRole f.v f.z f.m, scalarOperand f.v f.tb, scalarOperand f.v f.tc]
  | .eorS f => first [maskRole f.v f.z f.m, scalarOperand f.v (f.tb.setWidth 2)]
  | .eor f => first [maskRole f.v f.z f.m, scalarOperand f.v f.tb, scalarOperand f.v f.tc]
  | .enor f => first [maskRole f.v f.z f.m, scalarOperand f.v f.tb, scalarOperand f.v f.tc]
  | .nand f => first [maskRole f.v f.z f.m, scalarOperand f.v f.tb, scalarOperand f.v f.tc]
  | .nor f => first [maskRole f.v f.z f.m, scalarOperand f.v f.tb, scalarOperand f.v f.tc]
  | .mux f => first [maskRole f.v f.z f.m, scalarOperand f.v f.tb, scalarOperand f.v f.tc]
  | .andi _ => none
  | .andil f => first [maskRole f.v f.z f.m]
  | .ori _ => none
  | .oril f => first [maskRole f.v f.z f.m]
  | .eori _ => none
  | .eoril f => first [maskRole f.v f.z f.m]
  | .sllS f => first [maskRole f.v f.z f.m, scalarOperand f.v (f.tb.setWidth 2)]
  | .sllp f => first [maskRole f.v f.z f.m, scalarOperand f.v f.tb, scalarOperand f.v f.tc, spelling (!f.isRotate)]
  | .srlp f => first [maskRole f.v f.z f.m, scalarOperand f.v f.tb, scalarOperand f.v f.tc, spelling (!f.isSrl && !f.isRotate)]
  | .srl f => first [maskRole f.v f.z f.m, scalarOperand f.v f.tb, scalarOperand f.v f.tc, spelling (f.isSrl)]
  | .sra f => first [maskRole f.v f.z f.m, scalarOperand f.v f.tb, noRole (f.tc == 0#2 && f.rc == 0#6)]
  | .rol f => first [maskRole f.v f.z f.m, scalarOperand f.v f.tb, scalarOperand f.v f.tc, spelling (f.isRotate)]
  | .ror f => first [maskRole f.v f.z f.m, scalarOperand f.v f.tb, scalarOperand f.v f.tc, spelling (f.isRotate && !f.isSrl)]
  | .cntlz f => first [maskRole f.v f.z f.m]
  | .cntpop f => first [maskRole f.v f.z f.m]
  | .revbit _ f => first [maskRole f.v f.z f.m]
  | .mor f => first [maskRole f.v f.z f.m, scalarOperand f.v f.tb, noRole (f.tc == 0#2 && f.rc == 0#6)]
  | .mxor f => first [maskRole f.v f.z f.m, scalarOperand f.v f.tb, noRole (f.tc == 0#2 && f.rc == 0#6)]
  | .mort f => first [maskRole f.v f.z f.m, scalarOperand f.v f.tb, noRole (f.tc == 0#2 && f.rc == 0#6)]
  | .mxort f => first [maskRole f.v f.z f.m, scalarOperand f.v f.tb, noRole (f.tc == 0#2 && f.rc == 0#6)]
  | .bmap f => first [maskRole f.v f.z f.m, scalarOperand f.v f.tb, scalarOperand f.v f.tc, noRole (f.pad == 0#7)]
  | .clmul f => first [maskRole f.v f.z f.m, scalarOperand f.v f.tb, noRole (f.tc == 0#2 && f.rc == 0#6)]
  | .clmulh f => first [maskRole f.v f.z f.m, scalarOperand f.v f.tb, noRole (f.tc == 0#2 && f.rc == 0#6)]
  | .bytndx f => first [maskRole f.v f.z f.m, scalarOperand f.v f.tb, noRole (f.tc == 0#2 && f.rc == 0#6)]
  | .bytndxi f => first [noRole (f.imm.extractLsb' 8 3 == 0#3)]
  | .wydendx f => first [maskRole f.v f.z f.m, scalarOperand f.v f.tb, noRole (f.tc == 0#2 && f.rc == 0#6)]
  | .wydendxi f => first [maskRole f.v f.z f.m]
  | .utf21ndx f => first [maskRole f.v f.z f.m, scalarOperand f.v f.tb, noRole (f.tc == 0#2 && f.rc == 0#6)]
  | .utf21ndxi f => first [maskRole f.v f.z f.m]
  | .bfalign f => first [maskRole f.v f.z f.m, scalarOperand f.v f.tb, scalarOperand f.v f.tc]
  | .bfffo f => first [maskRole f.v f.z f.m, scalarOperand f.v f.tb, scalarOperand f.v f.tc]
  | .bfextu f => first [maskRole f.v f.z f.m, scalarOperand f.v f.tb, scalarOperand f.v f.tc, spelling (!(f.hasImms 0#6 63#6) && !(f.hasImms 0#6 7#6) && !(f.hasImms 0#6 15#6) && !(f.hasImms 0#6 31#6))]
  | .bfext f => first [maskRole f.v f.z f.m, scalarOperand f.v f.tb, scalarOperand f.v f.tc, spelling (!(f.hasImms 0#6 7#6) && !(f.hasImms 0#6 15#6) && !(f.hasImms 0#6 31#6))]
  | .andm f => first [maskRole f.v f.z f.m, scalarOperand f.v f.tb, scalarOperand f.v f.tc]
  | .bfset f => first [maskRole f.v f.z f.m, scalarOperand f.v f.tb, scalarOperand f.v f.tc]
  | .bfchg f => first [maskRole f.v f.z f.m, scalarOperand f.v f.tb, scalarOperand f.v f.tc, spelling (!(f.hasImms 0#6 63#6))]
  | .bfclr f => first [maskRole f.v f.z f.m, scalarOperand f.v f.tb, scalarOperand f.v f.tc]
  | .com f => first [maskRole f.v f.z f.m, scalarOperand f.v f.tb, scalarOperand f.v f.tc, spelling (f.hasImms 0#6 63#6)]
  | .mov f => first [maskRole f.v f.z f.m, scalarOperand f.v f.tb, scalarOperand f.v f.tc, spelling (f.hasImms 0#6 63#6)]
  | .movsxb f => first [maskRole f.v f.z f.m, scalarOperand f.v f.tb, scalarOperand f.v f.tc, spelling (f.hasImms 0#6 7#6)]
  | .movsxw f => first [maskRole f.v f.z f.m, scalarOperand f.v f.tb, scalarOperand f.v f.tc, spelling (f.hasImms 0#6 15#6)]
  | .movsxt f => first [maskRole f.v f.z f.m, scalarOperand f.v f.tb, scalarOperand f.v f.tc, spelling (f.hasImms 0#6 31#6)]
  | .movzxb f => first [maskRole f.v f.z f.m, scalarOperand f.v f.tb, scalarOperand f.v f.tc, spelling (f.hasImms 0#6 7#6)]
  | .movzxw f => first [maskRole f.v f.z f.m, scalarOperand f.v f.tb, scalarOperand f.v f.tc, spelling (f.hasImms 0#6 15#6)]
  | .movzxt f => first [maskRole f.v f.z f.m, scalarOperand f.v f.tb, scalarOperand f.v f.tc, spelling (f.hasImms 0#6 31#6)]
  | .bcdadd f => first [maskRole f.v f.z f.m, scalarOperand f.v f.tb, noRole (f.tc == 0#2 && f.rc == 0#6)]
  | .bcdsub f => first [maskRole f.v f.z f.m, scalarOperand f.v f.tb, noRole (f.tc == 0#2 && f.rc == 0#6)]
  | .bcdmul f => first [maskRole f.v f.z f.m, scalarOperand f.v f.tb, noRole (f.tc == 0#2 && f.rc == 0#6)]
  | .fabs f => first [maskRole f.v f.z f.m]
  | .fneg f => first [maskRole f.v f.z f.m]
  | .fclass f => first [maskRole f.v f.z f.m]
  | .ffinite f => first [maskRole f.v f.z f.m]
  | .isnan f => first [maskRole f.v f.z f.m]
  | .fman f => first [maskRole f.v f.z f.m]
  | .fsign f => first [maskRole f.v f.z f.m]
  | .fsqrt f => first [maskRole f.v f.z f.m]
  | .frsqrte f => first [maskRole f.v f.z f.m]
  | .fsigmoid f => first [maskRole f.v f.z f.m]
  | .ftoi f => first [maskRole f.v f.z f.m]
  | .itof f => first [maskRole f.v f.z f.m]
  | .ftrunc f => first [maskRole f.v f.z f.m]
  | .ftx f => first [noRole (f.pad == 0#4)]
  | .fcx f => first [noRole (f.pad == 0#4)]
  | .fex f => first [noRole (f.pad == 0#4)]
  | .fdx f => first [noRole (f.pad == 0#4)]
  | .frm f => first [noRole (f.pad == 0#4)]
  | .fstat f => first [noRole (f.pad == 0#4), noRole (f.ra == 0#6)]
  | .fadd f => first [maskRole f.v f.z f.m, scalarOperand f.v f.tb, noRole (f.pad == 0#8)]
  | .faddL f => first [maskRole f.v f.z f.m, scalarOperand f.v f.tb, noRole (f.pad == 0#5)]
  | .fsub f => first [maskRole f.v f.z f.m, scalarOperand f.v f.tb, noRole (f.pad == 0#8)]
  | .fsubL f => first [maskRole f.v f.z f.m, scalarOperand f.v f.tb, noRole (f.pad == 0#5)]
  | .fmul f => first [maskRole f.v f.z f.m, scalarOperand f.v f.tb, noRole (f.pad == 0#8)]
  | .fmulL f => first [maskRole f.v f.z f.m, scalarOperand f.v f.tb, noRole (f.pad == 0#5)]
  | .fdiv f => first [maskRole f.v f.z f.m, scalarOperand f.v f.tb, noRole (f.pad == 0#8)]
  | .fdivL f => first [maskRole f.v f.z f.m, scalarOperand f.v f.tb, noRole (f.pad == 0#5)]
  | .fcmp f => first [maskRole f.v f.z f.m, scalarOperand f.v f.tb, noRole (f.pad == 0#8)]
  | .fseq f => first [maskRole f.v f.z f.m, scalarOperand f.v f.tb, noRole (f.pad == 0#8)]
  | .fslt f => first [maskRole f.v f.z f.m, scalarOperand f.v f.tb, noRole (f.pad == 0#8)]
  | .fsne f => first [maskRole f.v f.z f.m, scalarOperand f.v f.tb, noRole (f.pad == 0#8)]
  | .fcmpb f => first [maskRole f.v f.z f.m, scalarOperand f.v f.tb, noRole (f.pad == 0#8)]
  | .fma f => first [maskRole f.v f.z f.m, scalarOperand f.v f.tb, scalarOperand f.v f.tc]
  | .fms f => first [maskRole f.v f.z f.m, scalarOperand f.v f.tb, scalarOperand f.v f.tc]
  | .fnma f => first [maskRole f.v f.z f.m, scalarOperand f.v f.tb, scalarOperand f.v f.tc]
  | .fnms f => first [maskRole f.v f.z f.m, scalarOperand f.v f.tb, scalarOperand f.v f.tc]
  | .dfabs f => first [maskRole f.v f.z f.m]
  | .dfneg f => first [maskRole f.v f.z f.m]
  | .dfman f => first [maskRole f.v f.z f.m]
  | .dfsign f => first [maskRole f.v f.z f.m]
  | .dftoi f => first [maskRole f.v f.z f.m]
  | .itodf f => first [maskRole f.v f.z f.m]
  | .dftx f => first [noRole (f.pad == 0#4)]
  | .dfcx f => first [noRole (f.pad == 0#4)]
  | .dfex f => first [noRole (f.pad == 0#4)]
  | .dfdx f => first [noRole (f.pad == 0#4)]
  | .dfrm f => first [noRole (f.pad == 0#4)]
  | .dfstat f => first [noRole (f.pad == 0#4), noRole (f.ra == 0#6)]
  | .dfadd f => first [maskRole f.v f.z f.m, scalarOperand f.v f.tb, noRole (f.pad == 0#8)]
  | .dfaddL f => first [maskRole f.v f.z f.m, scalarOperand f.v f.tb, noRole (f.pad == 0#5)]
  | .dfsub f => first [maskRole f.v f.z f.m, scalarOperand f.v f.tb, noRole (f.pad == 0#8)]
  | .dfsubL f => first [maskRole f.v f.z f.m, scalarOperand f.v f.tb, noRole (f.pad == 0#5)]
  | .dfmul f => first [maskRole f.v f.z f.m, scalarOperand f.v f.tb, noRole (f.pad == 0#8)]
  | .dfmulL f => first [maskRole f.v f.z f.m, scalarOperand f.v f.tb, noRole (f.pad == 0#5)]
  | .dfdiv f => first [maskRole f.v f.z f.m, scalarOperand f.v f.tb, noRole (f.pad == 0#8)]
  | .dfdivL f => first [maskRole f.v f.z f.m, scalarOperand f.v f.tb, noRole (f.pad == 0#5)]
  | .dfcmp f => first [maskRole f.v f.z f.m, scalarOperand f.v f.tb, noRole (f.pad == 0#8)]
  | .dfcmpb f => first [maskRole f.v f.z f.m, scalarOperand f.v f.tb, noRole (f.pad == 0#8)]
  | .dfma f => first [maskRole f.v f.z f.m, scalarOperand f.v f.tb, scalarOperand f.v f.tc]
  | .dfmaL f => first [maskRole f.v f.z f.m, scalarOperand f.v f.tb, scalarOperand f.v f.tc, noRole (f.padLo == 0#5 && f.padHi == 0#8)]
  | .dfms f => first [maskRole f.v f.z f.m, scalarOperand f.v f.tb, scalarOperand f.v f.tc]
  | .dfmsL f => first [maskRole f.v f.z f.m, scalarOperand f.v f.tb, scalarOperand f.v f.tc, noRole (f.padLo == 0#5 && f.padHi == 0#8)]
  | .dfnma f => first [maskRole f.v f.z f.m, scalarOperand f.v f.tb, scalarOperand f.v f.tc]
  | .dfnmaL f => first [maskRole f.v f.z f.m, scalarOperand f.v f.tb, scalarOperand f.v f.tc, noRole (f.padLo == 0#5 && f.padHi == 0#8)]
  | .dfnms f => first [maskRole f.v f.z f.m, scalarOperand f.v f.tb, scalarOperand f.v f.tc]
  | .dfnmsL f => first [maskRole f.v f.z f.m, scalarOperand f.v f.tb, scalarOperand f.v f.tc, noRole (f.padLo == 0#5 && f.padHi == 0#8)]
  | .ldb _ => none
  | .ldbu _ => none
  | .ldw _ => none
  | .ldwu _ => none
  | .ldt _ => none
  | .ldtu _ => none
  | .ldo _ => none
  | .llal _ => none
  | .llah _ => none
  | .stb _ => none
  | .stw _ => none
  | .stt _ => none
  | .sto _ => none
  | .stoc _ => none
  | .ldos _ => none
  | .stos _ => none
  | .cache _ => none
  | .ldbx f => first [maskRole f.v f.z f.m, scalarOperand f.v f.tb, noRole (f.v == 1#1 || f.c == 0#1)]
  | .ldbux f => first [maskRole f.v f.z f.m, scalarOperand f.v f.tb, noRole (f.v == 1#1 || f.c == 0#1)]
  | .ldwx f => first [maskRole f.v f.z f.m, scalarOperand f.v f.tb, noRole (f.v == 1#1 || f.c == 0#1)]
  | .ldwux f => first [maskRole f.v f.z f.m, scalarOperand f.v f.tb, noRole (f.v == 1#1 || f.c == 0#1)]
  | .ldtx f => first [maskRole f.v f.z f.m, scalarOperand f.v f.tb, noRole (f.v == 1#1 || f.c == 0#1)]
  | .ldtux f => first [maskRole f.v f.z f.m, scalarOperand f.v f.tb, noRole (f.v == 1#1 || f.c == 0#1)]
  | .ldox f => first [maskRole f.v f.z f.m, scalarOperand f.v f.tb, noRole (f.v == 1#1 || f.c == 0#1)]
  | .llalx f => first [maskRole f.v f.z f.m, scalarOperand f.v f.tb, noRole (f.v == 1#1 || f.c == 0#1)]
  | .llahx f => first [maskRole f.v f.z f.m, scalarOperand f.v f.tb, noRole (f.v == 1#1 || f.c == 0#1)]
  | .stbx f => first [maskRole f.v f.z f.m, scalarOperand f.v f.tb, noRole (f.v == 1#1 || f.c == 0#1)]
  | .stwx f => first [maskRole f.v f.z f.m, scalarOperand f.v f.tb, noRole (f.v == 1#1 || f.c == 0#1)]
  | .sttx f => first [maskRole f.v f.z f.m, scalarOperand f.v f.tb, noRole (f.v == 1#1 || f.c == 0#1)]
  | .stox f => first [maskRole f.v f.z f.m, scalarOperand f.v f.tb, noRole (f.v == 1#1 || f.c == 0#1)]
  | .stocx f => first [maskRole f.v f.z f.m, scalarOperand f.v f.tb, noRole (f.v == 1#1 || f.c == 0#1)]
  | .cachex f => first [maskRole f.v f.z f.m, scalarOperand f.v f.tb, noRole (f.v == 1#1 || f.c == 0#1)]
  | .stwl f => first [notVectorOperand f.tb]
  | .sttl f => first [notVectorOperand f.tb]
  | .stol f => first [notVectorOperand f.tb]
  | .stocl f => first [notVectorOperand f.tb]
  | .lin2phl f => first [maskRole f.v f.z f.m, scalarOperand f.v f.tb, noRole (f.tc == 0#2 && f.rc == 0#6)]
  | .lin2phh f => first [maskRole f.v f.z f.m, scalarOperand f.v f.tb, noRole (f.tc == 0#2 && f.rc == 0#6)]
  | .bbc f => first [notVectorOperand f.tb, linkField f.lk]
  | .bbs f => first [notVectorOperand f.tb, linkField f.lk]
  | .beq f => first [notVectorOperand f.tb, linkField f.lk]
  | .bne f => first [notVectorOperand f.tb, linkField f.lk]
  | .blt f => first [notVectorOperand f.tb, linkField f.lk]
  | .bge f => first [notVectorOperand f.tb, linkField f.lk]
  | .ble f => first [notVectorOperand f.tb, linkField f.lk]
  | .bgt f => first [notVectorOperand f.tb, linkField f.lk]
  | .bltu f => first [notVectorOperand f.tb, linkField f.lk]
  | .bgeu f => first [notVectorOperand f.tb, linkField f.lk]
  | .bleu f => first [notVectorOperand f.tb, linkField f.lk]
  | .bgtu f => first [notVectorOperand f.tb, linkField f.lk]
  | .beqz f => first [linkField f.lk]
  | .bnez f => first [linkField f.lk]
  | .jmp f => first [linkField f.lk, spelling (!(f.ca == 7#3 && f.lk == 0#2) && !(linkNamed f.lk))]
  | .bra f => first [linkField f.lk, spelling (f.ca == 7#3 && f.lk == 0#2)]
  | .bsr f => first [linkField f.lk, spelling (f.ca == 7#3 && linkNamed f.lk)]
  | .jsr f => first [linkField f.lk, spelling (f.ca != 7#3 && linkNamed f.lk)]
  | .dbra f => first [linkField f.lk, noRole (f.lk == 0#2)]
  | .dbbc f => first [notVectorOperand f.tb, linkField f.lk]
  | .dbbs f => first [notVectorOperand f.tb, linkField f.lk]
  | .dbeq f => first [notVectorOperand f.tb, linkField f.lk]
  | .dbne f => first [notVectorOperand f.tb, linkField f.lk]
  | .dblt f => first [notVectorOperand f.tb, linkField f.lk]
  | .dbge f => first [notVectorOperand f.tb, linkField f.lk]
  | .dble f => first [notVectorOperand f.tb, linkField f.lk]
  | .dbgt f => first [notVectorOperand f.tb, linkField f.lk]
  | .dbltu f => first [notVectorOperand f.tb, linkField f.lk]
  | .dbgeu f => first [notVectorOperand f.tb, linkField f.lk]
  | .dbleu f => first [notVectorOperand f.tb, linkField f.lk]
  | .dbgtu f => first [notVectorOperand f.tb, linkField f.lk]
  | .jgate f => first [linkField f.lk, noRole (f.pad == 0#5)]
  | .rts f => first [returnLink f.lk]
  | .nop f => first [noRole (f.pad == 0#7)]
  | .csrrd f => first [noMask f.z f.m, noRole (f.pad == 0#4)]
  | .csrrw f => first [noMask f.z f.m, noRole (f.pad == 0#4)]
  | .csrrs f => first [noMask f.z f.m, noRole (f.pad == 0#4)]
  | .csrrc f => first [noMask f.z f.m, noRole (f.pad == 0#4)]
  | .brk f => first [noRole (f.pad == 0#7)]
  | .sys f => first [noRole (f.pad == 0#15)]
  | .int f => first [noRole (f.pad == 0#12)]
  | .di f => first [noMask f.z f.m, noRole (f.pad == 0#8), noRole (f.rt == 0#6), noRole (f.ra == 0#6), notVectorOperand f.tb]
  | .pfi f => first [noMask f.z f.m, noRole (f.pad == 0#8), noRole (f.ra == 0#6), noRole (f.rb == 0#6), noRole (f.tb == 0#2)]
  | .sei f => first [noMask f.z f.m, noRole (f.pad == 0#8), noRole (f.ra == 0#6), notVectorOperand f.tb]
  | .wfi f => first [noRole (f.pad == 0#7)]
  | .memdb f => first [noRole (f.pad == 0#7)]
  | .memsb f => first [noRole (f.pad == 0#7)]
  | .sync f => first [noRole (f.pad == 0#7)]
  | .mfsel f => first [noMask f.z f.m, noRole (f.pad == 0#8), noRole (f.ra == 0#6), notVectorOperand f.tb]
  | .mtsel f => first [noMask f.z f.m, noRole (f.pad == 0#8), noRole (f.rt == 0#6), notVectorOperand f.tb]
  | .pushq f => first [noMask f.z f.m, noRole (f.pad == 0#8), noRole (f.rt == 0#6), notVectorOperand f.tb]
  | .popq f => first [noMask f.z f.m, noRole (f.pad == 0#8), noRole (f.ra == 0#6), notVectorOperand f.tb]
  | .peekq f => first [noMask f.z f.m, noRole (f.pad == 0#8), noRole (f.ra == 0#6), notVectorOperand f.tb]
  | .statq f => first [noMask f.z f.m, noRole (f.pad == 0#8), noRole (f.ra == 0#6), notVectorOperand f.tb]
  | .resetq f => first [noMask f.z f.m, noRole (f.pad == 0#8), noRole (f.ra == 0#6), noRole (f.rt == 0#6), notVectorOperand f.tb]
  | .rex f => first [noMask f.z f.m, noRole (f.pad == 0#8), noRole (f.ra == 0#6), noRole (f.rb == 0#6), noRole (f.tb == 0#2), noRole (f.rt.extractLsb' 2 4 == 0#4), redirectMode (f.rt.setWidth 2)]
  | .rte f => first [noMask f.z f.m, noRole (f.pad == 0#8), notVectorOperand f.tb]
  | .tlbrw f => first [noMask f.z f.m, noRole (f.pad == 0#8), notVectorOperand f.tb]
  | .v2bits f => first [notVectorOperand f.tb, noRole (f.tc == 0#2 && f.rc == 0#6)]
  | .vbits2vC f => first [maskRole f.v f.z f.m, scalarOperand f.v f.tb, scalarOperand f.v f.tc, spelling (f.isVbits2v)]
  | .vbits2v f => first [maskRole f.v f.z f.m, noRole (f.tb == 0#2 && f.rb == 0#6), noRole (f.tc == 0#2 && f.rc == 0#6)]
  | .vgidx f => first [noScalar f.v, maskRole f.v f.z f.m, notVectorOperand f.tb, noRole (f.tc == 0#2 && f.rc == 0#6)]
  | .vcmprss f => first [maskRole f.v f.z f.m]
  | .veins f => first [noScalar f.v, noMask f.z f.m, notVectorOperand f.tb, noRole (f.tc == 0#2 && f.rc == 0#6)]
  | .vex f => first [noMask f.z f.m, vectorRegisterOperand f.tb, noRole (f.tc == 0#2 && f.rc == 0#6)]
  | .vscan f => first [maskRole f.v f.z f.m]
  | .vsllv f => first [noMask f.z f.m, notVectorOperand f.tb, noRole (f.tc == 0#2 && f.rc == 0#6)]
  | .vsrlv f => first [noMask f.z f.m, notVectorOperand f.tb, noRole (f.tc == 0#2 && f.rc == 0#6)]
  | .mtvm f => first [noRole (f.pad == 0#8), noRole (f.b18 == 0#1)]
  | .mfvm f => first [noRole (f.pad == 0#8), noRole (f.b18 == 0#1)]
  | .mtvl f => first [noRole (f.pad == 0#8), noRole (f.b18 == 0#1), noRole (f.lo == 0#3)]
  | .mfvl f => first [noRole (f.pad == 0#8), noRole (f.b18 == 0#1), noRole (f.hi == 0#3)]
  | .vmadd f => first [noRole (f.pad == 0#8), noRole (f.b18 == 0#1)]
  | .vmsub f => first [noRole (f.pad == 0#8), noRole (f.b18 == 0#1)]
  | .vmand f => first [noRole (f.pad == 0#8), noRole (f.b18 == 0#1)]
  | .vmor f => first [noRole (f.pad == 0#8), noRole (f.b18 == 0#1)]
  | .vmxor f => first [noRole (f.pad == 0#8), noRole (f.b18 == 0#1)]
  | .vmcntpop f => first [noRole (f.pad == 0#8), noRole (f.b18 == 0#1)]
  | .vmfirst f => first [noRole (f.pad == 0#8), noRole (f.b18 == 0#1)]
  | .vmlast f => first [noRole (f.pad == 0#8), noRole (f.b18 == 0#1)]
  | .vmsll f => first [noRole (f.pad == 0#8)]
  | .vmsrl f => first [noRole (f.pad == 0#8)]
  | .vmfill f => first [noRole (f.pad == 0#8)]
  | .aes64ds f => first [maskRole f.v f.z f.m, scalarOperand f.v f.tb, noRole (f.tc == 0#2 && f.rc == 0#6)]
  | .aes64dsm f => first [maskRole f.v f.z f.m, scalarOperand f.v f.tb, noRole (f.tc == 0#2 && f.rc == 0#6)]
  | .aes64es f => first [maskRole f.v f.z f.m, scalarOperand f.v f.tb, noRole (f.tc == 0#2 && f.rc == 0#6)]
  | .aes64esm f => first [maskRole f.v f.z f.m, scalarOperand f.v f.tb, noRole (f.tc == 0#2 && f.rc == 0#6)]
  | .sha256sig0 f => first [maskRole f.v f.z f.m]
  | .sha256sig1 f => first [maskRole f.v f.z f.m]
  | .sha256sum0 f => first [maskRole f.v f.z f.m]
  | .sha256sum1 f => first [maskRole f.v f.z f.m]
  | .sha512sig0 f => first [maskRole f.v f.z f.m]
  | .sha512sig1 f => first [maskRole f.v f.z f.m]
  | .sha512sum0 f => first [maskRole f.v f.z f.m]
  | .sha512sum1 f => first [maskRole f.v f.z f.m]
  | .sm3p0 f => first [maskRole f.v f.z f.m]
  | .sm3p1 f => first [maskRole f.v f.z f.m]
  | .sm4ed f => first [maskRole f.v f.z f.m, scalarOperand f.v f.tb, scalarOperand f.v f.tc, noRole (f.pad == 0#7)]
  | .sm4ks f => first [maskRole f.v f.z f.m, scalarOperand f.v f.tb, scalarOperand f.v f.tc, noRole (f.pad == 0#7)]
  | .nnaTrig f => first [noVector f.v, maskRole f.v f.z f.m, noRole (f.rt == 0#6)]
  | .nnaStat f => first [noVector f.v, maskRole f.v f.z f.m, noRole (f.ra == 0#6)]
  | .nnaMfact f => first [noVector f.v, maskRole f.v f.z f.m]
  | .nnaMtwt f => first [noVector f.v, maskRole f.v f.z f.m, scalarOperand f.v f.tb, noRole (f.tc == 0#2 && f.rc == 0#6)]
  | .nnaMtin f => first [noVector f.v, maskRole f.v f.z f.m, scalarOperand f.v f.tb, noRole (f.tc == 0#2 && f.rc == 0#6)]
  | .nnaMtbias f => first [noVector f.v, maskRole f.v f.z f.m, scalarOperand f.v f.tb, noRole (f.tc == 0#2 && f.rc == 0#6), noRole (f.rt == 0#6)]
  | .nnaMtfb f => first [noVector f.v, maskRole f.v f.z f.m, scalarOperand f.v f.tb, noRole (f.tc == 0#2 && f.rc == 0#6), noRole (f.rt == 0#6)]
  | .nnaMtmc f => first [noVector f.v, maskRole f.v f.z f.m, scalarOperand f.v f.tb, noRole (f.tc == 0#2 && f.rc == 0#6), noRole (f.rt == 0#6)]
  | .nnaMtbc f => first [noVector f.v, maskRole f.v f.z f.m, scalarOperand f.v f.tb, noRole (f.tc == 0#2 && f.rc == 0#6), noRole (f.rt == 0#6)]
  | .blend f => first [maskRole f.v f.z f.m, scalarOperand f.v f.tb, scalarOperand f.v f.tc, noRole (f.pad == 0#7)]
  | .clip f => first [noVector f.v, maskRole f.v f.z f.m]
  | .transform f => first [noVector f.v, maskRole f.v f.z f.m]
  | .rwCoeff f => first [noVector f.v, maskRole f.v f.z f.m, scalarOperand f.v f.tb, noRole (f.tc == 0#2 && f.rc == 0#6)]

end WellFormed

/-- The instruction has a meaning: no check finds a flaw. -/
def WellFormed (i : Instr) : Prop := WellFormed.check i = none

end Sys2Proof
end

