-- ==== Sys2Proof/Machine/Run.lean ====
section
/-! DEFINITION. The core's own step: fetch, decode, check, run (30 R242, 60 R1013), and the bytes that withFetchWord
places. What calls the decoder is noncomputable for Lean's code generator only (log 40): the kernel evaluates it. -/

namespace Sys2Proof.Machine

/-- The refusal of an ill-formed instruction has the name of its flaw. -/
def refusalOf : Flaw → Refusal
  | .noRoleField => .noRoleField
  | .vectorOperandInScalar => .vectorOperandInScalar
  | .vectorFormRefused => .vectorFormRefused
  | .scalarFormRefused => .scalarFormRefused
  | .immediateVectorOperand => .immediateVectorOperand
  | .reservedLink => .reservedLink
  | .reservedMode => .reservedMode
  | .spelling => .spelling

/-- Runs a decoded instruction: an ill-formed one is refused by name. -/
def runDecoded (i : Instr) (s : State) : Outcome :=
  match WellFormed.check i with
  | some flaw => .refused (refusalOf flaw)
  | none => exec i s.begin

noncomputable section

/-- Decodes and runs fetched bytes (30 R242 steps 3, 6 and 7). `s1` is the state after the fetch, `s` that before it but
for the draw: an exception of decoding changes nothing else, and a prefix fetches its unit itself (30 R242, R262). -/
def runFetched (bs : List Byte) (s s1 : State) : Outcome :=
  match decode bs with
  | .ok (i, _) => runDecoded i (if isPrefix i then s else s1)
  | .reject .reservedCsrOp => .refused .reservedCsrOperation
  | .reject _ => s.raiseUnimplemented bs

/-- Fetches and runs the instruction at ip (30 R242), in a state where the fetch has begun; the prefix family fetches its
second instruction itself. -/
def fetchAndRun (s : State) : Outcome :=
  if s.ip.getLsbD 0 then .refused .oddInstructionPointer
  else
    match s.fetchInstruction s.ip with
    | .ok bs s1 => runFetched bs { s with draw := s1.draw } s1
    | .trap e s1 => s1.raiseUndecoded e
    | .stop h => h.outcome

/-- One step of the core, in the order of 60 R1013. -/
def coreStep (s : State) : Outcome :=
  if s.mode.waiting then s.waitStep
  else if s.inputs.nmi then s.takeNmi
  else if s.recognised then s.interrupt s.inputs.irqCause s.inputs.irqLevel
  else if s.mode.stepPending then s.singleStep
  else
    match s.instructionMatch with
    | .ok _ s1 => fetchAndRun s1.beginFetch
    | .trap e s1 => s1.raiseUndecoded e
    | .stop h => h.outcome

/-- The next move of the schedule, or the core's where nothing is scheduled (log 5). -/
def nextMove (s : State) : Outcome :=
  match s.env with
  | [] => coreStep s
  | .core :: rest => coreStep { s with env := rest }
  | e :: rest => ({ s with env := rest }).agentStep e

end

/-! ### Placing a word -/

/-- One byte placed in memory, with no old byte left for a fetch to see. -/
def State.placeByte (s : State) (a : Nat) (b : Byte) : State :=
  { s with mem := Memory.write s.mem a b, stale := s.stale.filter fun e => !decide (e.addr = a) }

/-- Bytes placed where the code segment fetches them, from a virtual address on; the address each fetch uses is that
of `s`. -/
def placeBytes (s : State) (va : Word) : List Byte → State → State
  | [], t => t
  | b :: bs, t =>
    placeBytes s (nextIp va 1) bs
      (match s.physical .fetch 7 va with
       | .ok pa _ => t.placeByte pa.toNat b
       | _ => t)

end Sys2Proof.Machine
end

