-- ==== Sys2Proof/Machine/Step.lean ====
section
/-! DEFINITION. One step of the machine, and how a word is placed where the next step fetches. -/

namespace Sys2Proof.Machine

noncomputable section

/-- One step of the machine (log 5). -/
def step (s : State) : Host.Outcome State Fault Refusal := nextMove s

end

/-- The low `nbits` bits of w, zeros above, as eight bytes at the instruction pointer, where the next fetch will
read them (log 34). -/
def State.withFetchWord (s : State) (nbits w : Nat) : State :=
  placeBytes s.beginFetch s.ip (bytesOf 8 (BitVec.ofNat 64 (w % 2 ^ nbits))) s

end Sys2Proof.Machine
end

