-- ==== Sys2Proof/Safety.lean ====
section
/-! DEFINITION. The terms in which the statements about this machine speak: the invariant of its states, what it means
that an instruction computes a result in its scalar and its vector form, and the plain circumstances in which an
access to memory or a change of the code selector meets no exception. -/

namespace Sys2Proof.Machine

/-! ### The invariant of a state -/

/-- A neuron's tables are canonical and within their 1024 entries (49 R950). -/
def Neuron.wf (x : Neuron) : Prop :=
  sparseWf 0 x.weights = true ∧ sparseWf 0 x.inputs = true ∧ (∀ e ∈ x.weights, e.1 < 1024) ∧
    ∀ e ∈ x.inputs, e.1 < 1024

/-- What every step keeps: memory and TLB in canonical form within their bounds, r0 and v0 zero (10_state R21, R51), no
reservation (10_state R122), a vector length within VLMAX (10_state R58), queues within their depth (47 R835). -/
structure State.Inv (s : State) : Prop where
  memory : Memory.wf s.mem = true
  addresses : ∀ c ∈ s.mem, c.1 < 2 ^ 64
  tlb : sparseWf 0 s.tlb = true
  ways : ∀ e ∈ s.tlb, e.1 < 4096
  r0 : s.regs.get 0 = 0
  v0 : s.vregs.get 0 = Vector.replicate 64 0
  reservation : s.resv = none
  vlmax : s.config.vlmax ≤ 64
  length : s.vl.toNat ≤ s.config.vlmax
  lengths : ∀ n ∈ s.pending.vl, n.toNat ≤ s.config.vlmax
  queues : ∀ q : Fin 16, (s.queues.get q).length ≤ s.config.qdepth.get q
  neurons : ∀ n : Fin 8, (s.nna.get n).wf

/-! ### Results of instructions -/

/-- `r[rt] <- w; pc <- next_ip` for an instruction of n bytes. -/
def State.result (s : State) (n : Nat) (rt : RegNum) (w : Word) : State := (s.setReg rt w).advance n

/-- The state that a completed vector loop leaves but for what its elements did: D_VSTEP is 0 (48 R884). -/
def State.looped (s : State) : State := s.setVstep 0

/-- The elements a vector instruction works on: from D_VSTEP to VL - 1 (48 R884). -/
def State.loopElements (s : State) : List Nat := List.range' s.csr.vstep.toNat (s.vl.toNat - s.csr.vstep.toNat)

/-- Those whose mask bit is set. -/
def State.enabledList (s : State) (m : BitVec 3) : List Nat :=
  s.loopElements.filter fun x => (s.mask m).getLsbD x

/-- Element x of the target after a vector instruction whose element results are `g` (48 R880). -/
def elementAfter (s : State) (rt : RegNum) (m : BitVec 3) (z : BitVec 1) (g : Nat → Word) (x : Nat) : Word :=
  if rt = 0#6 then 0
  else if x ∈ s.loopElements then
    (if (s.mask m).getLsbD x then g x else if z = 1#1 then 0 else s.vec rt x)
  else s.vec rt x

/-- `t` is `base` after n bytes of instruction, but for vector register rt, whose elements are those of the rule. -/
def VectorResult (s base t : State) (n : Nat) (rt : RegNum) (m : BitVec 3) (z : BitVec 1) (g : Nat → Word) : Prop :=
  (∀ x < 64, t.vec rt x = elementAfter s rt m z g x) ∧ (∀ r, r ≠ rt → ∀ x, t.vec r x = s.vec r x) ∧
    { t with vregs := s.vregs } = base.advance n

/-- `t` is `base` but for vector register rt, whose elements below x are those of the rule: what a vector instruction
has done when its element x raises (48 R884). -/
def VectorStopped (s base t : State) (rt : RegNum) (m : BitVec 3) (z : BitVec 1) (g : Nat → Word) (x : Nat) : Prop :=
  (∀ y < 64, t.vec rt y = if y < x then elementAfter s rt m z g y else s.vec rt y) ∧
    (∀ r, r ≠ rt → ∀ y, t.vec r y = s.vec r y) ∧ { t with vregs := s.vregs } = base

/-- The length and the bits that a trap of the instruction records (60 R1011). -/
def Instr.ctx (i : Instr) : Ctx := ⟨i.size, encodeWord i⟩

/-- The instruction computes `T = g x s A B C`: in scalar form it completes with r[Rt] = T for x = 0 and nothing else
changed, with a vector register where a scalar is read it is refused (93 U30), and in vector form it completes with
each enabled element x computed, each disabled one zeroed or kept, and nothing else changed (48 R880). -/
def ComputesEach (i : Instr) (o : Operands) (g : Nat → State → Word → Word → Word → Word) : Prop :=
  ∀ s : State,
    (o.v = 0#1 → ∀ a b c, o.a.scalar s = some a → o.b.scalar s = some b → o.c.scalar s = some c →
      exec i s = .next (s.result i.size o.rt (g 0 s a b c))) ∧
    (o.v = 0#1 → o.a.scalar s = none ∨ o.b.scalar s = none ∨ o.c.scalar s = none →
      exec i s = .refused .vectorOperandInScalar) ∧
    (o.v = 1#1 → s.pending.vl = [] →
      ∃ t, exec i s = .next t ∧ VectorResult s s.looped t i.size o.rt o.m o.z fun x =>
        g x s (o.a.element s x) (o.b.element s x) (o.c.element s x))

/-- The instruction computes `T = g free A B C` of its operands. `free` is the free value of the element; a rule that
has a result for its operands does not use it. -/
def Computes (i : Instr) (o : Operands) (g : Word → Word → Word → Word → Word) : Prop :=
  ComputesEach i o fun x s => g (s.free x)

/-- The instruction only checks its operands: it goes on where they pass and takes CHK where they do not; in vector
form it goes on where every enabled element passes and takes CHK at the first that does not (40 R335, 48 R884). -/
def Checks (i : Instr) (o : Operands) (pass : Word → Word → Word → Bool) : Prop :=
  ∀ s : State,
    (o.v = 0#1 → ∀ a b c, o.a.scalar s = some a → o.b.scalar s = some b → o.c.scalar s = some c →
      exec i s = if pass a b c then .next (s.advance i.size) else s.raise (Instr.ctx i) (.plain causeCHK)) ∧
    (o.v = 0#1 → o.a.scalar s = none ∨ o.b.scalar s = none ∨ o.c.scalar s = none →
      exec i s = .refused .vectorOperandInScalar) ∧
    (o.v = 1#1 → s.pending.vl = [] →
      (∀ x ∈ s.enabledList o.m, pass (o.a.element s x) (o.b.element s x) (o.c.element s x) = true) →
      exec i s = .next (s.looped.advance i.size)) ∧
    (o.v = 1#1 → s.pending.vl = [] → ∀ x ∈ s.enabledList o.m,
      pass (o.a.element s x) (o.b.element s x) (o.c.element s x) = false →
      (∀ y ∈ s.enabledList o.m, y < x → pass (o.a.element s y) (o.b.element s y) (o.c.element s y) = true) →
      exec i s = (s.setVstep x).raise (Instr.ctx i) (.plain causeCHK))

/-- U_FSTAT after the status updates of a list of results, in order (48 R883). -/
def fstatFold (w : Word) (l : List FpResult) : Word := l.foldl fstatAfter w

/-- The instruction computes a floating-point result under a rounding mode, `none` being the dynamic one, and commits
it: in scalar form it completes with the status update and the value, or takes FLT where an enabled condition arose
(43 R524); in vector form it completes with every enabled element computed and the status updates of the enabled
elements in order, or takes FLT at the first element where an enabled condition arose, the elements below it done
(48 R883, R884). -/
def ComputesFp (i : Instr) (o : Operands) (rm : Option (BitVec 3))
    (g : BitVec 3 → Word → Word → Word → Word → FpResult) : Prop :=
  ∀ s : State,
    let mode := rm.getD (fpRm s.csr.fstat)
    let e := fun x => g mode (s.free x) (o.a.element s x) (o.b.element s x) (o.c.element s x)
    let raises := fun x => fpRaises s.csr.fstat (e x).conds.bits
    (o.v = 0#1 → ∀ x y z, o.a.scalar s = some x → o.b.scalar s = some y → o.c.scalar s = some z →
      let r := g mode (s.free 0) x y z
      let s1 := s.setFstat (fstatAfter s.csr.fstat r)
      (fpRaises s.csr.fstat r.conds.bits = false → exec i s = .next (s1.result i.size o.rt r.value)) ∧
      (fpRaises s.csr.fstat r.conds.bits = true → exec i s = s1.raise (Instr.ctx i) (.plain causeFLT))) ∧
    (o.v = 0#1 → o.a.scalar s = none ∨ o.b.scalar s = none ∨ o.c.scalar s = none →
      exec i s = .refused .vectorOperandInScalar) ∧
    (o.v = 1#1 → s.pending.vl = [] → (∀ x ∈ s.enabledList o.m, raises x = false) →
      ∃ t, exec i s = .next t ∧
        VectorResult s (s.looped.setFstat (fstatFold s.csr.fstat ((s.enabledList o.m).map e))) t i.size o.rt o.m o.z
          fun x => (e x).value) ∧
    (o.v = 1#1 → s.pending.vl = [] → ∀ x ∈ s.enabledList o.m, raises x = true →
      (∀ y ∈ s.enabledList o.m, y < x → raises y = false) →
      ∃ t, exec i s = t.raise (Instr.ctx i) (.plain causeFLT) ∧
        VectorStopped s
          ((s.setFstat (fstatFold s.csr.fstat (((s.enabledList o.m).filter fun y => decide (y ≤ x)).map e))).setVstep x)
          t o.rt o.m o.z (fun y => (e y).value) x)

/-! ### Numbers of floating-point encodings -/

/-- The number of a finite binary64 encoding (43 R520). -/
def fpNumber (w : Word) : Option Rat :=
  let sign : Rat := if w.msb then -1 else 1
  let fraction : Rat := (fpFraction w).toNat / 2 ^ 52
  if fpExponent w = 0x7FF then none
  else if fpExponent w = 0 then some (sign * fraction * 2 ^ (-1022 : Int))
  else some (sign * (1 + fraction) * 2 ^ ((fpExponent w : Int) - 1023))

/-- Where a binary64 encoding lies in the order of comparisons: the infinities below and above every number; none for a
NaN (43 R555). -/
def fpPlace (w : Word) : Option (Int × Rat) :=
  if (fpUnpack w).isNaN then none
  else match fpNumber w with
    | some x => some (0, x)
    | none => some (if w.msb then -1 else 1, 0)

/-- The lexicographic order of places. -/
def placeLess (p q : Int × Rat) : Prop := p.1 < q.1 ∨ p.1 = q.1 ∧ p.2 < q.2

/-- A number rounded to an integer under a rounding mode (43 R522). -/
def roundInt (rm : BitVec 3) (x : Rat) : Int :=
  if rm = 1#3 then (if x < 0 then x.ceil else x.floor)
  else if rm = 2#3 then x.ceil
  else if rm = 3#3 then x.floor
  else if rm = 4#3 then (if x < 0 then (x - 1 / 2).ceil else (x + 1 / 2).floor)
  else if x - x.floor < 1 / 2 ∨ x - x.floor = 1 / 2 ∧ x.floor % 2 = 0 then x.floor
  else x.floor + 1

/-- The largest finite binary64 number. -/
def fpLargest : Rat := (2 ^ 53 - 1) * 2 ^ (971 : Int)

/-- `v`, the number of encoding `w`, is the number q rounded under a mode (43 R522): the nearest below, above or toward
zero, or the nearest, a tie going to the even fraction or, in mode 4, away from zero. -/
structure Nearest (rm : BitVec 3) (q v : Rat) (w : Word) : Prop where
  towardZero : rm = 1#3 → v.abs ≤ q.abs ∧ ∀ w' u, fpNumber w' = some u → u.abs ≤ q.abs → u.abs ≤ v.abs
  upward : rm = 2#3 → q ≤ v ∧ ∀ w' u, fpNumber w' = some u → q ≤ u → v ≤ u
  downward : rm = 3#3 → v ≤ q ∧ ∀ w' u, fpNumber w' = some u → u ≤ q → u ≤ v
  nearest : rm ≠ 1#3 → rm ≠ 2#3 → rm ≠ 3#3 → q.abs < 2 ^ (1024 : Int) - 2 ^ (970 : Int) ∧
    ∀ w' u, fpNumber w' = some u → (q - v).abs ≤ (q - u).abs ∧
      ((q - v).abs = (q - u).abs → u ≠ v → if rm = 4#3 then u.abs < v.abs else w.getLsbD 0 = false)

/-- The result is the number q, not zero, rounded once to binary64: its value, its conditions and its class (43 R520,
R522, R523, R524). -/
structure RoundsTo (rm : BitVec 3) (q : Rat) (r : FpResult) : Prop where
  sign : r.value.msb = decide (q < 0)
  ordered : (fpUnpack r.value).isNaN = false
  finite : ∀ v, fpNumber r.value = some v → Nearest rm q v r.value ∧ r.conds.inexact = decide (v ≠ q) ∧
    r.cls = fpClass (decide (q.abs < v.abs)) r.value
  infinite : fpNumber r.value = none → r.conds.inexact = true ∧ r.conds.ovf = true ∧ r.cls = fpClass true r.value ∧
    rm ≠ 1#3 ∧ (rm = 2#3 → fpLargest < q) ∧ (rm = 3#3 → q < -fpLargest) ∧
    (rm ≠ 2#3 → rm ≠ 3#3 → 2 ^ (1024 : Int) - 2 ^ (970 : Int) ≤ q.abs)
  overflow : (q.abs ≤ fpLargest → r.conds.ovf = false) ∧ (2 ^ (1024 : Int) ≤ q.abs → r.conds.ovf = true)
  /-- Underflow is tininess with inexactness (log 30). -/
  underflow : (q.abs ≤ (2 ^ 52 - 1) * 2 ^ (-1074 : Int) → r.conds.under = r.conds.inexact) ∧
    (2 ^ (-1022 : Int) ≤ q.abs → r.conds.under = false)
  others : r.conds.invalid = false ∧ r.conds.dbz = false ∧ r.sub = 0

/-- The number of a finite decimal value. -/
def decNumber : Config.DecValue → Option Rat
  | .zero _ => some 0
  | .num q => some q
  | _ => none

/-- `r` is the number q, not zero, rounded once to the decimal format, whatever it is (44 R600, R602, 43 R522): the sign,
the directed modes, the nearest value, a tie away from zero in mode 4, and the conditions. -/
structure DecRoundsTo (rm : BitVec 3) (q : Rat) (r : Config.DecRounded) : Prop where
  sign : r.bits.msb = decide (q < 0)
  inexact : r.inexact = decide (Config.dval r.bits ≠ .num q)
  overflow : (Config.dval r.bits = .inf r.bits.msb → r.ovf = true) ∧ (r.inexact = false → r.ovf = false ∧ r.under = false)
  number : decNumber (Config.dval r.bits) = none → Config.dval r.bits = .inf r.bits.msb ∧ rm ≠ 1#3
  towardZero : rm = 1#3 → ∀ v, decNumber (Config.dval r.bits) = some v → v.abs ≤ q.abs ∧
    ∀ w u, Config.dval w = .num u → u.abs ≤ q.abs → u.abs ≤ v.abs
  upward : rm = 2#3 → (∀ v, decNumber (Config.dval r.bits) = some v → q ≤ v) ∧
    ∀ w u, Config.dval w = .num u → q ≤ u → ∃ v, decNumber (Config.dval r.bits) = some v ∧ v ≤ u
  downward : rm = 3#3 → (∀ v, decNumber (Config.dval r.bits) = some v → v ≤ q) ∧
    ∀ w u, Config.dval w = .num u → u ≤ q → ∃ v, decNumber (Config.dval r.bits) = some v ∧ u ≤ v
  nearest : rm ≠ 1#3 → rm ≠ 2#3 → rm ≠ 3#3 → ∀ v, decNumber (Config.dval r.bits) = some v →
    ∀ w u, decNumber (Config.dval w) = some u → (q - v).abs ≤ (q - u).abs ∧
      (rm = 4#3 → (q - v).abs = (q - u).abs → u.abs ≤ v.abs)

/-! ### Function codes -/

/-- The groups of 30 R255 to R261: root opcode, the place and width of the function code, and the codes listed. -/
def functionCodes : List (Byte × Nat × Nat × List Nat) :=
  [(0x01, 25, 7, [0x00, 0x02, 0x11, 0x1E, 0x20, 0x28, 0x29, 0x2A, 0x2B, 0x2C, 0x30, 0x31, 0x32, 0x33, 0x34, 0x35,
      0x36, 0x37, 0x38, 0x39, 0x60, 0x61, 0x62]),
    (0x02, 41, 7, [0x00, 0x01, 0x02, 0x03, 0x04, 0x05, 0x06, 0x08, 0x09, 0x0A, 0x0B, 0x0F, 0x10, 0x11, 0x12, 0x14,
      0x15, 0x19, 0x1A, 0x1B, 0x1C, 0x20, 0x21, 0x22, 0x23, 0x26, 0x27, 0x28, 0x29, 0x2A, 0x2B, 0x2D, 0x2E, 0x2F,
      0x30, 0x31, 0x32, 0x33, 0x34, 0x36, 0x37, 0x38, 0x39, 0x3A, 0x3B, 0x3C, 0x3D, 0x3E, 0x40, 0x41, 0x42, 0x50,
      0x51, 0x52, 0x53, 0x60, 0x61, 0x62, 0x63, 0x64, 0x65, 0x77]),
    (0x07, 41, 7, [0x08, 0x09, 0x0A, 0x0B, 0x0C, 0x10, 0x11, 0x13, 0x16, 0x17, 0x1E, 0x28, 0x29]),
    (0x52, 19, 5, [0x04, 0x05, 0x08, 0x09, 0x0A, 0x0D, 0x0E, 0x0F, 0x10, 0x11, 0x12, 0x13, 0x1C, 0x1D, 0x1E,
      0x1F]),
    (0x61, 25, 7, [0x01, 0x02, 0x03, 0x06, 0x07, 0x08, 0x0C, 0x0E, 0x0F, 0x10, 0x11, 0x12, 0x13, 0x14, 0x15, 0x1E,
      0x20, 0x22, 0x28]),
    (0x62, 33, 7, [0x04, 0x05, 0x08, 0x09, 0x10, 0x11, 0x12, 0x14, 0x15]),
    (0x63, 44, 4, [0x00, 0x01, 0x02, 0x03]),
    (0x65, 25, 7, [0x02, 0x03, 0x06, 0x07, 0x0C, 0x10, 0x11, 0x12, 0x13, 0x14, 0x20, 0x22]),
    (0x66, 33, 7, [0x04, 0x05, 0x08, 0x09, 0x10, 0x15]),
    (0x67, 41, 7, [0x00, 0x01, 0x02, 0x03]),
    (0x72, 41, 7, [0x04, 0x05, 0x08, 0x09]),
    (0x76, 41, 7, [0x04, 0x05, 0x08, 0x09]),
    (0x77, 49, 7, [0x00, 0x01, 0x02, 0x03]),
    (0xAA, 41, 7, [0x00, 0x01, 0x04, 0x05, 0x08, 0x09, 0x0A, 0x0B]),
    (0xF5, 41, 7, [0x00, 0x01, 0x02])]

/-- The listed codes of the groups whose rows fix bit 8 to 0 (48 R881, D67). -/
def scalarCodes : List (Byte × Nat × Nat × List Nat) :=
  [(0x07, 41, 7, [0x08, 0x09, 0x0A, 0x0B, 0x0C, 0x10, 0x11, 0x13, 0x16, 0x17, 0x1E, 0x28, 0x29]),
    (0x52, 19, 5, [0x04, 0x05, 0x08, 0x09, 0x0A, 0x0D, 0x0E, 0x0F, 0x10, 0x11, 0x12, 0x13, 0x1C, 0x1D, 0x1E,
      0x1F]),
    (0x61, 25, 7, [0x0C, 0x10, 0x11, 0x12, 0x13, 0x14]),
    (0x65, 25, 7, [0x0C, 0x10, 0x11, 0x12, 0x13, 0x14])]

/-- The listed codes of the groups whose rows fix bit 8 to 1. -/
def vectorCodes : List (Byte × Nat × Nat × List Nat) :=
  [(0x01, 25, 7, [0x1E, 0x2C]),
    (0x02, 41, 7, [0x38, 0x39, 0x3E])]

/-! ### Plain circumstances of an access -/

/-- Nothing stands between a program and n bytes at va of a segment with this base: the segment is loaded and settled,
with protection on its bounds and right hold at every byte, no byte is translated or checked against the keys, no debug
register matches, and memory with the needed attribute answers at every byte (20_memory R190). -/
structure State.Plain (s : State) (k : Access) (seg : Nat) (base va : Word) (n : Nat) : Prop where
  settled : s.pending.sel = []
  loaded : ∃ d, (s.selector seg).desc = some d ∧ d.o0 = base ∧
    (s.pe = true → k.segmentRight d = true ∧ ∀ j < n, segmentBounds d (va + BitVec.ofNat 64 j) = none)
  untranslated : ∀ j < n, s.translates (linearAddress base va + BitVec.ofNat 64 j) = false
  unkeyed : s.checksKeys = false
  undebugged : ∀ j < n, ∀ r < 4, debugMatchesData s (decide (k = .store)) (va + BitVec.ofNat 64 j) r = false
  attributes : ∀ j < n, ∃ a,
    pmaAttributes s.config.pmaTable (linearAddress base va + BitVec.ofNat 64 j).toNat = some a ∧ k.pmaRight a = true
  memory : ∀ j < n, platformKind s.config.platformMap (linearAddress base va + BitVec.ofNat 64 j).toNat = .memory

/-- The little-endian value of n bytes of physical memory (20_memory R141). -/
def State.valueAt (s : State) (pa : Word) (n : Nat) : Word := wordOf (s.bytesAt pa n)

/-- Byte b is stored to address a by a store of the n low bytes of v at pa. -/
def WroteAt (pa : Word) (n : Nat) (v : Word) (a : Nat) (b : Byte) : Prop :=
  ∃ j < n, a = (pa + BitVec.ofNat 64 j).toNat ∧ b = v.extractLsb' (8 * j) 8

/-- What stores of the bytes `wrote` leave an instruction fetch to see: memory holds the old byte or a stored one, every
old byte kept before is kept, each byte that has changed is kept as it was, not yet invalidated, and nothing else is
(20_memory R216, log 11). -/
structure StaleKept (s t : State) (wrote : Nat → Byte → Prop) : Prop where
  values : ∀ a, Memory.read t.mem a = Memory.read s.mem a ∨ wrote a (Memory.read t.mem a)
  keeps : ∀ e ∈ s.stale, e ∈ t.stale
  replaced : ∀ a, Memory.read t.mem a ≠ Memory.read s.mem a → ⟨a, Memory.read s.mem a, false⟩ ∈ t.stale
  others : ∀ e ∈ t.stale, e ∈ s.stale ∨
    e.invalidated = false ∧ (∃ b, wrote e.addr b) ∧ (e.old = Memory.read s.mem e.addr ∨ wrote e.addr e.old)

/-- What stores of the bytes `wrote` leave the key cache to hold: every tetra kept before is kept, each tetra that has a
stored byte is kept as it was, and only tetras at such addresses are added (20_memory R196, 93 U8, log 12). -/
structure TetrasKept (s t : State) (wrote : Nat → Byte → Prop) : Prop where
  keeps : ∀ e ∈ s.rewritten, e ∈ t.rewritten
  replaced : ∀ a : Word, (∃ i < 4, ∃ b, wrote (a + BitVec.ofNat 64 i).toNat b) →
    (a.toNat, Memory.tetra s.mem a) ∈ t.rewritten
  others : ∀ e ∈ t.rewritten, e ∈ s.rewritten ∨
    ∃ a : Word, e.1 = a.toNat ∧ ∃ i < 4, ∃ b, wrote (a + BitVec.ofNat 64 i).toNat b

/-- `t` is `base` but for n bytes of memory at pa, which hold the low bytes of v; every other byte reads as in s. The
replaced bytes stay visible to an instruction fetch, and the replaced tetras to the key cache (20_memory R196,
R216). -/
def StoredAt (s base t : State) (pa : Word) (n : Nat) (v : Word) : Prop :=
  (∀ j < n, Memory.read t.mem (pa + BitVec.ofNat 64 j).toNat = v.extractLsb' (8 * j) 8) ∧
    (∀ a : Nat, (∀ j < n, a ≠ (pa + BitVec.ofNat 64 j).toNat) → Memory.read t.mem a = Memory.read s.mem a) ∧
    { t with mem := s.mem, stale := s.stale, rewritten := s.rewritten } = base ∧
    StaleKept s t (WroteAt pa n v) ∧ TetrasKept s t (WroteAt pa n v)

/-! ### The path of an access -/

/-- The exception or the stop in which an operation ends without an answer. -/
def Res.failure {α : Type} : Res α → Option (Exc ⊕ Halt)
  | .ok _ _ => none
  | .trap e _ => some (.inl e)
  | .stop h => some (.inr h)

/-- The operation answers, and what it answers satisfies the rest. -/
def Res.Passes {α : Type} (r : Res α) (rest : α → State → Prop) : Prop := ∃ a s, r = .ok a s ∧ rest a s

/-- The operation ends in failure f, or it answers and the rest does. -/
def Res.FailsOr {α : Type} (r : Res α) (f : Exc ⊕ Halt) (rest : α → State → Prop) : Prop :=
  r.failure = some f ∨ r.Passes rest

/-- Step 1 of 20_memory R190. A fetch has none of its own: the instruction match comes before it (60 R1050). -/
def State.debugStep (s : State) (k : Access) (va : Word) (n : Nat) : Res Unit :=
  if k = .fetch then .ok () s else s.debugData (decide (k = .store)) va n

/-- The steps of 20_memory R190 for one access of n bytes at va all pass, each from the state that the one before it
left: debug match, segmentation, translation, key, attributes, bus. The physical address is pa, the state after them
t. -/
def State.PathTo (s : State) (k : Access) (seg : Nat) (va : Word) (n : Nat) (pa : Word) (t : State) : Prop :=
  (s.debugStep k va n).Passes fun _ s1 => (s1.segment k seg va).Passes fun la s2 =>
    (s2.translate k va la).Passes fun p s3 => (s3.checkKey va p).Passes fun _ s4 =>
      (s4.checkPma k va p).Passes fun _ s5 => (s5.busAnswers k va p n).Passes fun _ s6 => p = pa ∧ s6 = t

/-- The first of these steps that does not pass ends in failure f. -/
def State.PathFails (s : State) (k : Access) (seg : Nat) (va : Word) (n : Nat) (f : Exc ⊕ Halt) : Prop :=
  (s.debugStep k va n).FailsOr f fun _ s1 => (s1.segment k seg va).FailsOr f fun la s2 =>
    (s2.translate k va la).FailsOr f fun p s3 => (s3.checkKey va p).FailsOr f fun _ s4 =>
      (s4.checkPma k va p).FailsOr f fun _ s5 => (s5.busAnswers k va p n).failure = some f

/-! ### Loads and stores -/

/-- At state s the instruction loads n bytes from va of a segment into r[rt], extended: in plain circumstances it
completes with the bytes of memory; else it completes with what the access answers, or takes the access's exception
(45 R665). -/
def LoadsAt (i : Instr) (s : State) (seg : BitVec 3) (rt : RegNum) (va : Word) (n : Nat) (ext : Word → Word) : Prop :=
  (∀ base, s.Plain .load seg.toNat base va n →
    exec i s = .next (s.result i.size rt (ext (s.valueAt (linearAddress base va) n)))) ∧
  (∀ w t, s.memRead seg.toNat va n = .ok w t → exec i s = .next (t.result i.size rt (ext w))) ∧
  (∀ e t, s.memRead seg.toNat va n = .trap e t → exec i s = t.raise (Instr.ctx i) e)

/-- At state s the instruction stores the low n bytes of v at va of a segment: in plain circumstances it completes with
those bytes in memory and every other byte as it was; else it completes with what the access leaves, or takes the
access's exception (45 R665). -/
def StoresAt (i : Instr) (s : State) (seg : BitVec 3) (va : Word) (n : Nat) (v : Word) : Prop :=
  (∀ base, Memory.wf s.mem = true → s.Plain .store seg.toNat base va n →
    ∃ t, exec i s = .next t ∧ StoredAt s (s.advance i.size) t (linearAddress base va) n v) ∧
  (∀ t, s.memWrite seg.toNat va n v = .ok () t → exec i s = .next (t.advance i.size)) ∧
  (∀ e t, s.memWrite seg.toNat va n v = .trap e t → exec i s = t.raise (Instr.ctx i) e)

/-- The address of element x of a vector access (45 R663, R667). -/
def State.elementAddress (s : State) (f : Fmt.LSX) (x : Nat) : Word :=
  addressLSX f s (elementIndexValue f (s.mask f.m) x s)

/-- `t` is what an access that raises leaves of u: the draw counter, the debug status and tracing apart, nothing has
changed (60 R1004, R1050). -/
def Abandoned (u t : State) : Prop :=
  { t with draw := u.draw, csr := { t.csr with dbsr := u.csr.dbsr }, mode := { t.mode with tracing := u.mode.tracing } } = u

/-- The vector instruction stops at element x with exception e, whose access left t of the state u that the elements
below x led to: it raises with D_VSTEP = x and itself as the address to return to, and where the trap is entered the
handler finds both, and the registers and the memory of u (48 R884 b, 60 R1020, R1023). -/
def StopsAt (i : Instr) (s u t : State) (e : Exc) (x : Nat) : Prop :=
  Abandoned u t ∧ exec i s = (t.setVstep x).raise (Instr.ctx i) e ∧
    ∀ v, exec i s = .next v → v.csr.vstep = BitVec.ofNat 8 x ∧ v.codeAddr 6 = s.codeAddr 7 ∧ v.vregs = u.vregs ∧
      v.regs = u.regs ∧ v.masks = u.masks ∧ v.mem = u.mem

/-- The indexed load of n bytes, in its scalar and its vector form: where every enabled element's access is plain it
completes; where the one of element x raises and those below it are plain, it stops there with the elements below x done
(45 R663, R667, 48 R884). -/
def LoadsIndexed (i : Instr) (f : Fmt.LSX) (n : Nat) (ext : Word → Word) : Prop :=
  ∀ s : State,
    (f.v = 0#1 → ∀ b, (opnd f.tb f.rb).scalar s = some b → LoadsAt i s f.sel f.rt (addressLSX f s b) n ext) ∧
    (f.v = 0#1 → (opnd f.tb f.rb).scalar s = none → exec i s = .refused .vectorOperandInScalar) ∧
    (f.v = 1#1 → s.pending.vl = [] → ∀ base,
      (∀ x ∈ s.enabledList f.m, s.Plain .load f.sel.toNat base (s.elementAddress f x) n) →
      ∃ t, exec i s = .next t ∧ VectorResult s s.looped t i.size f.rt f.m f.z fun x =>
        ext (s.valueAt (linearAddress base (s.elementAddress f x)) n)) ∧
    (f.v = 1#1 → s.pending.vl = [] → ∀ base, ∀ x ∈ s.enabledList f.m,
      (∀ y ∈ s.enabledList f.m, y < x → s.Plain .load f.sel.toNat base (s.elementAddress f y) n) →
      ∃ u, VectorStopped s s u f.rt f.m f.z
          (fun y => ext (s.valueAt (linearAddress base (s.elementAddress f y)) n)) x ∧
        ∀ e t, u.memRead f.sel.toNat (s.elementAddress f x) n = .trap e t → StopsAt i s u t e x)

/-- `t` is `base` but for memory, where the listed elements of a vector store are stored in ascending order, each of n
bytes at its own address: a byte that none of them stores to reads as in s, an element that no later one overlaps
reads back, and what has been replaced stays visible to a fetch and to the key cache (45 R667, 20_memory R196, R216). -/
def ElementsStored (s base t : State) (at_ : Nat → Word) (val : Nat → Word) (n : Nat) (l : List Nat) : Prop :=
  { t with mem := s.mem, stale := s.stale, rewritten := s.rewritten } = base ∧
    (∀ a : Nat, (∀ x ∈ l, ∀ j < n, a ≠ (at_ x + BitVec.ofNat 64 j).toNat) →
      Memory.read t.mem a = Memory.read s.mem a) ∧
    (∀ x ∈ l, (∀ y ∈ l, x < y → ∀ j < n, ∀ k < n,
        (at_ x + BitVec.ofNat 64 j).toNat ≠ (at_ y + BitVec.ofNat 64 k).toNat) →
      ∀ j < n, Memory.read t.mem (at_ x + BitVec.ofNat 64 j).toNat = (val x).extractLsb' (8 * j) 8) ∧
    StaleKept s t (fun a b => ∃ x ∈ l, WroteAt (at_ x) n (val x) a b) ∧
    TetrasKept s t (fun a b => ∃ x ∈ l, WroteAt (at_ x) n (val x) a b)

/-- The indexed store of n bytes, in its scalar and its vector form: where every enabled element's access is plain, all
are stored; where the one of element x raises and those below it are plain, it stops there with those stored (45 R663,
R667, 48 R884). -/
def StoresIndexed (i : Instr) (f : Fmt.LSX) (n : Nat) : Prop :=
  ∀ s : State,
    (f.v = 0#1 → ∀ b, (opnd f.tb f.rb).scalar s = some b →
      StoresAt i s f.sel (addressLSX f s b) n (s.reg f.rt)) ∧
    (f.v = 0#1 → (opnd f.tb f.rb).scalar s = none → exec i s = .refused .vectorOperandInScalar) ∧
    (f.v = 1#1 → s.pending.vl = [] → ∀ base, Memory.wf s.mem = true →
      (∀ x ∈ s.enabledList f.m, s.Plain .store f.sel.toNat base (s.elementAddress f x) n) →
      let at_ := fun x => linearAddress base (s.elementAddress f x)
      ∃ t, exec i s = .next t ∧
        ElementsStored s (s.looped.advance i.size) t at_ (s.vec f.rt) n (s.enabledList f.m)) ∧
    (f.v = 1#1 → s.pending.vl = [] → ∀ base, Memory.wf s.mem = true → ∀ x ∈ s.enabledList f.m,
      let below := (s.enabledList f.m).filter fun y => decide (y < x)
      (∀ y ∈ below, s.Plain .store f.sel.toNat base (s.elementAddress f y) n) →
      ∃ u, ElementsStored s s u (fun y => linearAddress base (s.elementAddress f y)) (s.vec f.rt) n below ∧
        (below = [] → u = s) ∧
        ∀ e t, u.memWrite f.sel.toNat (s.elementAddress f x) n (s.vec f.rt x) = .trap e t → StopsAt i s u t e x)

/-- At state s the instruction stores the octa v at va where a reservation exists there, and goes on; the reservation
is gone in either case (45 R716). -/
def StoresConditionally (i : Instr) (s : State) (seg : BitVec 3) (va v : Word) : Prop :=
  (s.resv ≠ some va → exec i s = .next ({ s with resv := none }.advance i.size)) ∧
  (s.resv = some va →
    (∀ base, Memory.wf s.mem = true → s.Plain .store seg.toNat base va 8 →
      ∃ t, exec i s = .next t ∧
        StoredAt s ({ s with resv := none }.advance i.size) t (linearAddress base va) 8 v) ∧
    (∀ t, s.memWrite seg.toNat va 8 v = .ok () t → exec i s = .next ({ t with resv := none }.advance i.size)) ∧
    (∀ e t, s.memWrite seg.toNat va 8 v = .trap e t → exec i s = t.raise (Instr.ctx i) e))

/-! ### Branches -/

/-- The state of a branch that has written its link register and its loop counter (46 R746, R780). -/
def State.linked (s : State) (n : Nat) (lk : BitVec 2) (dec : Bool) : State :=
  (s.countLoop dec).link lk (nextIp s.ip n)

/-- At state s the instruction branches under `cond` (46 R744 to R748, R780): Lk = 3 is refused; not taken it goes on;
taken near it sets ip; taken far it loads the selector and descriptor; a taken branch to itself raises BT with nothing
written. -/
def BranchesAt (i : Instr) (s : State) (lk : BitVec 2) (ca : BitVec 3) (disp : Word) (dec cond : Bool) : Prop :=
  let taken := cond && (!dec || s.lc != 0)
  let base := if ca = 7#3 then s.ip else (s.codeAddr ca).off
  let target : CodeAddr := ⟨base + disp, if ca = 0#3 ∨ ca = 7#3 then s.cs else (s.codeAddr ca).sel⟩
  (lk = 3#2 → exec i s = .refused .reservedLink) ∧
  (lk ≠ 3#2 →
    (taken = false → exec i s = .next ((s.linked i.size lk dec).advance i.size)) ∧
    (taken = true → target = s.codeAddr 7 → exec i s = s.raise (Instr.ctx i) (.plain causeBT)) ∧
    (taken = true → target ≠ s.codeAddr 7 → ca = 0#3 ∨ ca = 7#3 →
      exec i s = .next ((s.linked i.size lk dec).setIp target.off)) ∧
    (taken = true → target ≠ s.codeAddr 7 → ca ≠ 0#3 → ca ≠ 7#3 → ∀ d u,
      (s.linked i.size lk dec).loadDescriptor target.sel false = .ok d u →
      exec i s = .next ((u.putSelector 7 ⟨target.sel, some d⟩).setIp target.off)))

/-! ### Traps by instruction -/

/-- The outcome is the trap `t` of the instruction in progress at state s, whose fetch leaves nothing; where TVEC is
settled and the descriptor of the vector's selector loads, it is the next state of the entry: the return address in c6,
the vector in c7, the cause in M_CAUSE (60 R1004, R1020, R1021). -/
def TrapsTo (o : Outcome) (s : State) (t : TrapInfo) : Prop :=
  o = (s.abandonFetch.takeTrap t).outcome ∧
  ∀ d u, s.pending.tvec = [] → (s.abandonFetch.saveForTrap t).loadDescriptor (s.csr.tvec.get 3).sel false = .ok d u →
    ∃ v, o = .next v ∧ v.codeAddr 6 = ⟨t.epc, s.cs⟩ ∧ v.codeAddr 7 = vectorOf (s.csr.tvec.get 3) s.om ∧
      v.csDesc = some d ∧ v.csr.cause = s.csr.cause.set 3 (t.cause.setWidth 16) ∧
      v.mode.pmStack.extractLsb' 8 56 = s.mode.pmStack.extractLsb' 0 56 ∧ v.om = 3#2 ∧ v.im = 1#1 ∧
      v.ipl = t.level.getD s.ipl ∧ v.regs = s.regs ∧ v.mem = s.mem

/-- A system instruction that MACHINE_ONLY may name runs in this state (47 R821). -/
def State.allows (s : State) (op : Config.SysOp) : Prop := s.om = 3#2 ∨ op ∉ s.config.machineOnly

/-! ### Steps -/

/-- With the core to move and nothing waiting, requested or pending, the step of the core goes on to fetch its next
instruction in state u, where the fetch has begun (60 R1013, 70 R1093, log 5). -/
structure State.Reaches (s u : State) : Prop where
  scheduled : s.env = [] ∨ s.env.head? = some .core
  awake : s.mode.waiting = false
  unmasked : s.inputs.nmi = false
  unrequested : s.recognised = false
  unstepped : s.mode.stepPending = false
  unmatched : ∃ v, { s with env := s.env.tail }.instructionMatch = .ok () v ∧ u = v.beginFetch

/-- The instruction that the words of `i` decode to: SLEI is SLTI with the next constant (40 R357), every other one
is itself. -/
def Instr.canonical : Instr → Instr
  | .slei f => .slti { f with imm := f.imm + 1 }
  | i => i

/-- What a prefix joins its immediate to: the root opcode and the operation on the free value, A and the immediate of
each RIL instruction (30 R263). -/
def prefixedOperations : List (Byte × (Word → Word → Word → Word)) :=
  [(0xD4, fun _ a b => a + b), (0x42, divSigned), (0xD0, fun _ a b => compareSigned a b),
   (0xD6, fun _ a b => ofProp (a == b)), (0xD7, fun _ a b => ofProp (a != b)),
   (0xD3, fun _ a b => ofProp (decide (a.toInt < b.toInt))), (0xDB, fun _ a b => ofProp (decide (a.toInt > b.toInt))),
   (0xDF, fun _ a b => ofProp (decide (a.toNat > b.toNat))), (0xD8, fun _ a b => a &&& b), (0xD9, fun _ a b => a ||| b),
   (0xDA, fun _ a b => a ^^^ b), (0x56, fun _ a b => searchIndex 16 4 a (b.extractLsb' 0 16)),
   (0x57, fun _ a b => searchIndex 21 3 a (b.extractLsb' 0 21))]

/-- The instruction is a prefix of `size` bytes with the immediate bits p (30 R262, R263): before an instruction of the
RIL kind the two run as one, with the joined immediate and ip advanced by both lengths, in scalar and in vector form;
before another defined instruction it is refused, before an undefined root it takes UNIMP with nothing changed by the
fetch, and a fetch of the unit that raises takes that exception. -/
def PrefixesWith {w : Nat} (i : Instr) (size : Nat) (p : BitVec w) : Prop :=
  ∀ s : State,
    (∀ root op, (root, op) ∈ prefixedOperations → ∀ (g : Fmt.RIL) (s1 : State),
      s.fetchPair size = .ok (bytesOf 6 (g.word root)) s1 →
      (g.v = 0#1 → g.z = 0#1 → g.m = 0#3 →
        exec i s = .next (s1.result (size + 6) g.rt (op (s1.free 0) (s1.reg g.ra) (sext (p ++ g.imm))))) ∧
      (g.v = 0#1 → (g.z ≠ 0#1 ∨ g.m ≠ 0#3) → exec i s = .refused .noRoleField) ∧
      (g.v = 1#1 → s1.pending.vl = [] →
        ∃ t, exec i s = .next t ∧ VectorResult s1 s1.looped t (size + 6) g.rt g.m g.z fun x =>
          op (s1.free x) (s1.vec g.ra x) (sext (p ++ g.imm)))) ∧
    (∀ bs s1, s.fetchPair size = .ok bs s1 → (∀ e ∈ prefixedOperations, e.1 ≠ bs.headD 0) →
      (lengthOf (bs.headD 0) ≠ none → exec i s = .refused .prefixTarget) ∧
      (lengthOf (bs.headD 0) = none →
        exec i s = { s with draw := s1.draw }.raise ⟨bs.length, wordOf bs⟩ (.plain causeUNIMP))) ∧
    ∀ e s1, s.fetchPair size = .trap e s1 →
      exec i s = ({ s1 with draw := s1.draw + 1 }.takeTrap
        ⟨e.cause, s1.ip, none, e.badAddr, s1.freeBadInstr, e.debug, false⟩).outcome

/-! ### Modes -/

/-- The control registers that a user program reaches neither by its own instructions nor by a trap: TVEC, GDTB, GDTL,
TCB, DBAD, ASID, KEYS, TIME, M_TICK and D_VTMP; CAUSE and BADADDR of supervisor and hypervisor mode; SCRATCH of every
higher mode; the enables of the higher modes in IE; M_CR0 but for bits 63 (D) and 30 (DCE); and M_DBCR but for its
single-step bits 63:55 (10_state R62, R66, 45 R725, 60 R1020). -/
def Csrs.userProof (c d : Csrs) : Prop :=
  c.tvec = d.tvec ∧ c.gdtb = d.gdtb ∧ c.gdtl = d.gdtl ∧ c.tcb = d.tcb ∧ c.dbad = d.dbad ∧ c.asid = d.asid ∧
    c.keys = d.keys ∧ c.time = d.time ∧ c.tick = d.tick ∧ c.vtmp = d.vtmp ∧
    (∀ k : Fin 4, k ≠ 0 → k ≠ 3 → c.cause.get k = d.cause.get k ∧ c.badaddr.get k = d.badaddr.get k) ∧
    (∀ k : Fin 4, k ≠ 0 → c.scratch.get k = d.scratch.get k) ∧ c.ie >>> 1 = d.ie >>> 1 ∧
    (∀ n < 63, n ≠ 30 → c.cr0.getLsbD n = d.cr0.getLsbD n) ∧ c.dbcr.extractLsb' 0 55 = d.dbcr.extractLsb' 0 55

/-- The control registers that a user program reaches by a trap only: M_CAUSE, M_BADADDR, M_BAD_INSTR, bit 63 of M_CR0
and the single-step bits of M_DBCR (60 R1020). -/
def Csrs.trapOnly (c d : Csrs) : Prop :=
  c.cause.get 3 = d.cause.get 3 ∧ c.badaddr.get 3 = d.badaddr.get 3 ∧ c.badInstr = d.badInstr ∧
    c.cr0.getLsbD 63 = d.cr0.getLsbD 63 ∧ c.dbcr = d.dbcr

/-! ### Traps -/

/-- All that a trap entry can change between s and v: the code address registers and the descriptor of CS, the mode
and its stacks, M_CAUSE, M_BADADDR, M_BAD_INSTR, M_DBCR, M_CR0, the old selectors kept until MEMSB, and the draw
counter (60 R1020). Every other field is as it was. -/
def State.TrapKeeps (s v : State) : Prop :=
  { v with
    creg := s.creg, csDesc := s.csDesc, draw := s.draw, pending := { v.pending with sel := s.pending.sel }
    mode := { v.mode with
      pmStack := s.mode.pmStack, hkind := s.mode.hkind, dbg := s.mode.dbg, diCount := s.mode.diCount
      stepPending := s.mode.stepPending, waiting := s.mode.waiting }
    csr := { v.csr with
      cause := s.csr.cause, badaddr := s.csr.badaddr, badInstr := s.csr.badInstr, dbcr := s.csr.dbcr
      cr0 := s.csr.cr0 } } = s

/-- All that a return from an exception can change between s and v: the code address registers and the descriptor of
CS, the mode stack, the handler kind and debug mode, M_DBCR, M_CR0, the semaphores, the old selectors kept until MEMSB,
and the draw counter (47 R844, 60 R1024). Every other field is as it was. -/
def State.ReturnKeeps (s v : State) : Prop :=
  { v with
    creg := s.creg, csDesc := s.csDesc, sema := s.sema, draw := s.draw
    pending := { v.pending with sel := s.pending.sel }
    mode := { v.mode with pmStack := s.mode.pmStack, hkind := s.mode.hkind, dbg := s.mode.dbg }
    csr := { v.csr with dbcr := s.csr.dbcr, cr0 := s.csr.cr0 } } = s

end Sys2Proof.Machine
end

