-- ==== Sys2Proof/Certificates/Slice0/Obligations.lean ====
section
/-! DEFINITION. The statements about the machine, for the provers. -/

open Sys2Proof Sys2Proof.Machine

/-- Words written out from the encodings of the spec decode to their instructions (40 R308, 41 R421, 42 R485, 43 R540,
44 R610, 45 R670, 46 R752, 47 R822, 48 R899, 49 R930, 49 R952, 30 R264). -/
def Obligations.SampleWords : Prop :=
  decodeTableWord 48 0x080080408602 = some (.add ⟨0, 3, 1, 2, 0, 4, 0, 0, 0⟩) ∧
  decodeTableWord 32 0x00408658 = some (.sllS ⟨0, 3, 1, 2, 0, 0, 0⟩) ∧
  decodeTableWord 48 0x0811708086AA = some (.bfextu ⟨0, 3, 1, 4, 2, 11, 2, 0, 0⟩) ∧
  decodeTableWord 48 0x000800408662 = some (.fadd ⟨0, 3, 1, 2, 0, 0, 0, 0⟩) ∧
  decodeTableWord 48 0x200002008680 = some (.ldb ⟨3, 1, 16, 1⟩) ∧
  decodeTableWord 48 0x0001604086B0 = some (.ldbx ⟨0, 3, 1, 2, 0, 3, 1, 0, 0, 0, 0⟩) ∧
  decodeTableWord 48 0x20002040C8E3 = some (.stol ⟨36, 1, 2, 0, 1, 1⟩) ∧
  decodeTableWord 48 0x0001E040C026 = some (.beq ⟨0, 8, 1, 2, 0, 7, 1⟩) ∧
  decodeTableWord 48 0xFFFFFFFFA030 = some (.dbra ⟨0, 0x3FFF4, 7, 0xFFFF⟩) ∧
  decodeTableWord 48 0x3C0000408607 = some (.tlbrw ⟨3, 1, 2, 0, 0, 0, 0⟩) ∧
  decodeTableWord 48 0x7A0010008602 = some (.v2bits ⟨0, 3, 1, 0, 2, 0, 0, 0, 0⟩) ∧
  decodeTableWord 48 0x000800408666 = some (.dfadd ⟨0, 3, 1, 2, 0, 0, 0, 0⟩) ∧
  decodeTableWord 48 0x000080408667 = some (.dfma ⟨0, 3, 1, 2, 0, 4, 0, 0, 0⟩) ∧
  decodeTableWord 48 0x00060020060F = some (.csrrd ⟨3, 0, 0x3001, 0, 0, 0⟩) ∧
  decodeTableWord 48 0x020606C0800F = some (.csrrw ⟨0, 1, 0x3036, 0, 0, 0⟩) ∧
  decodeTableWord 32 0x0001E0A5 = some (.sys ⟨240, 0⟩) ∧
  decodeTableWord 32 0x00901052 = some (.mtvl ⟨0, 1, 0, 0, 0⟩) ∧
  decodeTableWord 32 0x00211652 = some (.vmadd ⟨3, 1, 2, 0, 0⟩) ∧
  decodeTableWord 48 0x700000408702 = some (.vsllv ⟨1, 3, 1, 2, 0, 0, 0, 0, 0⟩) ∧
  decodeTableWord 48 0xA00000408602 = some (.aes64ds ⟨0, 3, 1, 2, 0, 0, 0, 0, 0⟩) ∧
  decodeTableWord 32 0x60008601 = some (.sha256sig0 ⟨0, 3, 1, 0, 0⟩) ∧
  decodeTableWord 48 0xC00000408402 = some (.nnaMtwt ⟨0, 2, 1, 2, 0, 0, 0, 0, 0⟩) ∧
  decodeTableWord 32 0xC0008001 = some (.nnaTrig ⟨0, 0, 1, 0, 0⟩) ∧
  decodeTableWord 48 0xEE0000408602 = some (.rwCoeff ⟨0, 3, 1, 2, 0, 0, 0, 0, 0⟩) ∧
  decodeTableWord 16 0x4846 = some (.exi7 ⟨0, 0x24⟩)

/-- Decoding the bytes of a well-formed instruction gives that instruction and its length (30 R240, 30 R242, 30 R245, 30
R247, 30 R249, 40 R357). SLEI's reading as SLTI is log 27. -/
def Obligations.DecodeEncode : Prop :=
  ∀ (i : Instr) (rest : List Byte), WellFormed i → decode (encode i ++ rest) = .ok (Instr.canonical i, i.size)

/-- Undefined root opcodes, function codes no rule lists and bit 8 where a row fixes it are rejected by name (30 R243,
30 R254 to R261, 30 R285, 47 R822, 48 R881, 93 U38). That a row without a vector form rejects bit 8 set is the
spec's own decision D67. -/
def Obligations.DecodeRejects : Prop :=
  (∀ (root : Byte) (rest : List Byte), lengthOf root = none →
    decode (root :: rest) = .reject (.unimplementedRoot root)) ∧
  (∀ (root : Byte) (rest : List Byte) (n : Nat), lengthOf root = some n → rest.length + 1 < n →
    decode (root :: rest) = .reject .tooShort) ∧
  (∀ w : Word, rootOf w ∈
    ([0x0F,
      0x00, 0x10, 0x12, 0x14, 0x20, 0x24, 0x25, 0x26, 0x27, 0x28, 0x29, 0x2A, 0x2B, 0x2C, 0x2D, 0x2E, 0x2F,
      0x30, 0x34, 0x35, 0x36, 0x37, 0x38, 0x39, 0x3A, 0x3B, 0x3C, 0x3D, 0x3E, 0x3F, 0x53, 0x80, 0x81, 0x82,
      0x83, 0x84, 0x85, 0x86, 0x87, 0x88, 0x89, 0x90, 0x91, 0x92, 0x93, 0x94, 0x95, 0x9F, 0xA5, 0xA6, 0xE1,
      0xE2, 0xE3, 0xE4, 0xF2, 0xF7, 0xF8, 0xF9, 0xFA] :
      List Byte) →
    vectorBitOf w = 1#1 → decodeWord w = .reject (.vectorBit (rootOf w))) ∧
  ∀ (w : Word) (root : Byte) (lo n : Nat) (codes : List Nat), rootOf w = root →
    let code := w.toNat / 2 ^ lo % 2 ^ n
    ((root, lo, n, codes) ∈ functionCodes → code ∉ codes →
      decodeWord w = .reject (.unimplementedFunction root code)) ∧
    ((root, lo, n, codes) ∈ scalarCodes → code ∈ codes → vectorBitOf w = 1#1 →
      decodeWord w = .reject (.vectorBit root)) ∧
    ((root, lo, n, codes) ∈ vectorCodes → code ∈ codes → vectorBitOf w = 0#1 →
      decodeWord w = .reject (.unimplementedFunction root code)) ∧
    (root = 0x0F#8 → 4 ≤ w.toNat / 2 ^ 41 % 8 → vectorBitOf w = 0#1 → decodeWord w = .reject .reservedCsrOp)

/-- An instruction fetch takes its bytes one after the other along the path of an access, each from memory or from the
bytes that the instruction cache may still hold (10 R41, 20 R162, 20 R190, 20 R216, 30 R242, 60 R1004, 70 R1093, 70
R1094). Little-endian order is the spec's own decision D1; that the base is added with protection off is D4; the order
of the checks D28; that an old byte may be fetched is D32 and log 11; the descriptor before the first load is log 16,
the CS that the fetch began with log 10; that a failed fetch changes nothing is log 14. -/
def Obligations.FetchReadsMemory : Prop :=
  (∀ (s : State) (pa : Nat → Word),
    s.pe = false →
    (if s.ip.extractLsb' 60 4 = 0xF#4 then ∀ k, pa k = nextIp s.ip k
      else ∀ k, pa k = linearAddress (s.cached 7 s.fetching.cs).o0 (nextIp s.ip k)) →
    (∀ k < 8, s.translates (pa k) = false ∧ platformKind s.config.platformMap (pa k).toNat = .memory ∧
      ∃ a, pmaAttributes s.config.pmaTable (pa k).toNat = some a ∧ Access.pmaRight .fetch a = true) →
    ((∀ k < 8, ∀ e ∈ s.stale, e.addr ≠ (pa k).toNat) → s.fetchInstruction s.ip = .ok
      ((List.range ((lengthOf (Memory.read s.mem (pa 0).toNat)).getD 2)).map fun k =>
        Memory.read s.mem (pa k).toNat) s) ∧
    ∃ bs u, s.fetchInstruction s.ip = .ok bs u ∧ { u with draw := s.draw } = s ∧
      bs.length = (lengthOf (bs.headD 0)).getD 2 ∧ ∀ k < bs.length, ∃ b, bs[k]? = some b ∧
        (b = Memory.read s.mem (pa k).toNat ∨ ∃ e ∈ s.stale, e.addr = (pa k).toNat ∧ b = e.old)) ∧
  (∀ (s : State) (va : Word),
    (∀ pa t, s.PathTo .fetch 7 va 1 pa t → ∃ b u, s.fetchByte va = .ok b u ∧ { u with draw := t.draw } = t ∧
      (b = Memory.read t.mem pa.toNat ∨ ∃ e ∈ t.stale, e.addr = pa.toNat ∧ b = e.old) ∧
      ((∀ e ∈ t.stale, e.addr ≠ pa.toNat) → u = t)) ∧
    ∀ f, s.PathFails .fetch 7 va 1 f → (s.fetchByte va).failure = some f) ∧
  (∀ (st : Nat → State) (b : Nat → Byte) (va : Word), let n := (lengthOf (b 0)).getD 2
    ((∀ k < n, (st k).fetchByte (nextIp va k) = .ok (b k) (st (k + 1))) →
      (st 0).fetchInstruction va = .ok ((List.range n).map b) (st n)) ∧
    ∀ k < n, ∀ f, (∀ j < k, (st j).fetchByte (nextIp va j) = .ok (b j) (st (j + 1))) →
      ((st k).fetchByte (nextIp va k)).failure = some f → ((st 0).fetchInstruction va).failure = some f) ∧
  ∀ (s t : State) (va : Word) (e : Exc), s.fetchInstruction va = .trap e t → Abandoned s t

/-- A step runs the decoded instruction (30 R242, 47 R826, 60 R1013, 60 R1051, 30 R262). What stands before the fetch
follows the spec's own decisions D82 and D63 and the schedule of log 5; that a single step is noted from DBCR[63] as it
stands when the instruction starts is D19; that a prefix and its instruction are one unit is D80, the start of a fetch
log 10. -/
def Obligations.StepRunsDecoded : Prop :=
  ∀ (s s1 s2 : State) (bs : List Byte) (i : Instr) (n : Nat),
    s.Reaches s1 → s1.ip.getLsbD 0 = false → s1.fetchInstruction s1.ip = .ok bs s2 → decode bs = .ok (i, n) →
    WellFormed i →
    let u := if isPrefix i then { s1 with draw := s2.draw } else s2
    step s = exec i { u with
      draw := u.draw + 1
      mode := { u.mode with
        stepPending := u.csr.dbcr.getLsbD 63
        diCount := if u.mode.diCount = 0#3 then 0#3 else u.mode.diCount - 1#3 } }

/-- What a step does when no defined instruction is fetched (30 R242, 30 R285, 60 R1011, 60 R1015, 93 U12, 93 U30, 93
U38). That M_BAD_INSTR is unspecified here is log 22; the order of the checks is the spec's own decision D82. -/
def Obligations.StepWithoutInstruction : Prop :=
  ∀ s s1 : State, s.Reaches s1 →
    (s1.ip.getLsbD 0 = true → step s = .refused .oddInstructionPointer) ∧
    (s1.ip.getLsbD 0 = false →
      (∀ e s2, s1.fetchInstruction s1.ip = .trap e s2 →
        step s = ({ s2 with draw := s2.draw + 1 }.takeTrap
          ⟨e.cause, s2.ip, none, e.badAddr, s2.freeBadInstr, e.debug, false⟩).outcome) ∧
      ∀ bs s2, s1.fetchInstruction s1.ip = .ok bs s2 →
        (∀ r, decode bs = .reject r → r ≠ .reservedCsrOp →
          step s = { s1 with draw := s2.draw }.raise ⟨bs.length, wordOf bs⟩ (.plain causeUNIMP)) ∧
        (decode bs = .reject .reservedCsrOp → step s = .refused .reservedCsrOperation) ∧
        ∀ i n flaw, decode bs = .ok (i, n) → WellFormed.check i = some flaw → step s = .refused (refusalOf flaw))

/-- What the spec fixes at reset (70 R1080, 10 R106, 10 R122, 10 R123, 60 R1022). PMSTACK but for its machine mode, Pe,
D, D_VSTEP, M_DBCR, resv, di_count, debug mode and the handler kinds are the spec's own decisions D2, D3, D7, D22,
D23 and D85. -/
def Obligations.ResetValues : Prop :=
  let s := State.reset
  s.ip = 0xFFFFFFFFFFFC0100 ∧ s.mode.pmStack = 0x3F3F3F3F3F3F3F3F ∧ s.om = 3#2 ∧ s.ipl = 7#3 ∧ s.im = 1#1 ∧
  s.csr.vstep = 0 ∧ s.csr.dbcr = 0 ∧ s.csr.tick = 0 ∧ s.csr.cr0.getLsbD 0 = false ∧ s.csr.cr0.getLsbD 34 = false ∧
  s.csr.cr0.getLsbD 35 = false ∧ s.csr.cr0.getLsbD 63 = false ∧ s.resv = none ∧ s.mode.diCount = 0 ∧
  s.mode.dbg = false ∧ s.mode.hkind = 0 ∧ s.bank 27 = 29 ∧ s.reg 0 = 0 ∧ s.csDesc = none ∧
  (∀ n : Fin 7, (s.segs.get n).desc = none) ∧ ∀ n : Fin 3, (s.sys.get n).desc = none

/-- The state after reset satisfies the invariant (70 R1080, 20 R140, 10 R21, 10 R51, 10 R58). It rests on the model's
own reset choices of logs 1, 2 and 3 (VL, TLB, queues, neurons, memory) and on the spec's own decision D22. -/
def Obligations.ResetInv : Prop :=
  State.reset.Inv

/-- Every step keeps the invariant and the parameters of the implementation (10 R21, 10 R51, 10 R58, 10 R122, 20 R140,
20 R180, 47 R835, 49 R950). The bounds of queues and vectors are logs 4, 7 and 44. -/
def Obligations.StepKeepsInv : Prop :=
  ∀ s t : State, s.Inv → step s = .next t → t.Inv ∧ t.config = s.config

/-- No instruction leaves user mode but by a trap into machine mode (60 R1002, 60 R1020, 10 R104, 47 R843, 47 R844). The
pushed entry is the spec's own decision D20. -/
def Obligations.UserModeLeftByTraps : Prop :=
  ∀ (i : Instr) (s t : State), s.om = 0#2 → exec i s = .next t →
    t.mode.pmStack = s.mode.pmStack ∨
      (t.om = 3#2 ∧ t.im = 1#1 ∧ t.mode.pmStack.extractLsb' 8 56 = s.mode.pmStack.extractLsb' 0 56)

/-- No instruction run in user mode changes TVEC, GDTB, GDTL, TCB, DBAD, ASID, KEYS, TIME, M_TICK, D_VTMP, CAUSE and
BADADDR of supervisor and hypervisor mode, SCRATCH and the IE bits of the higher modes, M_CR0 but for D and DCE, and
M_DBCR but for its single-step bits; and none that stays in user mode changes M_CAUSE, M_BADADDR, M_BAD_INSTR, D or the
single-step bits (10 R62, 10 R64, 10 R66, 10 R69, 47 R821, 47 R822, 60 R1000, 60 R1020). That TIME can be written from
machine mode only is the spec's own decision D16, that the debug CSRs need machine mode D12, debug mode and the
single-step stack D23 and D19. -/
def Obligations.UserModeKeepsMachineRegisters : Prop :=
  ∀ (i : Instr) (s t : State), s.om = 0#2 → exec i s = .next t →
    Csrs.userProof s.csr t.csr ∧ (t.om = 0#2 → Csrs.trapOnly s.csr t.csr)

/-- Waiting, NMI, maskable interrupts and single step come before the fetch, in this order (47 R829, 60 R1013, 60 R1030,
60 R1031, 60 R1032, 60 R1033, 60 R1036, 60 R1051). The order, the level test, NMI and the end of WFI are the spec's
own decisions D20, D63, D66, D81 and D82, that SSM comes before the next instruction D19 and that it enters debug mode
D23; the waiting state is log 9, the requests log 26, the unspecified M_BAD_INSTR log 22. -/
def Obligations.BetweenInstructions : Prop :=
  ∀ s : State, s.env = [] →
    let take := fun (s1 : State) (cause : BitVec 8) (level : Option (BitVec 3)) (debug interrupt : Bool) =>
      ({ s1 with draw := s.draw + 1 }.takeTrap ⟨cause, s.ip, level, none, s.freeBadInstr, debug, interrupt⟩).outcome
    (s.mode.waiting = true → s.inputs.irqLevel = 0#3 → s.inputs.nmi = false → step s = .next s) ∧
    (s.mode.waiting = true → (s.inputs.irqLevel ≠ 0#3 ∨ s.inputs.nmi = true) →
      step s = .next ({ s with mode := { s.mode with waiting := false } }.advance 2)) ∧
    (s.mode.waiting = false → s.inputs.nmi = true →
      step s = take { s with inputs := { s.inputs with nmi := false } } 254 (some 7) false true) ∧
    (s.mode.waiting = false → s.inputs.nmi = false → s.inputs.irqLevel ≠ 0#3 → s.im = 0#1 →
      s.ipl < s.inputs.irqLevel → s.mode.diCount = 0#3 →
      step s = take s s.inputs.irqCause (some s.inputs.irqLevel) false true) ∧
    (s.inputs.irqLevel = 0#3 ∨ s.im = 1#1 ∨ s.inputs.irqLevel ≤ s.ipl ∨ s.mode.diCount ≠ 0#3 →
      s.recognised = false) ∧
    (s.mode.waiting = false → s.inputs.nmi = false → s.recognised = false → s.mode.stepPending = true →
      step s = take s 32 none true false)

/-- What a trap entry saves and switches, and that it changes nothing else; what an exception of an instruction hands it;
and the cause codes (60 R1011, 60 R1020, 60 R1021, 60 R1022, 60 R1054, 60 R1004, 60 R1010, 70 R1093). The pushed entry, the single-step stack, debug mode,
the handler kind and M_BAD_INSTR are the spec's own decisions D20, D19, D23, D7 and D83; the descriptor load is D87
and log 17, the cancelled single step log 23, what is taken back of the fetch log 14. -/
def Obligations.TrapEntry : Prop :=
  (∀ (s u : State) (t : TrapInfo) (d : Descriptor), s.pending.tvec = [] →
    (s.saveForTrap t).loadDescriptor (s.csr.tvec.get 3).sel false = .ok d u →
    ∃ v, s.takeTrap t = .ok () v ∧
      v.codeAddr 6 = ⟨t.epc, s.cs⟩ ∧
      v.codeAddr 7 = ⟨((s.csr.tvec.get 3).off &&& ~~~0xFF#64) + 0x20#64 * s.om.setWidth 64, (s.csr.tvec.get 3).sel⟩ ∧
      (∀ n, n ≠ 6#3 → n ≠ 7#3 → v.codeAddr n = s.codeAddr n) ∧ v.csDesc = some d ∧
      v.mode.pmStack = (s.mode.pmStack <<< 8) |||
        (0#2 ++ 3#2 ++ t.level.getD s.ipl ++ 1#1 : BitVec 8).setWidth 64 ∧
      v.csr.cause = s.csr.cause.set 3 (t.cause.setWidth 16) ∧ v.csr.badInstr = t.badInstr ∧
      v.csr.badaddr = (match t.badAddr with
        | some a => s.csr.badaddr.set 3 a
        | none => s.csr.badaddr) ∧
      v.mode.diCount = 0 ∧ v.csr.dbcr.getLsbD 63 = false ∧
      v.csr.dbcr.extractLsb' 55 8 = s.csr.dbcr.extractLsb' 55 7 ++ s.csr.dbcr.extractLsb' 63 1 ∧
      v.csr.dbcr.extractLsb' 0 55 = s.csr.dbcr.extractLsb' 0 55 ∧
      v.csr.cr0.getLsbD 63 = s.mode.dbg ∧ v.csr.cr0.extractLsb' 0 63 = s.csr.cr0.extractLsb' 0 63 ∧
      v.mode.dbg = t.debug ∧ v.mode.hkind = (s.mode.hkind <<< 1) ||| (BitVec.ofBool t.interrupt).setWidth 8 ∧
      v.mode.stepPending = false ∧ v.mode.waiting = false ∧
      v.pending.sel = notePending s.pending.sel 7 ⟨s.cs, s.csDesc⟩ ⟨(s.csr.tvec.get 3).sel, some d⟩ ∧ s.TrapKeeps v) ∧
  (∀ (s v : State) (t : TrapInfo), s.takeTrap t = .ok () v → s.TrapKeeps v) ∧
  (∀ (s : State) (c : Ctx) (e : Exc), s.raise c e =
    (s.abandonFetch.takeTrap ⟨e.cause, s.ip, none, e.badAddr, c.bits, e.debug, false⟩).outcome) ∧
  (∀ (s v : State) (c : Ctx) (e : Exc), s.raise c e = .next v →
    v.codeAddr 6 = ⟨s.ip, s.cs⟩ ∧ v.csr.badInstr = c.bits ∧ v.csr.cause.get 3 = e.cause.setWidth 16 ∧
      v.mode.dbg = e.debug ∧ v.mode.hkind.getLsbD 0 = false ∧ v.ipl = s.ipl ∧ v.om = 3#2 ∧ v.im = 1#1 ∧
      (∀ a, e.badAddr = some a → v.csr.badaddr.get 3 = a) ∧ (e.badAddr = none → v.csr.badaddr = s.csr.badaddr) ∧
      s.abandonFetch.TrapKeeps v) ∧
  (∀ i : Instr, Instr.ctx i = ⟨i.size, encodeWord i⟩) ∧
  (causeIBE = 1 ∧ causeEXF = 2 ∧ causeTLB = 4 ∧ causeSSM = 32 ∧ causeDBG = 33 ∧ causeUNIMP = 37 ∧ causeFLT = 38 ∧
    causeCHK = 39 ∧ causeKEY = 49 ∧ causeDWF = 50 ∧ causeDRF = 51 ∧ causeSGB = 52 ∧ causePRIV = 53 ∧ causeBT = 55 ∧
    causeSTK = 56 ∧ causeDBE = 60 ∧ causePMA = 61 ∧ causeNMI = 254)

/-- The vector address of a trap is TVEC[3] aligned to $100 plus $20 times the mode (R1021). -/
def Obligations.VectorAddress : Prop :=
  (∀ (c : CodeAddr) (m : BitVec 2), vectorOf c m = ⟨(c.off &&& ~~~0xFF#64) + 0x20#64 * m.setWidth 64, c.sel⟩) ∧
  (∀ sel, vectorOf ⟨0xFFFFFFFFFFFC0000, sel⟩ 0 = ⟨0xFFFFFFFFFFFC0000, sel⟩ ∧
    vectorOf ⟨0xFFFFFFFFFFFC0000, sel⟩ 1 = ⟨0xFFFFFFFFFFFC0020, sel⟩ ∧
    vectorOf ⟨0xFFFFFFFFFFFC0000, sel⟩ 2 = ⟨0xFFFFFFFFFFFC0040, sel⟩ ∧
    vectorOf ⟨0xFFFFFFFFFFFC0000, sel⟩ 3 = ⟨0xFFFFFFFFFFFC0060, sel⟩) ∧
  ∀ (s v : State) (t : TrapInfo), s.pending.tvec = [] → s.takeTrap t = .ok () v →
    v.codeAddr 7 = vectorOf (s.csr.tvec.get 3) s.om

/-- RTE restores the mode stack, debug mode and the single-step bit, returns to c6 plus a constant and changes nothing
else (47 R821, 47 R844, 60 R1022, 60 R1024, 70 R1093). The entry shifted in, the single-step bit, debug mode and the handler kind are the spec's own
decisions D20, D19, D23 and D7; the descriptor load is D87 and log 17. -/
def Obligations.ReturnFromException : Prop :=
  ∀ (f : Fmt.OSR2) (s : State),
    ((opnd f.tb f.rb).scalar s = none → exec (.rte f) s = .refused .vectorOperandInScalar) ∧
    ∀ b, (opnd f.tb f.rb).scalar s = some b →
      (s.om = 0#2 → exec (.rte f) s = s.raise (Instr.ctx (.rte f)) (.plain causePRIV)) ∧
      (s.om ≠ 0#2 → ∀ d u, (s.restoreFromTrap (b.extractLsb' 0 6)).loadDescriptor (s.codeAddr 6).sel false = .ok d u →
        ∃ t, exec (.rte f) s = .next t ∧
          t.codeAddr 7 = ⟨(s.codeAddr 6).off + (f.ra ++ f.rt).setWidth 64, (s.codeAddr 6).sel⟩ ∧ t.csDesc = some d ∧
          (∀ n, n ≠ 7#3 → t.codeAddr n = s.codeAddr n) ∧
          t.mode.pmStack = (s.mode.pmStack >>> 8) ||| 0x3F00000000000000#64 ∧
          t.csr.dbcr.getLsbD 63 = s.csr.dbcr.getLsbD 55 ∧
          t.csr.dbcr.extractLsb' 55 8 = 0#1 ++ s.csr.dbcr.extractLsb' 56 7 ∧
          t.csr.dbcr.extractLsb' 0 55 = s.csr.dbcr.extractLsb' 0 55 ∧
          t.mode.dbg = s.csr.cr0.getLsbD 63 ∧ t.csr.cr0 = s.csr.cr0 &&& 0x7FFFFFFFFFFFFFFF#64 ∧
          t.mode.hkind = s.mode.hkind >>> 1 ∧
          (∀ k, t.sema.getLsbD k = (s.sema.getLsbD k && decide (k ≠ 0) && decide (k ≠ (b.extractLsb' 0 6).toNat))) ∧
          t.pending.sel = notePending s.pending.sel 7 ⟨s.cs, s.csDesc⟩ ⟨(s.codeAddr 6).sel, some d⟩ ∧ s.ReturnKeeps t)

/-- A return right after a trap restores the interrupted mode and address (60 R1020, 60 R1022, 60 R1024, 10 R100, 10
R106). It rests on the spec's own decisions D7, D19, D20 and D23. -/
def Obligations.TrapThenReturn : Prop :=
  ∀ (s u v : State) (t : TrapInfo) (offset : BitVec 12) (k : BitVec 6),
    s.takeTrap t = .ok () u → u.returnFromTrap offset k = .ok () v →
    v.codeAddr 7 = ⟨t.epc + offset.setWidth 64, s.cs⟩ ∧ v.om = s.om ∧ v.ipl = s.ipl ∧ v.im = s.im ∧
      v.mode.pmStack = (0x3F#8 ++ s.mode.pmStack.extractLsb' 0 56) ∧
      v.mode.hkind = (0#1 ++ s.mode.hkind.extractLsb' 0 7) ∧ v.mode.dbg = s.mode.dbg ∧
      v.csr.dbcr = s.csr.dbcr.extractLsb' 63 1 ++ 0#1 ++ s.csr.dbcr.extractLsb' 0 62 ∧
      v.csr.cr0 = 0#1 ++ s.csr.cr0.extractLsb' 0 63 ∧
      (∀ n, n ≠ 6#3 → n ≠ 7#3 → v.codeAddr n = s.codeAddr n) ∧
      (∀ j, v.sema.getLsbD j = (s.sema.getLsbD j && decide (j ≠ 0) && decide (j ≠ k.toNat))) ∧
      s.TrapKeeps { v with sema := s.sema }

/-- Sequential execution advances only the low 24 bits of the instruction pointer (R41). -/
def Obligations.SequentialAdvance : Prop :=
  (∀ (s : State) (n : Nat),
    (s.advance n).ip.extractLsb' 0 24 = s.ip.extractLsb' 0 24 + BitVec.ofNat 24 n ∧
    (s.advance n).ip.extractLsb' 24 40 = s.ip.extractLsb' 24 40 ∧ (s.advance n).cs = s.cs) ∧
  (∀ (s : State) (h : BitVec 40), s.ip = h ++ 0xFFFFFE#24 → (s.advance 2).ip = h ++ 0#24) ∧
  ∀ (f : Fmt.NOP) (s : State), exec (.nop f) s = .next (s.advance 2)

/-- General and vector registers: r0 and v0 are zero, register number 27 is banked, a write changes one register (10
R20, 10 R21, 10 R23, 60 R1022, 10 R51). Which handlers use r28 is the spec's own decision D7. -/
def Obligations.GeneralRegisters : Prop :=
  ∀ (s : State) (n k : RegNum) (w : Word),
    s.reg 0 = 0 ∧ s.setReg 0 w = s ∧
    s.bank 27 = (if s.mode.dbg then 30 else if s.om = 0#2 then 27 else if s.mode.hkind.getLsbD 0 then 28 else 29) ∧
    (n ≠ 27 → s.bank n = n) ∧ (n ≠ 0 → (s.setReg n w).reg n = w) ∧
    (s.bank k ≠ s.bank n → (s.setReg n w).reg k = s.reg k) ∧
    (n ≠ 0 → (s.setReg 27 w).reg (s.bank 27) = w) ∧
    ∀ x, s.vec 0 x = 0 ∧ s.setVec 0 x w = s

/-- Integer arithmetic, comparisons and set instructions compute their rule in scalar and vector form (30 R245 to R251,
40 R300 to R305, 40 R306 to R314, 40 R315 to R319, 40 R320 to R325, 40 R326 to R334, 40 R341 to R346, 40 R347 to
R352, 40 R353 to R357, 48 R880, 48 R884). Truncation at each step, signedness and quotients by zero follow the
spec's own decisions D40 to D43; what the two-bit T fields and the one-bit Tb select, the seven-bit signed immediate
among it, is D79 and D48; that the vector form starts at D_VSTEP and leaves it 0 is 48 R884, D67; the vector form of
ADDI, MULI and MULFI is log 47. -/
def Obligations.IntegerAndCompare : Prop :=
  (((∀ f : Fmt.R2, Computes (.addS f) (operandsR2 f) (fun _ a b _ => a + b)) ∧
  (∀ f : Fmt.R3, Computes (.add f) (operandsR3 f) (fun _ a b c => a + b + c)) ∧
  (∀ f : Fmt.RI, Computes (.addi f) (operandsRI f (sext f.imm)) (fun _ a b _ => a + b)) ∧
  (∀ f : Fmt.RIL, Computes (.addil f) (operandsRIL f (sext f.imm)) (fun _ a b _ => a + b)) ∧
  (∀ f : Fmt.RI, Computes (.ldi f) (operandsRI f (sext f.imm)) (fun _ a b _ => a + b)) ∧
  (∀ f : Fmt.R3, Computes (.sub f) (operandsR3 f) (fun _ a b _ => a - b)) ∧
  (∀ f : Fmt.R3, Computes (.neg f) (operandsR3 f) (fun _ a b _ => a - b)) ∧
  (∀ f : Fmt.RI, Computes (.subfi f) (operandsRI f (sext f.imm)) (fun _ a b _ => b - a)) ∧
  (∀ f : Fmt.R3, Computes (.mul f) (operandsR3 f) (fun _ a b c => a * b + c)) ∧
  (∀ f : Fmt.R3, Computes (.mulh f) (operandsR3 f) (fun _ a b _ => mulHigh a b)) ∧
  (∀ f : Fmt.RI, Computes (.muli f) (operandsRI f (sext f.imm)) (fun _ a b _ => a * b)) ∧
  (∀ f : Fmt.R3, Computes (.mulf f) (operandsR3 f) (fun _ a b c => mulFast a b + c)) ∧
  (∀ f : Fmt.RI, Computes (.mulfi f) (operandsRI f (zext f.imm)) (fun _ a b _ => mulFast a b)) ∧
  (∀ f : Fmt.R3, Computes (.div f) (operandsR3 f) (fun free a b _ => divSigned free a b)) ∧
  (∀ f : Fmt.RI, Computes (.divi f) (operandsRI f (sext f.imm)) (fun free a b _ => divSigned free a b)) ∧
  (∀ f : Fmt.RIL, Computes (.divil f) (operandsRIL f (sext f.imm)) (fun free a b _ => divSigned free a b)) ∧
  (∀ f : Fmt.R3, Computes (.divu f) (operandsR3 f) (fun free a b _ => divUnsigned free a b)) ∧
  (∀ f : Fmt.RI, Computes (.divui f) (operandsRI f (zext f.imm)) (fun free a b _ => divUnsigned free a b)) ∧
  (∀ f : Fmt.R3, Computes (.divsu f) (operandsR3 f) (fun free a b _ => divSignedUnsigned free a b)) ∧
  (∀ f : Fmt.R3, Computes (.ptrdif f) (operandsR3 f) (fun _ a b c => pointerDifference a b c)) ∧
  (∀ f : Fmt.R3, Computes (.dif f) (operandsR3 f) (fun _ a b c => pointerDifference a b c)) ∧
  (∀ f : Fmt.R3, Computes (.abs f) (operandsR3 f) (fun _ a b c => pointerDifference a b c)) ∧
  (∀ f : Fmt.R3, Computes (.min f) (operandsR3 f) (fun _ a b c => min3 a b c)) ∧
  (∀ f : Fmt.R3, Computes (.max f) (operandsR3 f) (fun _ a b c => max3 a b c))) ∧
  ((∀ f : Fmt.R3, Computes (.cmp f) (operandsR3 f) (fun _ a b _ => compareSigned a b)) ∧
  (∀ f : Fmt.RI, Computes (.cmpi f) (operandsRI f (sext f.imm)) (fun _ a b _ => compareSigned a b)) ∧
  (∀ f : Fmt.RIL, Computes (.cmpil f) (operandsRIL f (sext f.imm)) (fun _ a b _ => compareSigned a b)) ∧
  (∀ f : Fmt.R3, Computes (.cmpu f) (operandsR3 f) (fun _ a b _ => compareUnsigned a b)) ∧
  (∀ f : Fmt.RI, Computes (.cmpui f) (operandsRI f (sext f.imm)) (fun _ a b _ => compareUnsigned a b)) ∧
  (∀ f : Fmt.R3, Computes (.seq f) (operandsR3 f) (fun _ a b _ => ofProp (a == b))) ∧
  (∀ f : Fmt.RI, Computes (.seqi f) (operandsRI f (sext f.imm)) (fun _ a b _ => ofProp (a == b))) ∧
  (∀ f : Fmt.RIL, Computes (.seqil f) (operandsRIL f (sext f.imm)) (fun _ a b _ => ofProp (a == b))) ∧
  (∀ f : Fmt.R3, Computes (.sne f) (operandsR3 f) (fun _ a b _ => ofProp (a != b))) ∧
  (∀ f : Fmt.RI, Computes (.snei f) (operandsRI f (sext f.imm)) (fun _ a b _ => ofProp (a != b))) ∧
  (∀ f : Fmt.RIL, Computes (.sneil f) (operandsRIL f (sext f.imm)) (fun _ a b _ => ofProp (a != b))) ∧
  (∀ f : Fmt.R3, Computes (.slt f) (operandsR3 f) (fun _ a b _ => ofProp (decide (a.toInt < b.toInt)))) ∧
  (∀ f : Fmt.RI, Computes (.slti f) (operandsRI f (sext f.imm)) (fun _ a b _ => ofProp (decide (a.toInt < b.toInt)))) ∧
  (∀ f : Fmt.RIL, Computes (.sltil f) (operandsRIL f (sext f.imm)) (fun _ a b _ => ofProp (decide (a.toInt < b.toInt)))) ∧
  (∀ f : Fmt.R3, Computes (.sltu f) (operandsR3 f) (fun _ a b _ => ofProp (decide (a.toNat < b.toNat)))) ∧
  (∀ f : Fmt.R3, Computes (.sge f) (operandsR3 f) (fun _ a b _ => ofProp (decide (a.toInt ≥ b.toInt)))) ∧
  (∀ f : Fmt.R3, Computes (.sgeu f) (operandsR3 f) (fun _ a b _ => ofProp (decide (a.toNat ≥ b.toNat)))) ∧
  (∀ f : Fmt.RI, Computes (.sgti f) (operandsRI f (sext f.imm)) (fun _ a b _ => ofProp (decide (a.toInt > b.toInt)))) ∧
  (∀ f : Fmt.RIL, Computes (.sgtil f) (operandsRIL f (sext f.imm)) (fun _ a b _ => ofProp (decide (a.toInt > b.toInt)))) ∧
  (∀ f : Fmt.RI, Computes (.sgtui f) (operandsRI f (zext f.imm)) (fun _ a b _ => ofProp (decide (a.toNat > b.toNat)))) ∧
  (∀ f : Fmt.RIL, Computes (.sgtuil f) (operandsRIL f (zext f.imm)) (fun _ a b _ => ofProp (decide (a.toNat > b.toNat)))) ∧
  (∀ f : Fmt.RI, Computes (.slei f) (operandsRI f (sext f.imm)) (fun _ a b _ => ofProp (decide (a.toInt ≤ b.toInt)))))) ∧
  (∀ (s : State) (t : BitVec 2) (r : RegNum) (x : Nat),
    (t = 0#2 → (opnd t r).scalar s = some (s.reg r) ∧ (opnd t r).element s x = s.reg r) ∧
    (t = 1#2 → (opnd t r).scalar s = none ∧ (opnd t r).element s x = s.vec r x) ∧
    (t = 2#2 → (opnd t r).scalar s = some (r.setWidth 64) ∧ (opnd t r).element s x = r.setWidth 64) ∧
    (t = 3#2 → (opnd t r).scalar s = some (r.setWidth 64 - 64) ∧ (opnd t r).element s x = r.setWidth 64 - 64) ∧
    (opndShort 0 r).scalar s = some (s.reg r) ∧ (opndShort 0 r).element s x = s.reg r ∧
    (opndShort 1 r).scalar s = none ∧ (opndShort 1 r).element s x = s.vec r x ∧
    (sourceReg 0 r).scalar s = some (s.reg r) ∧ (sourceReg 1 r).element s x = s.vec r x ∧
    ∀ w, (Src.imm w).scalar s = some w ∧ (Src.imm w).element s x = w) ∧
  ((∀ f : Fmt.R1, operandsR1 f = ⟨f.v, f.z, f.m, f.rt, sourceReg f.v f.ra, .imm 0, .imm 0⟩) ∧
    (∀ f : Fmt.R2, operandsR2 f = ⟨f.v, f.z, f.m, f.rt, sourceReg f.v f.ra, opndShort f.tb f.rb, .imm 0⟩) ∧
    (∀ f : Fmt.R3, operandsR3 f = ⟨f.v, f.z, f.m, f.rt, sourceReg f.v f.ra, opnd f.tb f.rb, opnd f.tc f.rc⟩) ∧
    (∀ f : Fmt.R3, operandsR3ScalarA f = ⟨f.v, f.z, f.m, f.rt, .gpr f.ra, opnd f.tb f.rb, opnd f.tc f.rc⟩) ∧
    (∀ f : Fmt.R3P, operandsR3P f = ⟨f.v, f.z, f.m, f.rt, sourceReg f.v f.ra, opnd f.tb f.rb, opnd f.tc f.rc⟩) ∧
    (∀ (f : Fmt.RI) (w : Word), operandsRI f w = ⟨f.v, 0, 0, f.rt, sourceReg f.v f.ra, .imm w, .imm 0⟩) ∧
    ∀ (f : Fmt.RIL) (w : Word), operandsRIL f w = ⟨f.v, f.z, f.m, f.rt, sourceReg f.v f.ra, .imm w, .imm 0⟩)

/-- The integer rules in terms of signed and unsigned numbers (40 R301, 40 R305, 40 R306, 40 R316, 40 R318, 40 R320, 40
R323, 40 R325, 40 R327, 40 R328, 40 R329, 40 R330). Truncation and signedness follow the spec's own decisions D40 to
D42. -/
def Obligations.IntegerRules : Prop :=
  ∀ free a b c : Word,
    (mulHigh a b).toInt = a.toInt * b.toInt / 2 ^ 64 ∧
    (mulFast a b).toNat = a.toNat % 2 ^ 24 * (b.toNat % 2 ^ 16) ∧
    (b ≠ 0 → ¬(a = 0x8000000000000000 ∧ b = -1) → (divSigned free a b).toInt = a.toInt.tdiv b.toInt) ∧
    divSigned free 0x8000000000000000 (-1) = 0x8000000000000000 ∧
    (b ≠ 0 → (divUnsigned free a b).toNat = a.toNat / b.toNat) ∧
    (b ≠ 0 → (divSignedUnsigned free a b).toInt = a.toInt.tdiv b.toNat) ∧
    (absWord a).toNat = a.toInt.natAbs ∧
    (pointerDifference a b c).toNat = (a - b).toInt.natAbs / 2 ^ (c.toNat % 16) ∧
    (min3 a b c).toInt = min (min a.toInt b.toInt) c.toInt ∧
    (max3 a b c).toInt = max (max a.toInt b.toInt) c.toInt ∧
    (compareSigned a b).toInt = (a.toInt - b.toInt).sign ∧
    (compareUnsigned a b).toInt = ((a.toNat : Int) - b.toNat).sign

/-- CHK and CHKI check bounds; CMOVNZ and its aliases select; VBITS2V spreads bits; CPUID reads its table (40 R335, 40
R336, 40 R337, 40 R338, 40 R339, 40 R340, 48 R880, 48 R884, 48 R890). The signed test is the spec's own decision
D42, CPUID's table D46 and log 37, the second VBITS2V D69; that the vector form starts at D_VSTEP and leaves it 0 is
48 R884, D67; the vector forms of CHKI and CPUID are log 49, that a vector CHK with z set is no well-formed one log
48. -/
def Obligations.ChecksAndSelects : Prop :=
  ((∀ f : Fmt.R3, Checks (.chk f) { operandsR3 f with rt := 0 } (boundsPass (f.rt.extractLsb' 0 3))) ∧
  (∀ f : Fmt.CHKI, Checks (.chki f)
    ⟨f.v, 0, 0, 0, sourceReg f.v f.ra, opnd f.tb f.rb, .imm (sext (f.immHi ++ f.immLo))⟩ (boundsPass f.cn)) ∧
  ∀ a b c : Word,
    boundsPass 0 a b c = (decide (a.toInt ≥ b.toInt) && decide (a.toInt < c.toInt)) ∧
    boundsPass 1 a b c = (decide (a.toInt ≥ b.toInt) && decide (a.toInt ≤ c.toInt)) ∧
    boundsPass 2 a b c = (decide (a.toInt > b.toInt) && decide (a.toInt < c.toInt)) ∧
    boundsPass 3 a b c = (decide (a.toInt > b.toInt) && decide (a.toInt ≤ c.toInt)) ∧
    boundsPass 4 a b c = !(decide (a.toInt ≥ b.toInt) && decide (a.toInt < c.toInt)) ∧
    boundsPass 5 a b c = !(decide (a.toInt ≥ b.toInt) && decide (a.toInt ≤ c.toInt)) ∧
    boundsPass 6 a b c = !(decide (a.toInt > b.toInt) && decide (a.toInt < c.toInt)) ∧
    boundsPass 7 a b c = !(decide (a.toInt > b.toInt) && decide (a.toInt ≤ c.toInt))) ∧
  ((∀ f : Fmt.R3, ComputesEach (.cmovnz f) (operandsR3ScalarA f)
    (fun x _ a b c => if (if f.v = 1#1 then a.getLsbD x else a != 0) then b else c)) ∧
  (∀ f : Fmt.R3, ComputesEach (.mkbool f) (operandsR3ScalarA f)
    (fun x _ a b c => if (if f.v = 1#1 then a.getLsbD x else a != 0) then b else c)) ∧
  (∀ f : Fmt.R3, ComputesEach (.not f) (operandsR3ScalarA f)
    (fun x _ a b c => if (if f.v = 1#1 then a.getLsbD x else a != 0) then b else c)) ∧
  (∀ f : Fmt.R3, ComputesEach (.vbits2vC f) (operandsR3ScalarA f)
    (fun x _ a b c => if (if f.v = 1#1 then a.getLsbD x else a != 0) then b else c)) ∧
  (∀ f : Fmt.R3, ComputesEach (.vbits2v f) ⟨f.v, f.z, f.m, f.rt, .gpr f.ra, .imm 0, .imm 0⟩
    (fun x _ a _ _ => if a.getLsbD x then 1 else 0)) ∧
  (∀ f : Fmt.RI, ComputesEach (.cpuid f) (operandsRI f 0)
    (fun _ s a _ _ => if a = 0 then s.config.hartid else (s.config.cpuidInfo[a.toNat]?).getD 0)))

/-- Logic, shifts, counts, reversals, matrices, byte maps, carry-less products and searches compute their rule (41 R400
to R411, 41 R412 to R417, 41 R420 to R427, 41 R430 to R432, 41 R435 to R438, 41 R440 to R446, 48 R880, 48 R884).
Shift amounts and pair shifts are the spec's own decision D47, MORT, MXORT and BMAP D49; that the vector form starts
at D_VSTEP and leaves it 0 is 48 R884, D67; an immediate as B of SLLP, SRLP, CLMUL and CLMULH is log 53, a nonzero
Func7 of BMAP log 52; that WYDENDXI and UTF21NDXI ignore the immediate bits above 15 and above 20 is log 54; that ROL
and ROR with v = 1 are the SLLP and SRLP of their words is log 55. -/
def Obligations.LogicAndBitOperations : Prop :=
  ((∀ f : Fmt.R2, Computes (.andS f) (operandsR2 f) (fun _ a b _ => a &&& b)) ∧
  (∀ f : Fmt.R3, Computes (.and f) (operandsR3 f) (fun _ a b c => a &&& b &&& c)) ∧
  (∀ f : Fmt.R3, Computes (.andc f) (operandsR3 f) (fun _ a b c => a &&& ~~~b &&& c)) ∧
  (∀ f : Fmt.R2, Computes (.orS f) (operandsR2 f) (fun _ a b _ => a ||| b)) ∧
  (∀ f : Fmt.R3, Computes (.or f) (operandsR3 f) (fun _ a b c => a ||| b ||| c)) ∧
  (∀ f : Fmt.R3, Computes (.orc f) (operandsR3 f) (fun _ a b c => a ||| ~~~b ||| c)) ∧
  (∀ f : Fmt.R2, Computes (.eorS f) (operandsR2 f) (fun _ a b _ => a ^^^ b)) ∧
  (∀ f : Fmt.R3, Computes (.eor f) (operandsR3 f) (fun _ a b c => a ^^^ b ^^^ c)) ∧
  (∀ f : Fmt.R3, Computes (.enor f) (operandsR3 f) (fun _ a b c => ~~~(a ^^^ b ^^^ c))) ∧
  (∀ f : Fmt.R3, Computes (.nand f) (operandsR3 f) (fun _ a b c => ~~~(a &&& b &&& c))) ∧
  (∀ f : Fmt.R3, Computes (.nor f) (operandsR3 f) (fun _ a b c => ~~~(a ||| b ||| c))) ∧
  (∀ f : Fmt.R3, Computes (.mux f) (operandsR3 f) (fun _ a b c => (a &&& b) ||| (~~~a &&& c))) ∧
  (∀ f : Fmt.RI, Computes (.andi f) (operandsRI f (oext f.imm)) (fun _ a b _ => a &&& b)) ∧
  (∀ f : Fmt.RIL, Computes (.andil f) (operandsRIL f (oext f.imm)) (fun _ a b _ => a &&& b)) ∧
  (∀ f : Fmt.RI, Computes (.ori f) (operandsRI f (zext f.imm)) (fun _ a b _ => a ||| b)) ∧
  (∀ f : Fmt.RIL, Computes (.oril f) (operandsRIL f (zext f.imm)) (fun _ a b _ => a ||| b)) ∧
  (∀ f : Fmt.RI, Computes (.eori f) (operandsRI f (zext f.imm)) (fun _ a b _ => a ^^^ b)) ∧
  (∀ f : Fmt.RIL, Computes (.eoril f) (operandsRIL f (zext f.imm)) (fun _ a b _ => a ^^^ b)) ∧
  (∀ f : Fmt.R2, Computes (.sllS f) (operandsR2 f) (fun _ a b _ => a <<< shiftAmount b)) ∧
  (∀ f : Fmt.R3, Computes (.sllp f) (operandsR3 f) (fun _ a b c => shiftLeftPair a b c)) ∧
  (∀ f : Fmt.R3, Computes (.srlp f) (operandsR3 f) (fun _ a b c => shiftRightPair a b c)) ∧
  (∀ f : Fmt.R3, Computes (.srl f) (operandsR3 f) (fun _ a b c => shiftRightPair a b c)) ∧
  (∀ f : Fmt.R3, Computes (.sra f) (operandsR3 f) (fun _ a b _ => a.sshiftRight (shiftAmount b))) ∧
  (∀ f : Fmt.R3, Computes (.rol f) (operandsR3 f) (fun _ a b c => shiftLeftPair a b c)) ∧
  (∀ f : Fmt.R3, Computes (.ror f) (operandsR3 f) (fun _ a b c => shiftRightPair a b c))) ∧
  ((∀ f : Fmt.R1, Computes (.cntlz f) (operandsR1 f) (fun _ a _ _ => a.clz)) ∧
  (∀ f : Fmt.R1, Computes (.cntpop f) (operandsR1 f) (fun _ a _ _ => a.cpop)) ∧
  (∀ (sz : BitVec 2) (f : Fmt.R1), Computes (.revbit sz f) (operandsR1 f) (fun _ a _ _ => reverseBits sz a)) ∧
  (∀ f : Fmt.R3, Computes (.mor f) (operandsR3 f) (fun _ a b _ => ofMatrix (matrixOr a b))) ∧
  (∀ f : Fmt.R3, Computes (.mxor f) (operandsR3 f) (fun _ a b _ => ofMatrix (matrixXor a b))) ∧
  (∀ f : Fmt.R3, Computes (.mort f) (operandsR3 f) (fun _ a b _ => ofMatrix fun i j => matrixOr a b j i)) ∧
  (∀ f : Fmt.R3, Computes (.mxort f) (operandsR3 f) (fun _ a b _ => ofMatrix fun i j => matrixXor a b j i)) ∧
  (∀ f : Fmt.R3P, Computes (.bmap f) (operandsR3P f) (fun _ a b c => byteMap a b c)) ∧
  (∀ f : Fmt.R3, Computes (.clmul f) (operandsR3 f) (fun _ a b _ => (carrylessProduct a b).extractLsb' 0 64)) ∧
  (∀ f : Fmt.R3, Computes (.clmulh f) (operandsR3 f) (fun _ a b _ => (carrylessProduct a b).extractLsb' 64 64)) ∧
  (∀ f : Fmt.R3, Computes (.bytndx f) (operandsR3 f) (fun _ a b _ => searchIndex 8 8 a (b.extractLsb' 0 8))) ∧
  (∀ f : Fmt.RI, Computes (.bytndxi f) (operandsRI f (zext (f.imm.extractLsb' 0 8))) (fun _ a b _ => searchIndex 8 8 a (b.extractLsb' 0 8))) ∧
  (∀ f : Fmt.R3, Computes (.wydendx f) (operandsR3 f) (fun _ a b _ => searchIndex 16 4 a (b.extractLsb' 0 16))) ∧
  (∀ f : Fmt.RIL, Computes (.wydendxi f) (operandsRIL f (zext f.imm)) (fun _ a b _ => searchIndex 16 4 a (b.extractLsb' 0 16))) ∧
  (∀ f : Fmt.R3, Computes (.utf21ndx f) (operandsR3 f) (fun _ a b _ => searchIndex 21 3 a (b.extractLsb' 0 21))) ∧
  (∀ f : Fmt.RIL, Computes (.utf21ndxi f) (operandsRIL f (zext f.imm)) (fun _ a b _ => searchIndex 21 3 a (b.extractLsb' 0 21))))

/-- The shift, count, matrix, product, search, bit-field, BCD and blending rules, bit by bit (41 R420 to R423, 41 R430
to R432, 41 R435, 41 R436, 41 R437, 41 R440, 42 R480 to R481, 42 R495, 49 R975, 42 R484 to R486, 00 R9). SLLP and
the shift amounts are the spec's own decision D47, BMAP D49, BFFFO's index D50, the BCD digits D51, BLEND's
arithmetic D75. -/
def Obligations.BitRules : Prop :=
  (∀ a b c : Word,
    (∀ i < 64, (shiftLeftPair a b c).getLsbD i =
      if i < c.toNat % 64 then a.getLsbD (64 + i - c.toNat % 64) else b.getLsbD (i - c.toNat % 64)) ∧
    (∀ i < 64, (shiftRightPair a b c).getLsbD i =
      if i + c.toNat % 64 < 64 then a.getLsbD (i + c.toNat % 64) else b.getLsbD (i + c.toNat % 64 - 64)) ∧
    (∀ i < a.clz.toNat, a.getLsbD (63 - i) = false) ∧ (a.clz.toNat < 64 → a.getLsbD (63 - a.clz.toNat) = true) ∧
    a.clz.toNat ≤ 64 ∧
    a.cpop.toNat = ((List.range 64).filter fun i => a.getLsbD i).length ∧
    (∀ (sz : BitVec 2), ∀ i < 64, (reverseBits sz a).getLsbD i =
      a.getLsbD (i / (8 <<< sz.toNat) * (8 <<< sz.toNat) + ((8 <<< sz.toNat) - 1 - i % (8 <<< sz.toNat)))) ∧
    (∀ k < 128, (carrylessProduct a b).getLsbD k =
      ((List.range (k + 1)).map fun i => b.getLsbD i && a.getLsbD (k - i)).foldl xor false) ∧
    (∀ (w n : Nat) (x : BitVec w), n < 64 →
      (∀ i < n, (∀ j < i, a.extractLsb' (w * j) w ≠ x) → a.extractLsb' (w * i) w = x →
        searchIndex w n a x = BitVec.ofNat 64 i) ∧
      ((∀ i < n, a.extractLsb' (w * i) w ≠ x) → searchIndex w n a x = BitVec.allOnes 64)) ∧
    (∀ mb me i, i < 64 → me < 64 → (fieldMask mb me).getLsbD i = (decide (mb ≤ i) && decide (i ≤ me))) ∧
    (∀ mb me i, mb ≤ me → me < 64 → i < 64 →
      (fieldUnsigned a mb me).getLsbD i = (decide (i ≤ me - mb) && a.getLsbD (i + mb)) ∧
      (fieldSigned a mb me).getLsbD i = a.getLsbD (if i ≤ me - mb then i + mb else me)) ∧
    (let bit := fun (x : Word) (i j : Nat) => x.getLsbD (63 - (8 * i + j))
     ∀ i < 8, ∀ j < 8,
      (matrixOr a b i j = true ↔ ∃ k < 8, bit a i k = true ∧ bit b k j = true) ∧
      matrixXor a b i j = ((List.range 8).filter fun k => bit a i k && bit b k j).length.testBit 0 ∧
      ∀ p : Nat → Nat → Bool, bit (ofMatrix p) i j = p i j) ∧
    (∀ n < 8, (byteMap a b c).extractLsb' (8 * n) 8 =
      let k := (c.toNat / 16 ^ n) % 16
      if k < 8 then a.extractLsb' (8 * k) 8 else b.extractLsb' (8 * (k - 8)) 8) ∧
    (∀ mb me, mb ≤ me → me < 64 →
      ((∀ i, mb ≤ i → i ≤ me → a.getLsbD i = false) → fieldFirstOne a mb me = BitVec.allOnes 64) ∧
      ∀ i, mb ≤ i → i ≤ me → a.getLsbD i = true → (∀ j, i < j → j ≤ me → a.getLsbD j = false) →
        fieldFirstOne a mb me = BitVec.ofNat 64 (i - mb)) ∧
    (∀ (g : Word → Nat → Nat → Word) (free : Word),
      (b.toNat % 64 ≤ c.toNat % 64 → onField g free a b c = g a (b.toNat % 64) (c.toNat % 64)) ∧
      (c.toNat % 64 < b.toNat % 64 → onField g free a b c = free)) ∧
    (∀ (g : Nat → Nat → Nat) (free : Word) (h l h' l' : Nat), h < 16 → l < 16 → h' < 16 → l' < 16 →
      a.toNat % 256 = 16 * h + l → b.toNat % 256 = 16 * h' + l' →
      (h ≤ 9 → l ≤ 9 → h' ≤ 9 → l' ≤ 9 →
        onBcd g free a b = BitVec.ofNat 64 (g (10 * h + l) (10 * h' + l'))) ∧
      (9 < h ∨ 9 < l ∨ 9 < h' ∨ 9 < l' → onBcd g free a b = free)) ∧
    (∀ n k i, i < n → bcdDigits n k / 16 ^ i % 16 = k / 10 ^ i % 10) ∧
    ((blendColors a b c).extractLsb' 24 40 = (a.extractLsb' 24 8).setWidth 40 ∧ ∀ p < 3,
      ((blendColors a b c).extractLsb' (8 * p) 8).toNat =
        ((a.extractLsb' (8 * p) 8).toNat * (c.toNat % 256) +
          (b.extractLsb' (8 * p) 8).toNat * (255 - c.toNat % 256)) / 256)) ∧
  (∀ b : Word, shiftAmount b = b.toNat % 64) ∧
  (∀ (n : Nat) (v : BitVec n) (i : Nat), n ≤ 64 → i < 64 → (oext v).getLsbD i = if i < n then v.getLsbD i else true) ∧
  (∀ p : Bool, ofProp p = if p = true then 1 else 0)

/-- Bit-field instructions, register moves and BCD arithmetic compute their rule (42 R480, 42 R481, 42 R483 to R490, 42
R491 to R494, 42 R495 to R498, 48 R880). BFFFO's index and the upper bits of a BCD result are the spec's own
decisions D50 and D51; that the vector form starts at D_VSTEP and leaves it 0 is 48 R884, the spec's own decision
D67. -/
def Obligations.BitFieldsAndBcd : Prop :=
  (∀ f : Fmt.R3, Computes (.bfalign f) (operandsR3 f) (onField (fun a mb me => (a <<< mb) &&& fieldMask mb me))) ∧
  (∀ f : Fmt.R3, Computes (.bfffo f) (operandsR3 f) (onField fieldFirstOne)) ∧
  (∀ f : Fmt.R3, Computes (.bfextu f) (operandsR3 f) (onField fieldUnsigned)) ∧
  (∀ f : Fmt.R3, Computes (.bfext f) (operandsR3 f) (onField fieldSigned)) ∧
  (∀ f : Fmt.R3, Computes (.andm f) (operandsR3 f) (onField (fun a mb me => a &&& fieldMask mb me))) ∧
  (∀ f : Fmt.R3, Computes (.bfset f) (operandsR3 f) (onField (fun a mb me => a ||| fieldMask mb me))) ∧
  (∀ f : Fmt.R3, Computes (.bfchg f) (operandsR3 f) (onField (fun a mb me => a ^^^ fieldMask mb me))) ∧
  (∀ f : Fmt.R3, Computes (.bfclr f) (operandsR3 f) (onField (fun a mb me => a &&& ~~~fieldMask mb me))) ∧
  (∀ f : Fmt.R3, Computes (.com f) (operandsR3 f) (onField (fun a mb me => a ^^^ fieldMask mb me))) ∧
  (∀ f : Fmt.R3, Computes (.mov f) (operandsR3 f) (onField fieldUnsigned)) ∧
  (∀ f : Fmt.R3, Computes (.movsxb f) (operandsR3 f) (onField fieldSigned)) ∧
  (∀ f : Fmt.R3, Computes (.movsxw f) (operandsR3 f) (onField fieldSigned)) ∧
  (∀ f : Fmt.R3, Computes (.movsxt f) (operandsR3 f) (onField fieldSigned)) ∧
  (∀ f : Fmt.R3, Computes (.movzxb f) (operandsR3 f) (onField fieldUnsigned)) ∧
  (∀ f : Fmt.R3, Computes (.movzxw f) (operandsR3 f) (onField fieldUnsigned)) ∧
  (∀ f : Fmt.R3, Computes (.movzxt f) (operandsR3 f) (onField fieldUnsigned)) ∧
  (∀ f : Fmt.R3, Computes (.bcdadd f) (operandsR3 f) (fun free a b _ => onBcd (fun x y => bcdDigits 2 ((x + y) % 100)) free a b)) ∧
  (∀ f : Fmt.R3, Computes (.bcdsub f) (operandsR3 f) (fun free a b _ => onBcd (fun x y => bcdDigits 2 ((x + 100 - y) % 100)) free a b)) ∧
  (∀ f : Fmt.R3, Computes (.bcdmul f) (operandsR3 f) (fun free a b _ => onBcd (fun x y => bcdDigits 4 (x * y)) free a b))

/-- The aliases mean what their names say under their fixed fields (40 R306, 40 R311, 40 R314, 40 R326, 40 R339, 40
R340, 41 R420, 41 R424, 41 R426 to R427, 42 R491, 42 R492, 42 R493 to R494). Truncation at each step follows the
spec's own decision D40, the low six bits of a shift amount D47. -/
def Obligations.AliasMeanings : Prop :=
  (∀ (f : Fmt.RI) (s : State), f.v = 0 → f.ra = 0 →
    exec (.ldi f) s = .next (s.result 4 f.rt (sext f.imm))) ∧
  (∀ (f : Fmt.R3) (s : State) (b : Word), f.v = 0 → f.ra = 0 → f.tc = 0 → f.rc = 0 → (opnd f.tb f.rb).scalar s = some b →
    exec (.neg f) s = .next (s.result 6 f.rt (-b))) ∧
  (∀ (f : Fmt.R3) (s : State) (b : Word), f.v = 0 → f.tc = 0 → f.rc = 0 → (opnd f.tb f.rb).scalar s = some b →
    exec (.dif f) s = .next (s.result 6 f.rt (absWord (s.reg f.ra - b)))) ∧
  (∀ (f : Fmt.R3) (s : State) (b : Word), f.v = 0 → f.ra = 0 → f.tc = 0 → f.rc = 0 → (opnd f.tb f.rb).scalar s = some b →
    exec (.abs f) s = .next (s.result 6 f.rt (absWord b))) ∧
  (∀ (f : Fmt.R3) (s : State), f.v = 0 → f.tb = 2 → f.rb = 1 → f.tc = 2 → f.rc = 0 →
    exec (.mkbool f) s = .next (s.result 6 f.rt (if s.reg f.ra = 0 then 0 else 1))) ∧
  (∀ (f : Fmt.R3) (s : State), f.v = 0 → f.tb = 2 → f.rb = 0 → f.tc = 2 → f.rc = 1 →
    exec (.not f) s = .next (s.result 6 f.rt (if s.reg f.ra = 0 then 1 else 0))) ∧
  (∀ (f : Fmt.R3) (s : State) (b : Word), f.v = 0 → f.tb = 0 → f.rb = 0 → (opnd f.tc f.rc).scalar s = some b →
    exec (.srl f) s = .next (s.result 6 f.rt (s.reg f.ra >>> (b.toNat % 64)))) ∧
  (∀ (f : Fmt.R3) (s : State) (b : Word), f.v = 0 → f.tb = 0 → f.rb = f.ra → (opnd f.tc f.rc).scalar s = some b →
    exec (.rol f) s = .next (s.result 6 f.rt ((s.reg f.ra).rotateLeft (b.toNat % 64)))) ∧
  (∀ (f : Fmt.R3) (s : State) (b : Word), f.v = 0 → f.tb = 0 → f.rb = f.ra → (opnd f.tc f.rc).scalar s = some b →
    exec (.ror f) s = .next (s.result 6 f.rt ((s.reg f.ra).rotateRight (b.toNat % 64)))) ∧
  (∀ (f : Fmt.R3) (s : State), f.v = 0 → f.tb = 2 → f.rb = 0 → f.tc = 2 → f.rc = 63 →
    exec (.com f) s = .next (s.result 6 f.rt (~~~s.reg f.ra))) ∧
  (∀ (f : Fmt.R3) (s : State), f.v = 0 → f.tb = 2 → f.rb = 0 → f.tc = 2 → f.rc = 63 →
    exec (.mov f) s = .next (s.result 6 f.rt (s.reg f.ra))) ∧
  (∀ (f : Fmt.R3) (s : State), f.v = 0 → f.tb = 2 → f.rb = 0 → f.tc = 2 → f.rc = 7 →
    exec (.movzxb f) s = .next (s.result 6 f.rt (((s.reg f.ra).extractLsb' 0 8).setWidth 64))) ∧
  (∀ (f : Fmt.R3) (s : State), f.v = 0 → f.tb = 2 → f.rb = 0 → f.tc = 2 → f.rc = 7 →
    exec (.movsxb f) s = .next (s.result 6 f.rt (((s.reg f.ra).extractLsb' 0 8).signExtend 64))) ∧
  (∀ (f : Fmt.R3) (s : State), f.v = 0 → f.tb = 2 → f.rb = 0 → f.tc = 2 → f.rc = 15 →
    exec (.movzxw f) s = .next (s.result 6 f.rt (((s.reg f.ra).extractLsb' 0 16).setWidth 64))) ∧
  (∀ (f : Fmt.R3) (s : State), f.v = 0 → f.tb = 2 → f.rb = 0 → f.tc = 2 → f.rc = 15 →
    exec (.movsxw f) s = .next (s.result 6 f.rt (((s.reg f.ra).extractLsb' 0 16).signExtend 64))) ∧
  (∀ (f : Fmt.R3) (s : State), f.v = 0 → f.tb = 2 → f.rb = 0 → f.tc = 2 → f.rc = 31 →
    exec (.movzxt f) s = .next (s.result 6 f.rt (((s.reg f.ra).extractLsb' 0 32).setWidth 64))) ∧
  (∀ (f : Fmt.R3) (s : State), f.v = 0 → f.tb = 2 → f.rb = 0 → f.tc = 2 → f.rc = 31 →
    exec (.movsxt f) s = .next (s.result 6 f.rt (((s.reg f.ra).extractLsb' 0 32).signExtend 64)))

/-- Binary floating-point instructions compute, update the status and commit or take FLT (43 R522 to R524, 43 R530 to
R535, 43 R540 to R547, 43 R550 to R552, 43 R555 to R560, 44 R605 to R608, 48 R880, 48 R883, 48 R884). The arithmetic
is the spec's own decision D52, the sign operations of the decimal family D54, with logs 29 and 30 for the two
estimates, underflow and one invalid case; the class of an integer result is log 31; that U_FSTAT keeps its update
when FLT is taken is log 21; that the vector form starts at D_VSTEP and leaves it 0 is 48 R884, D67. -/
def Obligations.FpInstructions : Prop :=
  (((∀ f : Fmt.FR2, ComputesFp (.fadd f) (operandsFR2 f) none (fun rm _ a b _ => fpAdd rm a b)) ∧
  (∀ f : Fmt.FR2L, ComputesFp (.faddL f) (operandsFR2L f) (some f.rm) (fun rm _ a b _ => fpAdd rm a b)) ∧
  (∀ f : Fmt.FR2, ComputesFp (.fsub f) (operandsFR2 f) none (fun rm _ a b _ => fpSub rm a b)) ∧
  (∀ f : Fmt.FR2L, ComputesFp (.fsubL f) (operandsFR2L f) (some f.rm) (fun rm _ a b _ => fpSub rm a b)) ∧
  (∀ f : Fmt.FR2, ComputesFp (.fmul f) (operandsFR2 f) none (fun rm _ a b _ => fpMul rm a b)) ∧
  (∀ f : Fmt.FR2L, ComputesFp (.fmulL f) (operandsFR2L f) (some f.rm) (fun rm _ a b _ => fpMul rm a b)) ∧
  (∀ f : Fmt.FR2, ComputesFp (.fdiv f) (operandsFR2 f) none (fun rm _ a b _ => fpDiv rm a b)) ∧
  (∀ f : Fmt.FR2L, ComputesFp (.fdivL f) (operandsFR2L f) (some f.rm) (fun rm _ a b _ => fpDiv rm a b)) ∧
  (∀ f : Fmt.FR3, ComputesFp (.fma f) (operandsFR3 f) (some f.rm) (fun rm _ a b c => fpMulAdd rm a b c)) ∧
  (∀ f : Fmt.FR3, ComputesFp (.fms f) (operandsFR3 f) (some f.rm) (fun rm _ a b c => fpMulAdd rm a b (fpNegate c))) ∧
  (∀ f : Fmt.FR3, ComputesFp (.fnma f) (operandsFR3 f) (some f.rm) (fun rm _ a b c => fpMulAdd rm (fpNegate a) b c)) ∧
  (∀ f : Fmt.FR3, ComputesFp (.fnms f) (operandsFR3 f) (some f.rm) (fun rm _ a b c => fpMulAdd rm (fpNegate a) b (fpNegate c))) ∧
  (∀ f : Fmt.R1, ComputesFp (.fsqrt f) (operandsR1 f) none (fun rm _ a _ _ => fpSqrt rm a)) ∧
  (∀ f : Fmt.R1, ComputesFp (.frsqrte f) (operandsR1 f) none (fun _ _ a _ _ => fpRsqrtEstimate a)) ∧
  (∀ f : Fmt.R1, ComputesFp (.fsigmoid f) (operandsR1 f) none (fun _ _ a _ _ => fpSigmoid a))) ∧
  ((∀ f : Fmt.R1, Computes (.fabs f) (operandsR1 f) (fun _ a _ _ => a &&& 0x7FFFFFFFFFFFFFFF)) ∧
  (∀ f : Fmt.R1, Computes (.fneg f) (operandsR1 f) (fun _ a _ _ => a ^^^ 0x8000000000000000)) ∧
  (∀ f : Fmt.R1, Computes (.fclass f) (operandsR1 f) (fun _ a _ _ => fpClassify a)) ∧
  (∀ f : Fmt.R1, Computes (.ffinite f) (operandsR1 f) (fun _ a _ _ => ofProp (fpExponent a != 0x7FF))) ∧
  (∀ f : Fmt.R1, Computes (.isnan f) (operandsR1 f) (fun _ a _ _ => ofProp (fpUnpack a).isNaN)) ∧
  (∀ f : Fmt.R1, Computes (.fman f) (operandsR1 f) (fun _ a _ _ => zext (fpFraction a))) ∧
  (∀ f : Fmt.R1, Computes (.fsign f) (operandsR1 f) (fun _ a _ _ => fpSign a)) ∧
  (∀ f : Fmt.R1, Computes (.dfabs f) (operandsR1 f) (fun _ a _ _ => a &&& 0x7FFFFFFFFFFFFFFF)) ∧
  (∀ f : Fmt.R1, Computes (.dfneg f) (operandsR1 f) (fun _ a _ _ => a ^^^ 0x8000000000000000)) ∧
  (∀ f : Fmt.R1, Computes (.dfman f) (operandsR1 f) (fun _ a _ _ => zext (a.extractLsb' 0 52))) ∧
  (∀ f : Fmt.R1, Computes (.dfsign f) (operandsR1 f) (fun _ a _ _ => dfpSign a)) ∧
  (∀ f : Fmt.R1, ComputesFp (.ftoi f) (operandsR1 f) none (fun rm free a _ _ => fpToInt rm free a)) ∧
  (∀ f : Fmt.R1, ComputesFp (.itof f) (operandsR1 f) none (fun rm _ a _ _ => fpOfInt rm a)) ∧
  (∀ f : Fmt.R1, ComputesFp (.ftrunc f) (operandsR1 f) none (fun _ _ a _ _ => fpTrunc a)) ∧
  (∀ f : Fmt.FR2, ComputesFp (.fcmp f) (operandsFR2 f) none (fun _ _ a b _ => fpCmp a b)) ∧
  (∀ f : Fmt.FR2, ComputesFp (.fcmpb f) (operandsFR2 f) none (fun _ _ a b _ => fpCmpBits a b)) ∧
  (∀ f : Fmt.FR2, ComputesFp (.fseq f) (operandsFR2 f) none (fun _ _ a b _ => fpTest (fun o => o == some .eq) a b)) ∧
  (∀ f : Fmt.FR2, ComputesFp (.fsne f) (operandsFR2 f) none (fun _ _ a b _ => fpTest (fun o => o != some .eq) a b)) ∧
  (∀ f : Fmt.FR2, ComputesFp (.fslt f) (operandsFR2 f) none (fun _ _ a b _ => fpTest (fun o => o == some .lt) a b)))) ∧
  ((∀ f : Fmt.FR2, operandsFR2 f = ⟨f.v, f.z, f.m, f.rt, sourceReg f.v f.ra, opnd f.tb f.rb, .imm 0⟩) ∧
    (∀ f : Fmt.FR2L, operandsFR2L f = ⟨f.v, f.z, f.m, f.rt, sourceReg f.v f.ra, opnd f.tb f.rb, .imm 0⟩) ∧
    ∀ f : Fmt.FR3, operandsFR3 f = ⟨f.v, f.z, f.m, f.rt, sourceReg f.v f.ra, opnd f.tb f.rb, opnd f.tc f.rc⟩)

/-- Binary arithmetic on NaN, infinity and zero: the value, the conditions and the sub-causes (43 R520, 43 R523, 43
R524, 43 R540 to R545). The arithmetic is the spec's own decision D52, but for one clause that is the model's
choice: FSQRT of a NaN keeps the NaN's sign bit (log 50, DEDUCED: 43 R545 says that the sign bit is set to zero). The
invalid flag of infinity times zero plus a quiet NaN is an open constant, whatever it is (log 30, PRESUMED). -/
def Obligations.FpSpecialValues : Prop :=
  (∀ w : Word, ((fpUnpack w).isNaN = true ↔ fpExponent w = 0x7FF ∧ fpFraction w ≠ 0) ∧
    ((fpUnpack w).isSignalling = true ↔ fpExponent w = 0x7FF ∧ fpFraction w ≠ 0 ∧ w.getLsbD 51 = false)) ∧
  (∀ w, fpExponent w = w.toNat / 2 ^ 52 % 2 ^ 11 ∧ (fpFraction w).toNat = w.toNat % 2 ^ 52) ∧
  (fpInf false = 0x7FF0000000000000 ∧ fpInf true = 0xFFF0000000000000 ∧ fpZero false = 0 ∧
    fpZero true = 0x8000000000000000) ∧
  (∀ w, fpExact w = ⟨w, ⟨false, false, false, false, false⟩, 0, fpClass false w⟩) ∧
  (∀ sub, fpInvalid sub =
    ⟨0x7FF8000000000000, ⟨true, false, false, false, false⟩, sub, fpClass false 0x7FF8000000000000⟩) ∧
  (∀ (away : Bool) (w : Word), (fpClass away w).rawayz = away ∧
    (∀ p, fpPlace w = some p → let k := fpClass away w
      (k.neg = true ↔ placeLess p (0, 0)) ∧ (k.pos = true ↔ placeLess (0, 0) p) ∧ (k.zero = true ↔ p = (0, 0)) ∧
      (k.inf = true ↔ p.1 ≠ 0) ∧
      (k.special = true ↔ p.1 = 0 ∧ (p.2 = 0 ∧ w.msb = true ∨ p.2 ≠ 0 ∧ fpExponent w = 0))) ∧
    (fpPlace w = none → let quiet := !(fpUnpack w).isSignalling
      fpClass away w = ⟨away, quiet, false, false, false, quiet⟩)) ∧
  ∀ (rm : BitVec 3) (a b c : Word),
    let nan := fun w => (fpUnpack w).isNaN
    let snan := fun w => (fpUnpack w).isSignalling
    let propagates := fun (r : FpResult) (w : Word) (s : Bool) =>
      r = ⟨w ||| 0x0008000000000000, ⟨s, false, false, false, false⟩, if s then 0x01 else 0,
        fpClass false (w ||| 0x0008000000000000)⟩
    let negate := fun w : Word => w ^^^ 0x8000000000000000
    (∀ op ∈ [fpAdd, fpSub, fpMul, fpDiv], (nan a = true → propagates (op rm a b) a (snan a || snan b)) ∧
      (nan a = false → nan b = true → propagates (op rm a b) b (snan b))) ∧
    (nan a = true → propagates (fpSqrt rm a) a (snan a)) ∧
    (nan a = true → (fpMulAdd rm a b c).value = a ||| 0x0008000000000000) ∧
    (nan a = false → nan b = true → (fpMulAdd rm a b c).value = b ||| 0x0008000000000000) ∧
    (nan a = false → nan b = false → nan c = true → (fpMulAdd rm a b c).value = c ||| 0x0008000000000000) ∧
    (snan a = true ∨ snan b = true ∨ snan c = true →
      (fpMulAdd rm a b c).conds.invalid = true ∧ (fpMulAdd rm a b c).sub.getLsbD 0 = true) ∧
    (nan a = true ∨ nan b = true ∨ nan c = true → let r := fpMulAdd rm a b c
      let s := snan a || snan b || snan c
      let infZero := (∃ n, a = fpInf n) ∧ fpNumber b = some 0 ∨ (∃ n, b = fpInf n) ∧ fpNumber a = some 0
      let open_ := Config.fmaInfZeroNaNInvalid
      r.cls = fpClass false r.value ∧
      (¬ infZero → r.conds = ⟨s, false, false, false, false⟩ ∧ r.sub = if s then 0x01 else 0) ∧
      (infZero → r.conds = ⟨s || open_, false, false, false, false⟩ ∧
        r.sub = (if s then 0x01 else 0) ||| (if open_ then 0x10 else 0))) ∧
    (∀ n k, (∀ z, fpNumber c = some z → fpMulAdd rm (fpInf n) (fpInf k) c = fpExact (fpInf (n != k))) ∧
      ∀ j, fpMulAdd rm (fpInf n) (fpInf k) (fpInf j) =
        if (n != k) = j then fpExact (fpInf j) else fpInvalid 0x02) ∧
    (nan b = false → fpSub rm a b = fpAdd rm a (negate b)) ∧
    fpNegate b = (if nan b then b else negate b) ∧
    (∀ n k, fpAdd rm (fpInf n) (fpInf k) = (if n = k then fpExact (fpInf n) else fpInvalid 0x02) ∧
      fpMul rm (fpInf n) (fpInf k) = fpExact (fpInf (n != k)) ∧ fpDiv rm (fpInf n) (fpInf k) = fpInvalid 0x04) ∧
    (fpSqrt rm (fpInf false) = fpExact (fpInf false) ∧ fpSqrt rm (fpInf true) = fpInvalid 0x40) ∧
    ∀ x, fpNumber a = some x →
      (x < 0 → fpSqrt rm a = fpInvalid 0x40) ∧ (x = 0 → fpSqrt rm a = fpExact 0) ∧
      (∀ n, fpAdd rm (fpInf n) a = fpExact (fpInf n) ∧ fpAdd rm a (fpInf n) = fpExact (fpInf n) ∧
        fpMul rm (fpInf n) a = (if x = 0 then fpInvalid 0x10 else fpExact (fpInf (n != a.msb))) ∧
        fpMul rm a (fpInf n) = (if x = 0 then fpInvalid 0x10 else fpExact (fpInf (a.msb != n))) ∧
        fpDiv rm (fpInf n) a = fpExact (fpInf (n != a.msb)) ∧ fpDiv rm a (fpInf n) = fpExact (fpZero (a.msb != n)) ∧
        (x = 0 → nan c = false →
          fpMulAdd rm (fpInf n) a c = fpInvalid 0x10 ∧ fpMulAdd rm a (fpInf n) c = fpInvalid 0x10) ∧
        (x ≠ 0 → ∀ z, fpNumber c = some z → fpMulAdd rm (fpInf n) a c = fpExact (fpInf (n != a.msb)) ∧
          fpMulAdd rm a (fpInf n) c = fpExact (fpInf (a.msb != n))) ∧
        (x ≠ 0 → ∀ k, let sum := if (n != a.msb) = k then fpExact (fpInf k) else fpInvalid 0x02
          fpMulAdd rm (fpInf n) a (fpInf k) = sum ∧ fpMulAdd rm a (fpInf n) (fpInf k) = sum)) ∧
      ∀ y, fpNumber b = some y →
        (x + y = 0 → fpAdd rm a b = fpExact (fpZero (if a.msb = b.msb then a.msb else rm == 3#3))) ∧
        (x * y = 0 → fpMul rm a b = fpExact (fpZero (a.msb != b.msb))) ∧
        (y = 0 → x = 0 → fpDiv rm a b = fpInvalid 0x08) ∧
        (y = 0 → x ≠ 0 → let q := fpInf (a.msb != b.msb)
          fpDiv rm a b = ⟨q, ⟨false, false, false, true, false⟩, 0, fpClass false q⟩) ∧
        (y ≠ 0 → x = 0 → fpDiv rm a b = fpExact (fpZero (a.msb != b.msb))) ∧
        (∀ n, fpMulAdd rm a b (fpInf n) = fpExact (fpInf n)) ∧
        ∀ z, fpNumber c = some z → x * y + z = 0 → fpMulAdd rm a b c =
          fpExact (fpZero (if (a.msb != b.msb) = c.msb then c.msb else rm == 3#3))

/-- Binary arithmetic on numbers is the exact result rounded once (43 R520, 43 R522, 43 R523, 43 R524, 43 R540 to R545,
43 R551). The arithmetic and the modes are the spec's own decision D52; that underflow is tininess with inexactness
is log 30. -/
def Obligations.FpRounding : Prop :=
  ∀ (rm : BitVec 3) (a b c : Word),
    (a ≠ 0 → RoundsTo rm a.toInt (fpOfInt rm a)) ∧ fpOfInt rm 0 = fpExact 0 ∧
    ∀ x, fpNumber a = some x →
      (0 < x → ∃ v, fpNumber (fpSqrt rm a).value = some v ∧ 0 < v ∧ (fpSqrt rm a).sub = 0 ∧
        (fpSqrt rm a).conds = ⟨false, false, false, false, decide (v * v ≠ x)⟩ ∧
        (rm = 1#3 ∨ rm = 3#3 → v * v ≤ x ∧ ∀ w u, fpNumber w = some u → u * u ≤ x → u ≤ v) ∧
        (rm = 2#3 → x ≤ v * v ∧ ∀ w u, fpNumber w = some u → 0 ≤ u → x ≤ u * u → v ≤ u) ∧
        (rm ≠ 1#3 → rm ≠ 2#3 → rm ≠ 3#3 → ∀ w u, fpNumber w = some u → 0 ≤ u →
          (u < v → ((u + v) / 2) * ((u + v) / 2) ≤ x) ∧ (v < u → x ≤ ((u + v) / 2) * ((u + v) / 2)))) ∧
      ∀ y, fpNumber b = some y →
        (x + y ≠ 0 → RoundsTo rm (x + y) (fpAdd rm a b)) ∧ (x - y ≠ 0 → RoundsTo rm (x - y) (fpSub rm a b)) ∧
        (x * y ≠ 0 → RoundsTo rm (x * y) (fpMul rm a b)) ∧ (x ≠ 0 → y ≠ 0 → RoundsTo rm (x / y) (fpDiv rm a b)) ∧
        ∀ z, fpNumber c = some z → x * y + z ≠ 0 → RoundsTo rm (x * y + z) (fpMulAdd rm a b c)

/-- FRSQRTE and FSIGMOID within the bounds the spec sets (43 R523, 43 R524, 43 R546, 43 R547, 93 U35). The two functions
and what they report are open (93 U35, log 29); the slack of 4% for about 3%, and the class, and the infinity or
zero of either sign, and that a negative operand outside the range gives a NaN too, rest on log 29. The NaN is that of
43 R520 where an invalid operation is reported; which one it is elsewhere is not stated, as the spec leaves it open
(log 29). -/
def Obligations.FpEstimates : Prop :=
  ∀ a : Word,
    let r := fpRsqrtEstimate a
    let g := fpSigmoid a
    let snan := (fpUnpack a).isSignalling
    ((fpUnpack a).isNaN = true → r.value = a ||| 0x0008000000000000 ∧ g.value = a ||| 0x0008000000000000) ∧
    g.conds.invalid = snan ∧ g.sub = (if snan then 0x01 else 0) ∧ (snan = true → r.conds.invalid = true ∧ r.sub = 0x01) ∧
    (∀ p, fpPlace a = some p →
      (¬ placeLess p (0, 0) → r.conds.invalid = false ∧ r.sub = 0) ∧
      (placeLess p (0, 0) → (fpUnpack r.value).isNaN = true ∧
        (r.conds.invalid = false ∨ r.value = 0x7FF8000000000000) ∧ r.sub = if r.conds.invalid then 0x40 else 0)) ∧
    (∀ x, fpNumber a = some x →
      (x = 0 ∨ 0 < x ∧ x < 2 ^ (-149 : Int) ∨ 2 ^ (128 : Int) - 2 ^ (104 : Int) < x →
        ∃ n, r.value = fpInf n ∨ r.value = fpZero n) ∧
      (2 ^ (-126 : Int) ≤ x → x ≤ 2 ^ (128 : Int) - 2 ^ (104 : Int) → ∃ v, fpNumber r.value = some v ∧ 0 < v ∧
        r.value.extractLsb' 0 29 = 0 ∧ 96 * 96 ≤ 10000 * (v * v * x) ∧ 10000 * (v * v * x) ≤ 104 * 104 ∧
        r.cls = fpClass (decide (1 < v * v * x)) r.value) ∧
      ∃ v, fpNumber g.value = some v ∧ 0 ≤ v ∧ v ≤ 1 ∧ (x < -8 → v = 0) ∧ (8 < x → v = 1) ∧
        (v = 0 → g.cls.rawayz = false) ∧ (v = 1 → g.cls.rawayz = true)) ∧
    fpSigmoid (fpInf true) = { fpSigmoid (fpInf true) with value := 0 } ∧
    fpSigmoid (fpInf false) = { fpSigmoid (fpInf false) with value := 0x3FF0000000000000 }

/-- Conversion to integer, truncation, comparison and classification of binary numbers (43 R522, 43 R523, 43 R532, 43
R550, 43 R552, 43 R555 to R560, 93 U34, 43 R535). The modes, the comparisons and the NaN rules are the spec's own
decision D52; the class of an integer result and of a free value is log 31. -/
def Obligations.FpConvertCompare : Prop :=
  (∀ (rm : BitVec 3) (a b free : Word),
    let nan := fun w => (fpUnpack w).isNaN
    let snan := fun w => (fpUnpack w).isSignalling
    let invalid := fun (sub : BitVec 8) => (⟨free, ⟨true, false, false, false, false⟩, sub, integerClass false free⟩ : FpResult)
    let inexact := fun (i : Bool) => (⟨false, false, false, false, i⟩ : Conds)
    (nan a = true → fpToInt rm free a = invalid (if snan a then 0x81 else 0x80)) ∧
    (∀ n, fpToInt rm free (fpInf n) = invalid 0x80 ∧ fpTrunc (fpInf n) = fpExact (fpInf n)) ∧
    (nan a = true → fpTrunc a = ⟨a ||| 0x0008000000000000, ⟨snan a, false, false, false, false⟩,
      if snan a then 0x01 else 0, fpClass false (a ||| 0x0008000000000000)⟩) ∧
    (∀ x, fpNumber a = some x → let k := roundInt rm x
      (-2 ^ 63 ≤ k → k < 2 ^ 63 → fpToInt rm free a = ⟨BitVec.ofInt 64 k, inexact (decide ((k : Rat) ≠ x)), 0,
        integerClass (decide (x.abs < (k : Rat).abs)) (BitVec.ofInt 64 k)⟩) ∧
      (k < -2 ^ 63 ∨ 2 ^ 63 ≤ k → fpToInt rm free a = invalid 0x80) ∧
      fpNumber (fpTrunc a).value = some (roundInt 1 x : Rat) ∧ (fpTrunc a).value.msb = a.msb ∧
      (fpTrunc a).conds = inexact (decide ((roundInt 1 x : Rat) ≠ x)) ∧ (fpTrunc a).sub = 0 ∧
      (fpTrunc a).cls = fpClass false (fpTrunc a).value) ∧
    (let s := snan a || snan b
     ∀ r ∈ [fpCmp a b, fpCmpBits a b], r.conds = ⟨s, false, false, false, false⟩ ∧ r.sub = if s then 0x01 else 0) ∧
    (nan a = true ∨ nan b = true → (fpCmp a b).value = 0x4000000000000000 ∧ (fpCmpBits a b).value = 0x110 ∧
      ∀ test, let r := fpTest test a b
        r.value = ofProp (test none) ∧ r.conds = ⟨true, false, false, false, false⟩ ∧
          r.sub = if snan a || snan b then 0x21 else 0x20) ∧
    (∀ p q, fpPlace a = some p → fpPlace b = some q →
      let is := fun (o : Ordering) (w : Word) => (fpCmp a b).value = w ∧
        ∀ test, (fpTest test a b).value = ofProp (test (some o)) ∧ (fpTest test a b).conds = inexact false ∧
          (fpTest test a b).sub = 0
      let magnitude := fun (p : Int × Rat) => ((p.1.natAbs : Int), p.2.abs)
      (placeLess p q → is .lt 0xBFF0000000000000) ∧ (p = q → is .eq 0) ∧ (placeLess q p → is .gt 0x3FF0000000000000) ∧
      ∀ i < 64, (fpCmpBits a b).value.getLsbD i = true ↔
        i = 0 ∧ p = q ∨ (i = 1 ∨ i = 63) ∧ placeLess p q ∨ i = 2 ∧ ¬ placeLess q p ∨
        i = 3 ∧ placeLess (magnitude p) (magnitude q) ∨ i = 8 ∧ p ≠ q ∨ i = 9 ∧ ¬ placeLess p q ∨ i = 10 ∧ placeLess q p ∨
        i = 11 ∧ ¬ placeLess (magnitude p) (magnitude q) ∨ i = 12) ∧
    (∀ i < 63, (fpClassify a).getLsbD i = true ↔
      (i = 8 ∧ snan a = true ∨ i = 9 ∧ nan a = true ∧ snan a = false ∨ ∃ p, fpPlace a = some p ∧
        (i = 0 ∧ p.1 = -1 ∨ i = 7 ∧ p.1 = 1 ∨ p.1 = 0 ∧
          (i = 1 ∧ p.2 < 0 ∧ fpExponent a ≠ 0 ∨ i = 2 ∧ p.2 < 0 ∧ fpExponent a = 0 ∨ i = 3 ∧ p.2 = 0 ∧ a.msb = true ∨
            i = 4 ∧ p.2 = 0 ∧ a.msb = false ∨ i = 5 ∧ 0 < p.2 ∧ fpExponent a = 0 ∨
            i = 6 ∧ 0 < p.2 ∧ fpExponent a ≠ 0)))) ∧
    (fpClassify a).msb = a.msb) ∧
  (∀ (away : Bool) (w : Word), integerClass away w =
    ⟨away, false, decide (w.toInt < 0), decide (0 < w.toInt), decide (w.toInt = 0), false⟩) ∧
  (∀ a : Word,
    (∀ x, fpNumber a = some x → (x = 0 → fpSign a = 0) ∧ (0 < x → fpSign a = 0x3FF0000000000000) ∧
      (x < 0 → fpSign a = 0xBFF0000000000000)) ∧
    (fpNumber a = none → fpSign a = if a.msb then 0xBFF0000000000000 else 0x3FF0000000000000))

/-- Decimal floating-point instructions compute, update the status and commit or take FLT (44 R600, 44 R601, 44 R602, 44
R610 to R614, 44 R620, 44 R621, 44 R625, 44 R626, 48 R883). The format and DFCMP's results are the spec's own
decision D54, rounding and status D52, the signs of zeros and infinities log 32, the update that stays log 21; that
the vector form starts at D_VSTEP and leaves it 0 is 48 R884, the spec's own decision D67. -/
def Obligations.DecimalFloat : Prop :=
  ((∀ f : Fmt.R1, ComputesFp (.dftoi f) (operandsR1 f) none (fun rm free a _ _ => dfpToInt rm free a)) ∧
  (∀ f : Fmt.R1, ComputesFp (.itodf f) (operandsR1 f) none (fun rm _ a _ _ => dfpOfInt rm a)) ∧
  (∀ f : Fmt.FR2, ComputesFp (.dfadd f) (operandsFR2 f) none (fun rm _ a b _ => dfpAdd rm a b)) ∧
  (∀ f : Fmt.FR2L, ComputesFp (.dfaddL f) (operandsFR2L f) (some f.rm) (fun rm _ a b _ => dfpAdd rm a b)) ∧
  (∀ f : Fmt.FR2, ComputesFp (.dfsub f) (operandsFR2 f) none (fun rm _ a b _ => dfpSub rm a b)) ∧
  (∀ f : Fmt.FR2L, ComputesFp (.dfsubL f) (operandsFR2L f) (some f.rm) (fun rm _ a b _ => dfpSub rm a b)) ∧
  (∀ f : Fmt.FR2, ComputesFp (.dfmul f) (operandsFR2 f) none (fun rm _ a b _ => dfpMul rm a b)) ∧
  (∀ f : Fmt.FR2L, ComputesFp (.dfmulL f) (operandsFR2L f) (some f.rm) (fun rm _ a b _ => dfpMul rm a b)) ∧
  (∀ f : Fmt.FR2, ComputesFp (.dfdiv f) (operandsFR2 f) none (fun rm _ a b _ => dfpDiv rm a b)) ∧
  (∀ f : Fmt.FR2L, ComputesFp (.dfdivL f) (operandsFR2L f) (some f.rm) (fun rm _ a b _ => dfpDiv rm a b)) ∧
  (∀ f : Fmt.FR2, ComputesFp (.dfcmp f) (operandsFR2 f) none (fun _ _ a b _ => dfpCmp a b)) ∧
  (∀ f : Fmt.FR2, ComputesFp (.dfcmpb f) (operandsFR2 f) none (fun _ _ a b _ => dfpCmpBits a b)) ∧
  (∀ f : Fmt.R3, ComputesFp (.dfma f) (operandsR3 f) none (fun rm _ a b c => dfpMulAdd false false rm a b c)) ∧
  (∀ f : Fmt.FR3L, ComputesFp (.dfmaL f) (operandsFR3L f) (some f.rm) (fun rm _ a b c => dfpMulAdd false false rm a b c)) ∧
  (∀ f : Fmt.R3, ComputesFp (.dfms f) (operandsR3 f) none (fun rm _ a b c => dfpMulAdd false true rm a b c)) ∧
  (∀ f : Fmt.FR3L, ComputesFp (.dfmsL f) (operandsFR3L f) (some f.rm) (fun rm _ a b c => dfpMulAdd false true rm a b c)) ∧
  (∀ f : Fmt.R3, ComputesFp (.dfnma f) (operandsR3 f) none (fun rm _ a b c => dfpMulAdd true false rm a b c)) ∧
  (∀ f : Fmt.FR3L, ComputesFp (.dfnmaL f) (operandsFR3L f) (some f.rm) (fun rm _ a b c => dfpMulAdd true false rm a b c)) ∧
  (∀ f : Fmt.R3, ComputesFp (.dfnms f) (operandsR3 f) none (fun rm _ a b c => dfpMulAdd true true rm a b c)) ∧
  (∀ f : Fmt.FR3L, ComputesFp (.dfnmsL f) (operandsFR3L f) (some f.rm) (fun rm _ a b c => dfpMulAdd true true rm a b c))) ∧
  (∀ f : Fmt.FR3L, operandsFR3L f = ⟨f.v, f.z, f.m, f.rt, sourceReg f.v f.ra, opnd f.tb f.rb, opnd f.tc f.rc⟩)

/-- Decimal values, rounding, special values and comparison, whatever the format (43 R522, 43 R523, 44 R600, 44 R602, 44
R610 to R614, 44 R620, 44 R621, 44 R625, 44 R626, 93 U34, 93 U36, 44 R608). The sign at bit 63 and DFCMP's results
are the spec's own decision D54, rounding and conditions D52, the signs of zeros and infinities and what the format
may be log 32, the open invalid flag of infinity times zero plus a quiet NaN log 30; the class of an integer result and of a free value is the model's choice, log 31. -/
def Obligations.DecimalRules : Prop :=
  (let dval := Config.dval
  (∀ w : Word, dval (w ^^^ 0x8000000000000000) = DecValue.negate (dval w) ∧
    (∀ n, dval w = .zero n ∨ dval w = .inf n → n = w.msb) ∧ (∀ q, dval w = .num q → q ≠ 0 ∧ w.msb = decide (q < 0)) ∧
    (dval w = .snan → dval (Config.dquiet w) = .qnan) ∧ (dval w = .qnan → Config.dquiet w = w)) ∧
  (dval Config.dfOne = .num 1 ∧ dval Config.dfMinusOne = .num (-1) ∧ dval Config.dfTwo = .num 2 ∧
    dval Config.dqnan = .qnan ∧ ∀ n, dval (Config.dzero n) = .zero n ∧ dval (Config.dinf n) = .inf n) ∧
  (∀ (rm : BitVec 3) (q : Rat), q ≠ 0 → DecRoundsTo rm q (Config.dround rm q) ∧
    (5#3 ≤ rm → Config.dround rm q = Config.dround 0 q)) ∧
  ∀ (rm : BitVec 3) (a b c free : Word),
    let number := fun w => decNumber (dval w)
    let nan := fun w => dval w = .qnan ∨ dval w = .snan
    let rounded := fun (r : FpResult) (zeroNeg : Bool) (q : Rat) =>
      (q = 0 → r = dfpExact (Config.dzero zeroNeg)) ∧
      (q ≠ 0 → let d := Config.dround rm q
        r.value = d.bits ∧ r.conds = ⟨false, d.ovf, d.under, false, d.inexact⟩ ∧ r.sub = 0)
    let inf := fun n => dfpExact (Config.dinf n)
    let place := fun w => match dval w with
      | .inf n => some ((if n then -1 else 1 : Int), (0 : Rat))
      | v => (decNumber v).map fun q => ((0 : Int), q)
    (∀ op ∈ [dfpAdd, dfpSub, dfpMul, dfpDiv], let r := op rm a b
      (nan a → r.value = Config.dquiet a) ∧ (¬ nan a → nan b → r.value = Config.dquiet b) ∧
      (nan a ∨ nan b → let s := decide (dval a = .snan ∨ dval b = .snan)
        r.conds = ⟨s, false, false, false, false⟩ ∧ r.sub = if s then 0x01 else 0)) ∧
    (∀ np na, let r := dfpMulAdd np na rm a b c
      (nan a → r.value = Config.dquiet a) ∧ (¬ nan a → nan b → r.value = Config.dquiet b) ∧
      (¬ nan a → ¬ nan b → nan c → r.value = Config.dquiet c) ∧
      (dval a = .snan ∨ dval b = .snan ∨ dval c = .snan → r.conds.invalid = true ∧ r.sub.getLsbD 0 = true) ∧
      let s := decide (dval a = .snan ∨ dval b = .snan ∨ dval c = .snan)
      let infZero := (∃ n, dval a = .inf n) ∧ number b = some 0 ∨ (∃ n, dval b = .inf n) ∧ number a = some 0
      let open_ := Config.fmaInfZeroNaNInvalid
      (nan a ∨ nan b ∨ nan c →
        (¬ infZero → r.conds = ⟨s, false, false, false, false⟩ ∧ r.sub = if s then 0x01 else 0) ∧
        (infZero → r.conds = ⟨s || open_, false, false, false, false⟩ ∧
          r.sub = (if s then 0x01 else 0) ||| (if open_ then 0x10 else 0)))) ∧
    (¬ nan b → dfpSub rm a b = dfpAdd rm a (b ^^^ 0x8000000000000000)) ∧
    rounded (dfpOfInt rm a) false a.toInt ∧
    (∀ n, dval a = .inf n →
      (∀ k, dval b = .inf k → dfpAdd rm a b = (if n = k then inf n else dfpInvalid 0x02) ∧
        dfpMul rm a b = inf (n != k) ∧ dfpDiv rm a b = dfpInvalid 0x04 ∧
        ∀ np na, let p := (n != k) != np
          (∀ z, number c = some z → dfpMulAdd np na rm a b c = inf p) ∧
          ∀ j, dval c = .inf j → dfpMulAdd np na rm a b c = if p = (j != na) then inf p else dfpInvalid 0x02) ∧
      ∀ y, number b = some y → dfpAdd rm a b = inf n ∧ dfpAdd rm b a = inf n ∧ dfpDiv rm a b = inf (n != b.msb) ∧
        dfpDiv rm b a = dfpExact (Config.dzero (b.msb != n)) ∧
        dfpMul rm a b = (if y = 0 then dfpInvalid 0x10 else inf (n != b.msb)) ∧
        dfpMul rm b a = (if y = 0 then dfpInvalid 0x10 else inf (b.msb != n)) ∧
        ∀ np na, let p := (n != b.msb) != np
          ∀ r ∈ [dfpMulAdd np na rm a b c, dfpMulAdd np na rm b a c],
            (y = 0 → ¬ nan c → r = dfpInvalid 0x10) ∧ (y ≠ 0 → ∀ z, number c = some z → r = inf p) ∧
            (y ≠ 0 → ∀ k, dval c = .inf k → r = if p = (k != na) then inf p else dfpInvalid 0x02)) ∧
    (∀ x y, number a = some x → number b = some y →
      rounded (dfpAdd rm a b) (if a.msb = b.msb then a.msb else rm == 3#3) (x + y) ∧
      rounded (dfpMul rm a b) (a.msb != b.msb) (x * y) ∧ (y ≠ 0 → rounded (dfpDiv rm a b) (a.msb != b.msb) (x / y)) ∧
      (y = 0 → x = 0 → dfpDiv rm a b = dfpInvalid 0x08) ∧
      (y = 0 → x ≠ 0 → (dfpDiv rm a b).value = Config.dinf (a.msb != b.msb) ∧
        (dfpDiv rm a b).conds = ⟨false, false, false, true, false⟩ ∧ (dfpDiv rm a b).sub = 0) ∧
      ∀ np na, (∀ k, dval c = .inf k → dfpMulAdd np na rm a b c = inf (k != na)) ∧
        ∀ z, number c = some z → let p := (a.msb != b.msb) != np
          rounded (dfpMulAdd np na rm a b c) (if p = (c.msb != na) then p else rm == 3#3)
            ((if np then -(x * y) else x * y) + if na then -z else z)) ∧
    (let invalid := fun (sub : BitVec 8) =>
       (⟨free, ⟨true, false, false, false, false⟩, sub, integerClass false free⟩ : FpResult)
     (dval a = .qnan ∨ (∃ n, dval a = .inf n) → dfpToInt rm free a = invalid 0x80) ∧
     (dval a = .snan → dfpToInt rm free a = invalid 0x81) ∧
     ∀ x, number a = some x → let k := roundInt rm x
      (-2 ^ 63 ≤ k → k < 2 ^ 63 → dfpToInt rm free a = ⟨BitVec.ofInt 64 k,
        ⟨false, false, false, false, decide ((k : Rat) ≠ x)⟩, 0,
        integerClass (decide (x.abs < (k : Rat).abs)) (BitVec.ofInt 64 k)⟩) ∧
      (k < -2 ^ 63 ∨ 2 ^ 63 ≤ k → dfpToInt rm free a = invalid 0x80)) ∧
    (let s := decide (dval a = .snan ∨ dval b = .snan)
     ∀ r ∈ [dfpCmp a b, dfpCmpBits a b], r.conds = ⟨s, false, false, false, false⟩ ∧ r.sub = if s then 0x01 else 0) ∧
    (nan a ∨ nan b → (dfpCmp a b).value = Config.dfTwo ∧ (dfpCmpBits a b).value = 0x110) ∧
    ∀ p q, place a = some p → place b = some q →
      let magnitude := fun (p : Int × Rat) => ((p.1.natAbs : Int), p.2.abs)
      (placeLess p q → (dfpCmp a b).value = Config.dfMinusOne) ∧ (p = q → (dfpCmp a b).value = Config.dzero false) ∧
      (placeLess q p → (dfpCmp a b).value = Config.dfOne) ∧
      ∀ i < 64, (dfpCmpBits a b).value.getLsbD i = true ↔
        i = 0 ∧ p = q ∨ (i = 1 ∨ i = 63) ∧ placeLess p q ∨ i = 2 ∧ ¬ placeLess q p ∨
        i = 3 ∧ placeLess (magnitude p) (magnitude q) ∨ i = 8 ∧ p ≠ q ∨ i = 9 ∧ ¬ placeLess p q ∨ i = 10 ∧ placeLess q p ∨
        i = 11 ∧ ¬ placeLess (magnitude p) (magnitude q) ∨ i = 12) ∧
  (∀ (away : Bool) (w : Word), integerClass away w =
    ⟨away, false, decide (w.toInt < 0), decide (0 < w.toInt), decide (w.toInt = 0), false⟩) ∧
  (∀ a : Word, let one := if a.msb then Config.dfMinusOne else Config.dfOne
    (∀ n, Config.dval a = .zero n → dfpSign a = Config.dzero false) ∧
    (∀ q, Config.dval a = .num q → dfpSign a = if 0 < q then Config.dfOne else Config.dfMinusOne) ∧
    (Config.dval a = .qnan ∨ Config.dval a = .snan ∨ (∃ n, Config.dval a = .inf n) → dfpSign a = one))

/-- FTX, FCX, FEX, FDX, FRM and FSTAT and their decimal twins act on U_FSTAT alone (43 R565 to R571, 44 R630). The
effect of FTX and FCX is the spec's own decision D52; that the update stays when FLT is taken is log 21. -/
def Obligations.StatusControl : Prop :=
  ∀ (f : Fmt.F1) (s : State),
    let m := (s.reg f.ra).extractLsb' 0 6 ||| f.u
    let m5 := m.extractLsb' 0 5
    let put := fun w => Host.Outcome.next ((s.setFstat w).advance 4)
    let old := s.csr.fstat
    (fpRaises old m5 = false → exec (.ftx f) s = put (fstatTrigger old m5) ∧ exec (.dftx f) s = put (fstatTrigger old m5)) ∧
    (fpRaises old m5 = true →
      exec (.ftx f) s = (s.setFstat (fstatTrigger old m5)).raise (Instr.ctx (.ftx f)) (.plain causeFLT) ∧
      exec (.dftx f) s = (s.setFstat (fstatTrigger old m5)).raise (Instr.ctx (.dftx f)) (.plain causeFLT)) ∧
    exec (.fcx f) s = put (fstatClear old m) ∧ exec (.dfcx f) s = put (fstatClear old m) ∧
    exec (.fex f) s = put (fstatEnable old m5) ∧ exec (.dfex f) s = put (fstatEnable old m5) ∧
    exec (.fdx f) s = put (fstatDisable old m5) ∧ exec (.dfdx f) s = put (fstatDisable old m5) ∧
    exec (.frm f) s = put (fstatSetRm old (m.extractLsb' 0 3)) ∧
    exec (.dfrm f) s = put (fstatSetRm old (m.extractLsb' 0 3)) ∧
    exec (.fstat f) s = .next (s.result 4 f.u (fstatRead old)) ∧
    exec (.dfstat f) s = .next (s.result 4 f.u (fstatRead old))

/-- The status update of an operation and of each control instruction, field by field and each condition and class bit by
bit; the enables and the dynamic rounding mode (10 R70, 43 R522, 43 R524, 43 R566, 43 R567, 43 R568, 43 R569, 43
R570). The update procedure, FTX, FCX and the modes are the spec's own decision D52; that bits 52:48 are rewritten is
D30; the reserved fields read zero are 63:53 and 37:33. -/
def Obligations.StatusUpdate : Prop :=
  ∀ (w : Word) (r : FpResult) (m5 : BitVec 5) (m : BitVec 6) (m3 : BitVec 3),
    let u := fstatAfter w r
    let c := r.conds.bits
    let t := fstatTrigger w m5
    let k := fstatClear w m
    (u.extractLsb' 48 5 = c ∧ u.getLsbD 32 = r.conds.inexact ∧ u.extractLsb' 26 6 = r.cls.bits ∧
      u.extractLsb' 15 5 = w.extractLsb' 15 5 ||| c ∧ u.getLsbD 14 = (w.getLsbD 14 || (c &&& w.extractLsb' 39 5) != 0#5) ∧
      u.getLsbD 13 = (w.getLsbD 13 || c != 0#5) ∧ u.extractLsb' 0 8 = w.extractLsb' 0 8 ||| r.sub ∧
      u.extractLsb' 53 11 = w.extractLsb' 53 11 ∧ u.extractLsb' 33 15 = w.extractLsb' 33 15 ∧
      u.extractLsb' 20 6 = w.extractLsb' 20 6 ∧ u.extractLsb' 8 5 = w.extractLsb' 8 5) ∧
    (t.extractLsb' 15 5 = w.extractLsb' 15 5 ||| m5 ∧
      t.getLsbD 14 = (w.getLsbD 14 || (m5 &&& w.extractLsb' 39 5) != 0#5) ∧
      t.getLsbD 13 = (w.getLsbD 13 || m5 != 0#5) ∧ t.extractLsb' 20 44 = w.extractLsb' 20 44 ∧
      t.extractLsb' 0 13 = w.extractLsb' 0 13) ∧
    (k.extractLsb' 48 5 = w.extractLsb' 48 5 &&& ~~~(m.extractLsb' 0 5) ∧
      k.extractLsb' 15 5 = w.extractLsb' 15 5 &&& ~~~(m.extractLsb' 0 5) ∧
      k.extractLsb' 13 2 = (if m.getLsbD 5 then 0#2 else w.extractLsb' 13 2) ∧
      k.extractLsb' 0 8 = (if m.getLsbD 0 then 0#8 else w.extractLsb' 0 8) ∧
      k.extractLsb' 53 11 = w.extractLsb' 53 11 ∧ k.extractLsb' 20 28 = w.extractLsb' 20 28 ∧
      k.extractLsb' 8 5 = w.extractLsb' 8 5) ∧
    fstatEnable w m5 = w ||| (m5.setWidth 64 <<< 39) ∧ fstatDisable w m5 = w &&& ~~~(m5.setWidth 64 <<< 39) ∧
    fstatSetRm w m3 = (w &&& ~~~(7#64 <<< 44)) ||| (m3.setWidth 64 <<< 44) ∧
    fstatRead w = w &&& 0x001FFFC1FFFFFFFF#64 ∧
    (c.getLsbD 4 = r.conds.inexact ∧ c.getLsbD 3 = r.conds.dbz ∧ c.getLsbD 2 = r.conds.under ∧
      c.getLsbD 1 = r.conds.ovf ∧ c.getLsbD 0 = r.conds.invalid) ∧
    (u.getLsbD 31 = r.cls.rawayz ∧ u.getLsbD 30 = r.cls.special ∧ u.getLsbD 29 = r.cls.neg ∧
      u.getLsbD 28 = r.cls.pos ∧ u.getLsbD 27 = r.cls.zero ∧ u.getLsbD 26 = r.cls.inf) ∧
    fpRm w = w.extractLsb' 44 3 ∧ fpRaises w m5 = ((m5 &&& w.extractLsb' 39 5) != 0#5)

/-- Loads complete with the extended bytes of memory in Rt and nothing else changed, in displacement and indexed form
(20 R141, 20 R143, 20 R190, 45 R661, 45 R662, 45 R663, 45 R665, 45 R667, 45 R670 to R677, 45 R680 to R686, 48 R880,
48 R884). That a misaligned access is made byte by byte and never faults for it is the spec's own decision D24 and
log 14; the order of the checks D28; the indexed address D55; that the vector form starts at D_VSTEP and leaves it 0
is 48 R884, D67; that the access that raises stops the vector form at its
element is 48 R884 too; that y of a form that starts above 0, a resumed one among them, counts from element 0 is log
36. -/
def Obligations.LoadInstructions : Prop :=
  (∀ (f : Fmt.LSX) (s : State) (mask : Word) (x : Nat),
    (f.tb = 1#2 → elementIndexValue f mask x s = s.vec f.rb x) ∧
    ∀ b, (opnd f.tb f.rb).scalar s = some b → elementIndexValue f mask x s =
      b * BitVec.ofNat 64 (if f.c = 1#1 then ((List.range x).filter fun k => mask.getLsbD k).length else x)) ∧
  (∀ (f : Fmt.LSX) (s : State) (x : Nat), s.elementAddress f x =
    s.reg f.ra + (elementIndexValue f (s.mask f.m) x s <<< f.sc.toNat) + sext f.disp) ∧
  (∀ (s : State) (m : BitVec 3) (x : Nat), x ∈ s.enabledList m ↔
    s.csr.vstep.toNat ≤ x ∧ x < s.vl.toNat ∧ (s.mask m).getLsbD x = true) ∧
  (∀ (f : Fmt.LSX) (s : State) (k x : Nat), (s.setVstep k).elementAddress f x = s.elementAddress f x) ∧
  ((∀ (f : Fmt.LSD) (s : State), LoadsAt (.ldb f) s f.sel f.rt (s.reg f.ra + sext f.disp) 1 fun w => sext (w.extractLsb' 0 8)) ∧
  (∀ (f : Fmt.LSD) (s : State), LoadsAt (.ldbu f) s f.sel f.rt (s.reg f.ra + sext f.disp) 1 fun w => zext (w.extractLsb' 0 8)) ∧
  (∀ (f : Fmt.LSD) (s : State), LoadsAt (.ldw f) s f.sel f.rt (s.reg f.ra + sext f.disp) 2 fun w => sext (w.extractLsb' 0 16)) ∧
  (∀ (f : Fmt.LSD) (s : State), LoadsAt (.ldwu f) s f.sel f.rt (s.reg f.ra + sext f.disp) 2 fun w => zext (w.extractLsb' 0 16)) ∧
  (∀ (f : Fmt.LSD) (s : State), LoadsAt (.ldt f) s f.sel f.rt (s.reg f.ra + sext f.disp) 4 fun w => sext (w.extractLsb' 0 32)) ∧
  (∀ (f : Fmt.LSD) (s : State), LoadsAt (.ldtu f) s f.sel f.rt (s.reg f.ra + sext f.disp) 4 fun w => zext (w.extractLsb' 0 32)) ∧
  (∀ (f : Fmt.LSD) (s : State), LoadsAt (.ldo f) s f.sel f.rt (s.reg f.ra + sext f.disp) 8 fun w => w) ∧
  (∀ (f : Fmt.LSDS) (s : State), LoadsAt (.ldos f) s f.sel f.rt (s.reg f.ra + sext f.disp) 8 fun w => w)) ∧
  ((∀ (f : Fmt.LSX) (s : State) (b : Word), addressLSX f s b = s.reg f.ra + (b <<< f.sc.toNat) + sext f.disp) ∧
  (∀ f : Fmt.LSX, LoadsIndexed (.ldbx f) f 1 fun w => sext (w.extractLsb' 0 8)) ∧
  (∀ f : Fmt.LSX, LoadsIndexed (.ldbux f) f 1 fun w => zext (w.extractLsb' 0 8)) ∧
  (∀ f : Fmt.LSX, LoadsIndexed (.ldwx f) f 2 fun w => sext (w.extractLsb' 0 16)) ∧
  (∀ f : Fmt.LSX, LoadsIndexed (.ldwux f) f 2 fun w => zext (w.extractLsb' 0 16)) ∧
  (∀ f : Fmt.LSX, LoadsIndexed (.ldtx f) f 4 fun w => sext (w.extractLsb' 0 32)) ∧
  (∀ f : Fmt.LSX, LoadsIndexed (.ldtux f) f 4 fun w => zext (w.extractLsb' 0 32)) ∧
  (∀ f : Fmt.LSX, LoadsIndexed (.ldox f) f 8 fun w => w))

/-- A displacement store writes the low bytes of its source at its address and nothing else (20 R141, 20 R143, 20 R190,
20 R216, 45 R661, 45 R662, 45 R664, 45 R665, 45 R705 to R709, 45 R714). That a misaligned access is made byte by byte
and never faults for it is the spec's own decision D24 and log 14; the order of the checks D28; the replaced bytes that
a fetch may still see are D32 and log 11, the replaced entries of the key table log 12. -/
def Obligations.Stores : Prop :=
  (∀ (f : Fmt.LSD) (s : State), StoresAt (.stb f) s f.sel (s.reg f.ra + sext f.disp) 1 (s.reg f.rt)) ∧
  (∀ (f : Fmt.LSD) (s : State), StoresAt (.stw f) s f.sel (s.reg f.ra + sext f.disp) 2 (s.reg f.rt)) ∧
  (∀ (f : Fmt.LSD) (s : State), StoresAt (.stt f) s f.sel (s.reg f.ra + sext f.disp) 4 (s.reg f.rt)) ∧
  (∀ (f : Fmt.LSD) (s : State), StoresAt (.sto f) s f.sel (s.reg f.ra + sext f.disp) 8 (s.reg f.rt)) ∧
  (∀ (f : Fmt.LSDS) (s : State), StoresAt (.stos f) s f.sel (s.reg f.ra + sext f.disp) 8 (s.reg f.rt)) ∧
  (∀ (f : Fmt.LSR) (s : State),
    (∀ b, (opnd f.tb f.rb).scalar s = some b →
      StoresAt (.stwl f) s f.sel (s.reg f.ra + sext (f.dispHi ++ f.dispLo)) 2 b) ∧
    ((opnd f.tb f.rb).scalar s = none → exec (.stwl f) s = .refused .vectorOperandInScalar)) ∧
  (∀ (f : Fmt.LSR) (s : State),
    (∀ b, (opnd f.tb f.rb).scalar s = some b →
      StoresAt (.sttl f) s f.sel (s.reg f.ra + sext (f.dispHi ++ f.dispLo)) 4 b) ∧
    ((opnd f.tb f.rb).scalar s = none → exec (.sttl f) s = .refused .vectorOperandInScalar)) ∧
  (∀ (f : Fmt.LSR) (s : State),
    (∀ b, (opnd f.tb f.rb).scalar s = some b →
      StoresAt (.stol f) s f.sel (s.reg f.ra + sext (f.dispHi ++ f.dispLo)) 8 b) ∧
    ((opnd f.tb f.rb).scalar s = none → exec (.stol f) s = .refused .vectorOperandInScalar))

/-- Scaled indexed stores in scalar and vector form (20 R216, 45 R663, 45 R667, 45 R710 to R713, 48 R880, 48 R884). The
address is the spec's own decision D55, misaligned accesses D24 and log 14; that the vector form starts at D_VSTEP and
leaves it 0, and that the access that raises stops it at its element, is 48 R884, the spec's own decision D67; that y of a
form that starts above 0, a resumed one among them, counts from element 0 is log 36; the replaced bytes and key table
entries that are kept are D32, log 11 and log 12. -/
def Obligations.IndexedStores : Prop :=
  (∀ (f : Fmt.LSX) (s : State) (mask : Word) (x : Nat),
    (f.tb = 1#2 → elementIndexValue f mask x s = s.vec f.rb x) ∧
    ∀ b, (opnd f.tb f.rb).scalar s = some b → elementIndexValue f mask x s =
      b * BitVec.ofNat 64 (if f.c = 1#1 then ((List.range x).filter fun k => mask.getLsbD k).length else x)) ∧
  (∀ (f : Fmt.LSX) (s : State) (x : Nat), s.elementAddress f x =
    s.reg f.ra + (elementIndexValue f (s.mask f.m) x s <<< f.sc.toNat) + sext f.disp) ∧
  (∀ (s : State) (m : BitVec 3) (x : Nat), x ∈ s.enabledList m ↔
    s.csr.vstep.toNat ≤ x ∧ x < s.vl.toNat ∧ (s.mask m).getLsbD x = true) ∧
  (∀ (f : Fmt.LSX) (s : State) (k x : Nat), (s.setVstep k).elementAddress f x = s.elementAddress f x) ∧
  (∀ f : Fmt.LSX, StoresIndexed (.stbx f) f 1) ∧
  (∀ f : Fmt.LSX, StoresIndexed (.stwx f) f 2) ∧
  (∀ f : Fmt.LSX, StoresIndexed (.sttx f) f 4) ∧
  (∀ f : Fmt.LSX, StoresIndexed (.stox f) f 8)

/-- A conditional store stores only where a reservation exists and always clears it (10 R122, 20 R216, 45 R662, 45 R716,
45 R717, 45 R718). That no reservation ever exists is the spec's own decision D22, the indexed address D55; that the vector
form leaves D_VSTEP 0 is 48 R884, D67; the vector form is log 42; the replaced bytes and key table entries that are kept
are D32, log 11 and log 12. -/
def Obligations.ConditionalStores : Prop :=
  (∀ (f : Fmt.LSD) (s : State), StoresConditionally (.stoc f) s f.sel (s.reg f.ra + sext f.disp) (s.reg f.rt)) ∧
  (∀ (f : Fmt.LSR) (s : State),
    (∀ b, (opnd f.tb f.rb).scalar s = some b →
      StoresConditionally (.stocl f) s f.sel (s.reg f.ra + sext (f.dispHi ++ f.dispLo)) b) ∧
    ((opnd f.tb f.rb).scalar s = none → exec (.stocl f) s = .refused .vectorOperandInScalar)) ∧
  ∀ (f : Fmt.LSX) (s : State),
    (f.v = 0#1 → ∀ b, (opnd f.tb f.rb).scalar s = some b →
      StoresConditionally (.stocx f) s f.sel (addressLSX f s b) (s.reg f.rt)) ∧
    (f.v = 0#1 → (opnd f.tb f.rb).scalar s = none → exec (.stocx f) s = .refused .vectorOperandInScalar) ∧
    (f.v = 1#1 → s.pending.vl = [] → s.resv = none → exec (.stocx f) s = .next (s.looped.advance 6))

/-- LLAL, LLAH, LIN2PHL and LIN2PHH give linear and physical addresses without an access (20 R161, 20 R181, 20 R182, 45
R663, 45 R667, 45 R700, 45 R701, 45 R702, 48 R884, 70 R1081). The H forms are the spec's own decision D56, the
indexed address D55; that the vector form starts at D_VSTEP and leaves it 0 is 48 R884, D67, y of a form that starts
above 0 log 36; the unloaded base is log 16, the vector forms log 42, more than one matching way log 15. -/
def Obligations.AddressInstructions : Prop :=
  (∀ base va : Word, (linearAddress base va).extractLsb' 12 52 = va.extractLsb' 12 52 + base.extractLsb' 12 52 ∧
    (linearAddress base va).extractLsb' 0 12 = va.extractLsb' 0 12) ∧
  (∀ (f : Fmt.LSD) (s : State), let va := s.reg f.ra + sext f.disp
    (∀ d, s.pending.sel = [] → (s.selector f.sel.toNat).desc = some d →
      exec (.llal f) s = .next (s.result 6 f.rt (linearAddress d.o0 va))) ∧
    (s.pending.sel = [] → (s.selector f.sel.toNat).desc = none → exec (.llal f) s = .next (s.result 6 f.rt
      (linearAddress (Config.powerUpDescriptor s.era f.sel.toNat).o0 va))) ∧
    exec (.llah f) s = .next (s.result 6 f.rt 0)) ∧
  (∀ (f : Fmt.LSX) (s : State) (d : Descriptor), s.pending.sel = [] →
    s.cached f.sel.toNat (s.selector f.sel.toNat) = d →
    (f.v = 0#1 → ∀ b, (opnd f.tb f.rb).scalar s = some b →
      exec (.llalx f) s = .next (s.result 6 f.rt (linearAddress d.o0 (addressLSX f s b)))) ∧
    (f.v = 1#1 → s.pending.vl = [] → ∃ t, exec (.llalx f) s = .next t ∧ VectorResult s s.looped t 6 f.rt f.m f.z fun x => linearAddress d.o0 (s.elementAddress f x))) ∧
  (∀ (f : Fmt.LSX) (s : State),
    (f.v = 0#1 → (opnd f.tb f.rb).scalar s = none →
      exec (.llalx f) s = .refused .vectorOperandInScalar ∧ exec (.llahx f) s = .refused .vectorOperandInScalar) ∧
    (f.v = 0#1 → ∀ b, (opnd f.tb f.rb).scalar s = some b → exec (.llahx f) s = .next (s.result 6 f.rt 0)) ∧
    (f.v = 1#1 → s.pending.vl = [] → ∃ t, exec (.llahx f) s = .next t ∧ VectorResult s s.looped t 6 f.rt f.m f.z fun _ => 0)) ∧
  (∀ (f : Fmt.R3) (s : State), let o := operandsR3 f
    let physical := fun la w => tlbPhysical (s.tlbEntry w (la.extractLsb' 12 10).toNat) la
    (f.v = 0#1 → ∀ a b c, o.a.scalar s = some a → o.b.scalar s = some b → o.c.scalar s = some c →
      (s.translates a = false → exec (.lin2phl f) s = .next (s.result 6 f.rt a)) ∧
      (∀ w, s.translates a = true → s.tlbWays a = [w] → exec (.lin2phl f) s = .next (s.result 6 f.rt (physical a w))) ∧
      (s.translates a = true → s.tlbWays a = [] →
        exec (.lin2phl f) s = .next ({ s with draw := s.draw + 1 }.result 6 f.rt (s.free 0)))) ∧
    (f.v = 0#1 → o.a.scalar s = none ∨ o.b.scalar s = none ∨ o.c.scalar s = none →
      exec (.lin2phl f) s = .refused .vectorOperandInScalar) ∧
    (f.v = 1#1 → s.pending.vl = [] → ∀ way : Nat → Nat,
      (∀ x ∈ s.enabledList f.m, let la := o.a.element s x
        s.translates la = true → s.tlbWays la = [way x]) →
      ∃ t, exec (.lin2phl f) s = .next t ∧ VectorResult s s.looped t 6 f.rt f.m f.z fun x =>
        let la := o.a.element s x
        if s.translates la then physical la (way x) else la)) ∧
  ∀ f : Fmt.R3, Computes (.lin2phh f) (operandsR3 f) (fun _ _ _ _ => 0)

/-- CACHE and CACHEX enable or disable the data cache and invalidate instruction lines, and nothing else (10 R93, 20
R215, 20 R216, 45 R725, 45 R726, 47 R821). That the command takes no fault and that the instruction cache commands 1
and 2 do nothing is log 41, old instruction bytes are log 11 and the spec's own decision D32, the vector form log 42,
the indexed address D55; that the vector form leaves D_VSTEP 0 is 48 R884, D67. -/
def Obligations.CacheCommands : Prop :=
  let mark := fun (s : State) (p : Nat → Bool) =>
    { s with stale := s.stale.map fun e => if p e.addr then { e with invalidated := true } else e }
  let data := fun (dc : BitVec 3) (s : State) =>
    { s with csr := { s.csr with cr0 :=
      if dc = 1#3 then s.csr.cr0 ||| 0x40000000#64
      else if dc = 2#3 then s.csr.cr0 &&& 0xFFFFFFFFBFFFFFFF#64 else s.csr.cr0 } }
  let line := fun (s : State) (pa : Word) => mark s fun a => a / s.config.icacheLine = pa.toNat / s.config.icacheLine
  let commands := fun (rt : RegNum) (seg : Nat) (va : Word) (s : State) (go : State → Prop) =>
    let ic := rt.extractLsb' 0 3
    let put := fun s1 => go (data (rt.extractLsb' 3 3) s1)
    (ic ≠ 3#3 → ic ≠ 4#3 → put s) ∧ (ic = 4#3 → put (mark s fun _ => true)) ∧
    (ic = 3#3 → s.pending.sel = [] → ∀ d, (s.selector seg).desc = some d →
      (s.translates (linearAddress d.o0 va) = false → put (line s (linearAddress d.o0 va))) ∧
      (s.translates (linearAddress d.o0 va) = true → s.tlbWays (linearAddress d.o0 va) = [] → put s) ∧
      (s.translates (linearAddress d.o0 va) = true → ∀ w, s.tlbWays (linearAddress d.o0 va) = [w] →
        put (line s (tlbPhysical (s.tlbEntry w ((linearAddress d.o0 va).extractLsb' 12 10).toNat)
          (linearAddress d.o0 va)))))
  (∀ (f : Fmt.LSD) (s : State), s.allows .cache →
    commands f.rt f.sel.toNat (s.reg f.ra + sext f.disp) s fun t => exec (.cache f) s = .next (t.advance 6)) ∧
  ∀ (f : Fmt.LSX) (s : State), s.allows .cachex →
    (f.v = 0#1 → ∀ b, (opnd f.tb f.rb).scalar s = some b →
      commands f.rt f.sel.toNat (addressLSX f s b) s fun t => exec (.cachex f) s = .next (t.advance 6)) ∧
    (f.v = 0#1 → (opnd f.tb f.rb).scalar s = none → exec (.cachex f) s = .refused .vectorOperandInScalar) ∧
    (f.v = 1#1 → s.pending.vl = [] → f.rt.extractLsb' 0 3 ≠ 3#3 → ∀ va,
      commands f.rt f.sel.toNat va s fun t =>
        exec (.cachex f) s = .next ((if s.enabledList f.m = [] then s else t).looped.advance 6))

/-- Segmentation checks bounds and rights when protection is on, and a failed access changes nothing (20 R161, 20 R162,
20 R169, 20 R171, 20 R172, 20 R190, 60 R1004, 20 R179, 70 R1081, 93 U6, 70 R1093). What Pe gates and the faults are
the spec's own decisions D4 and D27, the order of the checks D28; that a failed misaligned access changes nothing is
log 14; the fetch through a CS never loaded is log 16, the CS that a fetch began with log 10. -/
def Obligations.SegmentChecks : Prop :=
  ∀ (s : State) (seg : Nat) (va : Word), s.pending.sel = [] →
    (∀ k, k ≠ Access.fetch → (s.selector seg).desc = none → s.segment k seg va = .stop (.refuse (.segmentNeverLoaded seg))) ∧
    (va.extractLsb' 60 4 = 0xF#4 → s.segment .fetch seg va = .ok va s) ∧
    (∀ k d, (k = Access.fetch → va.extractLsb' 60 4 ≠ 0xF#4) →
      (if k = Access.fetch then s.cached seg s.fetching.cs = d else (s.selector seg).desc = some d) →
      let right := d.o3.getLsbD (match k with | .load => 58 | .store => 57 | .fetch => 56)
      let stack := d.o3.getLsbD 61
      let outside := if stack then d.o2.toNat ≤ va.toNat ∨ va.toNat < d.o2.toNat - (d.o3.extractLsb' 0 44).toNat
        else d.o2.toNat ≤ va.toNat
      (s.pe = false → s.segment k seg va = .ok (linearAddress d.o0 va) s) ∧
      (s.pe = true → outside → s.segment k seg va = .trap ⟨if stack then causeSTK else causeSGB, some va, false⟩ s) ∧
      (s.pe = true → ¬ outside → right = false → s.segment k seg va =
        .trap ⟨match k with | .load => causeDRF | .store => causeDWF | .fetch => causeEXF, some va, false⟩ s) ∧
      (s.pe = true → ¬ outside → right = true → s.segment k seg va = .ok (linearAddress d.o0 va) s)) ∧
    (∀ n e, 0 < n → (∀ j < n, ∀ r < 4, debugMatchesData s false (va + BitVec.ofNat 64 j) r = false) →
      s.segment .load seg va = .trap e s → s.memRead seg va n = .trap e s) ∧
    ∀ n v e, 0 < n → (∀ j < n, ∀ r < 4, debugMatchesData s true (va + BitVec.ofNat 64 j) r = false) →
      s.segment .store seg va = .trap e s → s.memWrite seg va n v = .trap e s

/-- User-mode addresses below the top 16 MB are translated by the matching TLB way, whose entry is touched, and a load or
store reads or writes the bytes at the physical address; an exception takes back the touch of its fetch (20 R180, 20
R181, 20 R182, 20 R183, 20 R184, 20 R190, 30 R242, 60 R1004). A free choice among several ways is log 15; what an
exception takes back of its own instruction's fetch is log 14; that all 64 bits of a physical address count is log
56. -/
def Obligations.Translation : Prop :=
  ((∀ (s : State) (la : Word), s.translates la = true ↔ s.om = 0#2 ∧ la.extractLsb' 24 40 ≠ BitVec.allOnes 40) ∧
  (∀ (s : State) (la : Word) (w : Nat), let t := s.tlbEntry w (la.extractLsb' 12 10).toNat
    w ∈ s.tlbWays la ↔ w < 4 ∧ t.extractLsb' 26 22 = la.extractLsb' 22 22 ∧
      (t.getLsbD 55 = true ∨ t.extractLsb' 56 8 = s.csr.asid)) ∧
  ∀ (s : State) (k : Access) (va la : Word), sparseWf 0 s.tlb = true →
    (s.translates la = false → s.translate k va la = .ok la s) ∧
    (s.translates la = true → s.tlbWays la = [] → s.translate k va la = .trap ⟨causeTLB, some va, false⟩ s) ∧
    (s.translates la = true → ∀ w, s.tlbWays la = [w] →
      let e := (la.extractLsb' 12 10).toNat
      let t := s.tlbEntry w e
      let right := t.getLsbD (match k with | .load => 50 | .store => 49 | .fetch => 48)
      (right = false → s.translate k va la =
        .trap ⟨match k with | .load => causeDRF | .store => causeDWF | .fetch => causeEXF, some va, false⟩ s) ∧
      (right = true → ∃ u, s.translate k va la = .ok ((t.extractLsb' 0 22 ++ la.extractLsb' 0 12).setWidth 64) u ∧
        u.tlbEntry w e = t ||| 1#64 <<< 53 ||| (if k = .store then 1#64 <<< 54 else 0) ∧
        (∀ w1 e1, 1024 * w1 + e1 ≠ 1024 * w + e → u.tlbEntry w1 e1 = s.tlbEntry w1 e1) ∧
        { u with tlb := s.tlb, fetching := { u.fetching with marks := s.fetching.marks } } = s ∧
        ∀ m, m ∈ u.fetching.marks ↔
          if k = .fetch then m ∈ s.fetching.marks ∨ m = 1024 * w + e ∧ t.getLsbD 53 = false
          else m ∈ s.fetching.marks ∧ m ≠ 1024 * w + e))) ∧
  (∀ s : State, sparseWf 0 s.tlb = true → s.abandonFetch.fetching.marks = [] ∧
    { s.abandonFetch with tlb := s.tlb, fetching := s.fetching } = s ∧
    ∀ m, sparseGet 0 s.abandonFetch.tlb m =
      if m ∈ s.fetching.marks then sparseGet 0 s.tlb m &&& ~~~(1#64 <<< 53) else sparseGet 0 s.tlb m) ∧
  (∀ (s u : State) (va : Word) (bs : List Byte), sparseWf 0 s.tlb = true → s.fetching.marks = [] →
    s.fetchInstruction va = .ok bs u → u.abandonFetch.tlb = s.tlb) ∧
  ∀ (s u : State) (seg : Nat) (va la pa : Word) (n : Nat), 0 < n → n < 2 ^ 64 → va.toNat % n = 0 → s.checksKeys = false →
    (∀ j < n, platformKind s.config.platformMap (pa + BitVec.ofNat 64 j).toNat = .memory) →
    let settled := fun (k : Access) =>
      (∀ j < n, ∀ r < 4, debugMatchesData s (decide (k = .store)) (va + BitVec.ofNat 64 j) r = false) ∧
      s.segment k seg va = .ok la s ∧ s.translate k va la = .ok pa u ∧
      ∃ a, pmaAttributes s.config.pmaTable pa.toNat = some a ∧ k.pmaRight a = true
    (settled .load → s.memRead seg va n = .ok (s.valueAt pa n) u) ∧
    (settled .store → Memory.wf s.mem = true → ∀ v, ∃ t, s.memWrite seg va n v = .ok () t ∧ StoredAt u u t pa n v)

/-- The path of an access: its steps in their order; key checks, physical attributes and bus answers (20 R143, 20 R150, 20
R190, 20 R195, 20 R196, 20 R200, 20 R201, 20 R202, 60 R1004, 60 R1012). The order of the steps is the spec's own
decision D28, misaligned accesses D24 and log 14; the modes checked, the overlap of regions and the platform map are
D29, D31 and D25; the key cache is log 12, the physical base of the key table log 45, its Limit log 57, device windows
log 20; what a store keeps of the bytes it replaces is log 11 and D32. -/
def Obligations.KeysAndAttributes : Prop :=
  (∀ (s : State) (seg : Nat) (va : Word) (n : Nat), 0 < n → va.toNat % n = 0 →
    (∀ pa t, s.PathTo .load seg va n pa t → s.memRead seg va n = .ok (t.valueAt pa n) t) ∧
    (∀ f, s.PathFails .load seg va n f → (s.memRead seg va n).failure = some f) ∧
    (∀ v pa t, n < 2 ^ 64 → Memory.wf s.mem = true → s.PathTo .store seg va n pa t →
      ∃ u, s.memWrite seg va n v = .ok () u ∧ StoredAt t t u pa n v) ∧
    ∀ v f, s.PathFails .store seg va n f → (s.memWrite seg va n v).failure = some f) ∧
  (∀ (st : Nat → State) (seg : Nat) (va v : Word) (n : Nat), 0 < n → va.toNat % n ≠ 0 →
    let at_ := fun (j : Nat) => va + BitVec.ofNat 64 j
    let stores := fun (j : Nat) => (st j).memWrite seg (at_ j) 1 (v >>> (8 * j))
    (∀ b : Nat → Word, (∀ j < n, (st j).memRead seg (at_ j) 1 = .ok (b j) (st (j + 1))) →
      (st 0).memRead seg va n = .ok (wordOf ((List.range n).map fun j => (b j).extractLsb' 0 8)) (st n)) ∧
    ((∀ j < n, stores j = .ok () (st (j + 1))) → (st 0).memWrite seg va n v = .ok () (st n)) ∧
    ∀ k < n, ∀ f,
      ((∀ j < k, ∃ b, (st j).memRead seg (at_ j) 1 = .ok b (st (j + 1))) →
        ((st k).memRead seg (at_ k) 1).failure = some f → ((st 0).memRead seg va n).failure = some f) ∧
      ((∀ j < k, stores j = .ok () (st (j + 1))) → (stores k).failure = some f →
        ((st 0).memWrite seg va n v).failure = some f)) ∧
  (∀ (s t : State) (seg : Nat) (va v : Word) (n : Nat) (e : Exc),
    (s.memRead seg va n = .trap e t → Abandoned s t) ∧ (s.memWrite seg va n v = .trap e t → Abandoned s t)) ∧
  ∀ (s : State) (va pa : Word),
    (s.checksKeys = true ↔ s.pe = true ∧ s.om ∈ s.config.keyCheckModes) ∧
    (s.checksKeys = false → s.checkKey va pa = .ok () s) ∧
    (∀ d, s.checksKeys = true → s.pending.sel = [] → (s.selector 18).desc = some d → s.keyCache = [] →
      let at_ := d.o0 + BitVec.ofNat 64 (4 * (pa.toNat / 4096))
      firstNonMemory s.config.platformMap at_ 4 = none →
      ∃ key, (key = (Memory.tetra s.mem at_).extractLsb' 0 20 ∨ ∃ old, (at_.toNat, old) ∈ s.rewritten ∧ key = old.extractLsb' 0 20) ∧
        (key ∈ s.csr.keys.toList → ∃ t, s.checkKey va pa = .ok () t ∧
          { t with keyCache := s.keyCache, draw := s.draw } = s) ∧
        (key ∉ s.csr.keys.toList → ∃ t, s.checkKey va pa = .trap ⟨causeKEY, some va, false⟩ t ∧
          { t with keyCache := s.keyCache, draw := s.draw } = s)) ∧
    (∀ n k, k < n + 3 → let a := pa - 3 + BitVec.ofNat 64 k
      (a.toNat, Memory.tetra s.mem a) ∈ (s.keepTetras pa n).rewritten ∧
        { s.keepTetras pa n with rewritten := s.rewritten } = s) ∧
    (∀ (k : Access) (i : Fin 8), let r := s.config.pmaTable.get i
      let covers := fun (r : Config.PmaRegion) => r.lb.toNat ≤ pa.toNat / 16 ∧ pa.toNat / 16 ≤ r.ub.toNat
      covers r → (∀ j < i, ¬ covers (s.config.pmaTable.get j)) →
      s.checkPma k va pa =
        if r.attr.getLsbD (match k with | .load => 2 | .store => 1 | .fetch => 0) then .ok () s
        else .trap ⟨causePMA, some va, false⟩ s) ∧
    (∀ k, (∀ i : Fin 8, ¬ ((s.config.pmaTable.get i).lb.toNat ≤ pa.toNat / 16 ∧
      pa.toNat / 16 ≤ (s.config.pmaTable.get i).ub.toNat)) →
      s.checkPma k va pa = .trap ⟨causePMA, some va, false⟩ s) ∧
    ∀ (k : Access) (n : Nat), n ≤ 32 → let kind := fun j => platformKind s.config.platformMap (pa + BitVec.ofNat 64 j).toNat
      ((∀ j < n, kind j = .memory) → s.busAnswers k va pa n = .ok () s) ∧
      ∀ j < n, (∀ i < j, kind i = .memory) → (pa.toNat + j < 2 ^ 64) →
        (kind j = .none → s.busAnswers k va pa n =
          .trap ⟨if k = .fetch then causeIBE else causeDBE, some (va + BitVec.ofNat 64 j), false⟩ s) ∧
        (kind j = .device → s.busAnswers k va pa n = .stop (.fault (.deviceAccess (pa.toNat + j))))

/-- Debug address match on data and instructions: DBSR, tracing and the trap into debug mode (10 R99, 10 R100, 10 R101,
60 R1011, 60 R1013, 60 R1050, 60 R1054). The comparison is the spec's own decision D84, that of every byte of an
access log 13; that M_BAD_INSTR of the instruction match is unspecified is the model's choice, log 22; that a
trapped access changes nothing else is log 14. -/
def Obligations.DebugMatch : Prop :=
  ∀ s : State,
    let type := fun r => s.csr.dbcr.extractLsb' (16 + 4 * r) 2
    let size := fun r => (s.csr.dbcr.extractLsb' (18 + 4 * r) 2).toNat
    let marked := fun (m : BitVec 4) =>
      { s with
        csr := { s.csr with dbsr := s.csr.dbsr ||| m }
        mode := { s.mode with tracing := s.mode.tracing || (m &&& s.csr.dbcr.extractLsb' 32 4) != 0#4 } }
    (∀ (st : Bool) (va : Word) (n : Nat) (m : BitVec 4),
      let matches_ := fun (k : Nat) (r : Fin 4) => ((type r = 1#2 ∧ st = true) ∨ type r = 3#2) ∧
        s.csr.dbad.get r >>> size r = (va + BitVec.ofNat 64 k) >>> size r
      let traps := fun (k : Nat) => ∃ r : Fin 4, matches_ k r ∧ s.csr.dbcr.getLsbD r = true
      (∀ r : Fin 4, m.getLsbD r = true ↔ ∃ k < n, matches_ k r) →
      (m = 0#4 → s.debugData st va n = .ok () s) ∧
      (m ≠ 0#4 → (∀ k < n, ¬ traps k) → s.debugData st va n = .ok () (marked m)) ∧
      ∀ k < n, traps k → (∀ j < k, ¬ traps j) →
        s.debugData st va n = .trap ⟨causeDBG, some (va + BitVec.ofNat 64 k), true⟩ (marked m)) ∧
    (∀ (va v : Word) (n seg : Nat), 0 < n → va.toNat % n = 0 →
      (∀ e t, s.debugData false va n = .trap e t → s.memRead seg va n = .trap e t) ∧
      ∀ e t, s.debugData true va n = .trap e t → s.memWrite seg va n v = .trap e t) ∧
    ∀ m : BitVec 4, (∀ r : Fin 4, m.getLsbD r = true ↔ type r = 0#2 ∧ s.csr.dbad.get r >>> 1 = s.ip >>> 1) →
      (m = 0#4 → s.instructionMatch = .ok () s) ∧
      (m ≠ 0#4 → m &&& s.csr.dbcr.extractLsb' 0 4 = 0#4 → s.instructionMatch = .ok () (marked m)) ∧
      (m &&& s.csr.dbcr.extractLsb' 0 4 ≠ 0#4 → s.env = [] → s.mode.waiting = false → s.inputs.nmi = false →
        s.recognised = false → s.mode.stepPending = false →
        step s = ({ marked m with draw := s.draw + 1 }.takeTrap
          ⟨causeDBG, s.ip, none, none, s.freeBadInstr, true, false⟩).outcome)

/-- Conditional, counting and unconditional branches: condition, target, link, loop counter and BT (46 R741, 46 R742, 46
R743, 46 R744, 46 R745, 46 R746, 46 R747, 46 R748, 46 R749, 46 R780, 46 R781). Displacement, the order of effects
and BT are the spec's own decisions D57, D58 and D59, the 20 bits of a conditional displacement log 59, the descriptor
load D87; that DBRA would link with another Lk than 0, which no well-formed DBRA has, is 46 R780 and log 43. -/
def Obligations.Branches : Prop :=
  ((∀ (f : Fmt.BR) (s : State),
    let at_ := fun i dec cond => BranchesAt i s f.lk f.ca (sext (f.target ++ f.tgt)) dec cond
    (∀ b, (opnd f.tb f.rb).scalar s = some b →
      at_ (.bbc f) false (!(s.reg f.ra).getLsbD (b.toNat % 64)) ∧
      at_ (.bbs f) false ((s.reg f.ra).getLsbD (b.toNat % 64)) ∧
      at_ (.beq f) false (decide (s.reg f.ra = b)) ∧
      at_ (.bne f) false (decide (s.reg f.ra ≠ b)) ∧
      at_ (.blt f) false (decide ((s.reg f.ra).toInt < b.toInt)) ∧
      at_ (.bge f) false (decide ((s.reg f.ra).toInt ≥ b.toInt)) ∧
      at_ (.ble f) false (decide ((s.reg f.ra).toInt ≤ b.toInt)) ∧
      at_ (.bgt f) false (decide ((s.reg f.ra).toInt > b.toInt)) ∧
      at_ (.bltu f) false (decide ((s.reg f.ra).toNat < b.toNat)) ∧
      at_ (.bgeu f) false (decide ((s.reg f.ra).toNat ≥ b.toNat)) ∧
      at_ (.bleu f) false (decide ((s.reg f.ra).toNat ≤ b.toNat)) ∧
      at_ (.bgtu f) false (decide ((s.reg f.ra).toNat > b.toNat)) ∧
      at_ (.dbbc f) true (!(s.reg f.ra).getLsbD (b.toNat % 64)) ∧
      at_ (.dbbs f) true ((s.reg f.ra).getLsbD (b.toNat % 64)) ∧
      at_ (.dbeq f) true (decide (s.reg f.ra = b)) ∧
      at_ (.dbne f) true (decide (s.reg f.ra ≠ b)) ∧
      at_ (.dblt f) true (decide ((s.reg f.ra).toInt < b.toInt)) ∧
      at_ (.dbge f) true (decide ((s.reg f.ra).toInt ≥ b.toInt)) ∧
      at_ (.dble f) true (decide ((s.reg f.ra).toInt ≤ b.toInt)) ∧
      at_ (.dbgt f) true (decide ((s.reg f.ra).toInt > b.toInt)) ∧
      at_ (.dbltu f) true (decide ((s.reg f.ra).toNat < b.toNat)) ∧
      at_ (.dbgeu f) true (decide ((s.reg f.ra).toNat ≥ b.toNat)) ∧
      at_ (.dbleu f) true (decide ((s.reg f.ra).toNat ≤ b.toNat)) ∧
      at_ (.dbgtu f) true (decide ((s.reg f.ra).toNat > b.toNat))) ∧
    ((opnd f.tb f.rb).scalar s = none → ∀ g ∈ [Instr.bbc, .bbs, .beq, .bne, .blt, .bge, .ble, .bgt, .bltu, .bgeu, .bleu,
        .bgtu, .dbbc, .dbbs, .dbeq, .dbne, .dblt, .dbge, .dble, .dbgt, .dbltu, .dbgeu, .dbleu, .dbgtu],
      exec (g f) s = .refused .vectorOperandInScalar)) ∧
  (∀ (f : Fmt.BZ) (s : State),
    BranchesAt (.beqz f) s f.lk f.ca (sext (f.tgtHi ++ f.tgtLo)) false (decide (s.reg f.ra = 0)) ∧
    BranchesAt (.bnez f) s f.lk f.ca (sext (f.tgtHi ++ f.tgtLo)) false (decide (s.reg f.ra ≠ 0))) ∧
  ∀ (f : Fmt.JMP) (s : State), let disp := sext (f.targetHi ++ f.targetLo)
    BranchesAt (.bra f) s f.lk f.ca disp false true ∧ BranchesAt (.bsr f) s f.lk f.ca disp false true ∧
    BranchesAt (.jmp f) s f.lk f.ca disp false true ∧ BranchesAt (.jsr f) s f.lk f.ca disp false true ∧
    BranchesAt (.dbra f) s f.lk f.ca disp true true) ∧
  (∀ s : State, s.countLoop false = s ∧ (s.countLoop true).lc.toNat = (s.lc.toNat + (2 ^ 64 - 1)) % 2 ^ 64 ∧
    { s.countLoop true with lc := s.lc } = s)

/-- RTS returns through a link register and pops its arguments; JGATE goes through a call gate; NOP only advances (20
R173, 20 R177, 46 R746, 46 R748, 46 R800, 46 R805, 46 R810). RTS's constants are the spec's own decision D60,
which registers the two links are D11, the descriptor load D87 and log 17; BT for RTS and JGATE is log 19, the checks of
a gate log 18. -/
def Obligations.ReturnsAndGates : Prop :=
  (∀ (f : Fmt.RTS) (s : State),
    let l := s.codeAddr (f.lk.setWidth 3)
    let target : CodeAddr := ⟨l.off + f.const6.setWidth 64, l.sel⟩
    (f.lk = 0#2 ∨ f.lk = 3#2 → exec (.rts f) s = .refused .reservedLink) ∧
    (f.lk = 1#2 ∨ f.lk = 2#2 →
      (target = s.codeAddr 7 → exec (.rts f) s = s.raise (Instr.ctx (.rts f)) (.plain causeBT)) ∧
      (target ≠ s.codeAddr 7 → ∀ d u,
        (s.setReg 27#6 (s.reg 27#6 + 8 * f.const15.setWidth 64)).loadDescriptor target.sel false = .ok d u →
        exec (.rts f) s = .next ((u.putSelector 7 ⟨target.sel, some d⟩).setIp target.off)))) ∧
  (∀ (f : Fmt.JGATE) (s : State),
    (f.lk = 3#2 → exec (.jgate f) s = .refused .reservedLink) ∧
    (f.lk ≠ 3#2 → ∀ (g : Descriptor) (inside : Bool) (s1 : State), s.readDescriptor f.selector = .ok (g, inside) s1 →
      let target : CodeAddr := ⟨g.o0, g.o2.extractLsb' 0 32⟩
      let gate := g.o3.getLsbD 62 = true ∧ g.o3.extractLsb' 56 4 = 4#4
      (¬ gate → exec (.jgate f) s = .refused .notCallGate) ∧
      (gate → target = s1.codeAddr 7 → exec (.jgate f) s = s1.raise (Instr.ctx (.jgate f)) (.plain causeBT)) ∧
      (gate → target ≠ s1.codeAddr 7 → ∀ d u,
        (s1.link f.lk (nextIp s1.ip 6)).loadDescriptor target.sel false = .ok d u →
        exec (.jgate f) s = .next ((u.putSelector 7 ⟨target.sel, some d⟩).setIp target.off)))) ∧
  (∀ (s : State) (ret : Word), s.link 0 ret = s ∧ s.link 1 ret = s.setCodeAddr 1 ⟨ret, s.cs⟩ ∧
    s.link 2 ret = s.setCodeAddr 2 ⟨ret, s.cs⟩) ∧
  ∀ (f : Fmt.NOP) (s : State), exec (.nop f) s = .next (s.advance 2)

/-- CSRRD, CSRRW, CSRRS and CSRRC read the old value and write, set or clear, under the access check (10 R62, 10 R63, 10
R64, 10 R65, 47 R822). The access to the debug registers, undefined numbers and CSRRS and CSRRC on other registers
are the spec's own decisions D12, D13 and D14. -/
def Obligations.CsrInstructions : Prop :=
  (∀ (f : Fmt.CSR) (s : State), let k := (f.regno.extractLsb' 12 4).toNat
    (k ≤ 3 ∧ s.om.toNat < k ∨ k = 4 ∧ s.om ≠ 3#2 → ∀ i ∈ [Instr.csrrd f, .csrrw f, .csrrs f, .csrrc f],
      exec i s = s.raise (Instr.ctx i) (.plain causePRIV)) ∧
    (¬ (k ≤ 3 ∧ s.om.toNat < k ∨ k = 4 ∧ s.om ≠ 3#2) →
      (csrName f.regno = none → ∀ i ∈ [Instr.csrrd f, .csrrw f, .csrrs f, .csrrc f],
        exec i s = .next (s.result 6 f.rt 0)) ∧
      ∀ n, csrName f.regno = some n →
        let old := (s.csrRead n).1
        let a := s.reg f.ra
        let s1 := (s.csrRead n).2.setReg f.rt old
        let settable := (∃ m, n = .ie m) ∨ n = .cr0
        exec (.csrrd f) s = .next (s1.advance 6) ∧
        (∀ t, s1.csrWrite n a = .ok () t → exec (.csrrw f) s = .next (t.advance 6)) ∧
        (settable → ∀ t, s1.csrWrite n (old ||| a) = .ok () t → exec (.csrrs f) s = .next (t.advance 6)) ∧
        (settable → ∀ t, s1.csrWrite n (old &&& ~~~a) = .ok () t → exec (.csrrc f) s = .next (t.advance 6)) ∧
        (¬ settable → exec (.csrrs f) s = .next (s1.advance 6) ∧ exec (.csrrc f) s = .next (s1.advance 6)))) ∧
  ∀ (s : State) (n : CsrName) (w : Word), (∀ k, n ≠ .selector k) → ∃ t, s.csrWrite n w = .ok () t

/-- The CSR file: which number names which register, what a read gives, and what a write leaves to read (10 R35, 10 R38,
10 R46, 10 R61, 10 R65 to R70, 10 R82, 10 R83, 10 R90, 10 R94 to R97, 10 R112). Undefined halves, widths, TIME, M_TICK
and BADADDR are the spec's own decisions D10, D12, D16, D17 and D18; the ignored writes and stored bits log 38; the width
of M_TCB log 58; the descriptor load D87 and log 17; that a CSR read of a selector register gives the new value before
MEMSB too is 70 R1090. -/
def Obligations.CsrFile : Prop :=
  (∀ k : BitVec 2, let number := fun (low : BitVec 12) => csrName (0#2 ++ k ++ low)
    number 0x004 = some (.ie k) ∧ number 0x006 = some (.cause k) ∧ number 0x007 = some (.badaddr k) ∧
    number 0x041 = some (.scratch k) ∧ number 0xFE0 = some .time) ∧
  csrName 0x0014 = some .fstat ∧ (∀ n : BitVec 3, csrName (0x026#13 ++ n) = some (.mask n)) ∧
  csrName 0x1003 = some (.selector 16) ∧ csrName 0x101F = some .asid ∧
  (∀ n : BitVec 3, csrName (0x204#13 ++ n) = some (.keys n)) ∧
  csrName 0x3000 = some .cr0 ∧ csrName 0x3001 = some .hartid ∧ csrName 0x3002 = some .tick ∧
  csrName 0x3003 = some .seed ∧ csrName 0x300B = some .badInstr ∧
  (∀ n : BitVec 2, csrName (0xC06#14 ++ n) = some (.dbad n)) ∧ csrName 0x301C = some .dbcr ∧
  csrName 0x301D = some .dbsr ∧
  (∀ n : BitVec 2, csrName (0x606#13 ++ n ++ 0#1) = some (.tvecLow n) ∧ csrName (0x606#13 ++ n ++ 1#1) = some (.tvecHigh n)) ∧
  csrName 0x3040 = some .pmStack ∧ csrName 0x3050 = some .gdtb ∧ csrName 0x3051 = some .gdtl ∧
  csrName 0x3052 = some (.selector 17) ∧ csrName 0x3053 = some (.selector 18) ∧ csrName 0x3054 = some .tcb ∧
  (∀ n : BitVec 3, csrName (0x310#12 ++ n ++ 0#1) = some (.codeLow n) ∧ csrName (0x310#12 ++ n ++ 1#1) = some (.codeHigh n)) ∧
  (∀ n : BitVec 3, csrName (0x624#13 ++ n) = some (.selector n.toNat)) ∧ csrName 0x4046 = some .vstep ∧
  csrName 0x4047 = some .vtmp ∧
  ∀ (s : State) (w : Word),
    let leaves := fun (n : CsrName) (x : Word) => ∃ t, s.csrWrite n w = .ok () t ∧ (t.csrRead n).1 = x
    (∀ k : BitVec 2, leaves (.ie k) (w &&& (((2#4 <<< k.toNat) - 1#4).setWidth 64))) ∧
    (∀ k, leaves (.cause k) ((w.extractLsb' 0 16).setWidth 64)) ∧ (∀ k, leaves (.badaddr k) w) ∧
    (∀ k, leaves (.scratch k) w) ∧ (∀ n, leaves (.mask n) w) ∧ (∀ n, leaves (.keys n) ((w.extractLsb' 0 20).setWidth 64)) ∧
    (s.om = 3#2 → leaves .time w) ∧ (s.om ≠ 3#2 → s.csrWrite .time w = .ok () s) ∧
    leaves .asid ((w.extractLsb' 0 8).setWidth 64) ∧ leaves .cr0 w ∧ leaves .badInstr w ∧ (∀ n, leaves (.dbad n) w) ∧
    leaves .dbcr w ∧ leaves .dbsr ((w.extractLsb' 0 4).setWidth 64) ∧ leaves .pmStack w ∧ leaves .gdtb w ∧
    leaves .gdtl w ∧ leaves .tcb ((w.extractLsb' 0 32).setWidth 64) ∧
    leaves .vstep ((w.extractLsb' 0 8).setWidth 64) ∧ leaves .vtmp w ∧
    (∀ n, n ≠ 7#3 → leaves (.codeLow n) w ∧ leaves (.codeHigh n) ((w.extractLsb' 0 32).setWidth 64)) ∧
    (∀ n : BitVec 2, let c := s.csr.tvec.get n.toFin
      ∃ t u, s.csrWrite (.tvecLow n) w = .ok () t ∧ s.csrWrite (.tvecHigh n) w = .ok () u ∧
        t.csr.tvec.get n.toFin = ⟨w, c.sel⟩ ∧ u.csr.tvec.get n.toFin = ⟨c.off, w.extractLsb' 0 32⟩ ∧
        ∀ k, k ≠ n → t.csr.tvec.get k.toFin = s.csr.tvec.get k.toFin ∧ u.csr.tvec.get k.toFin = s.csr.tvec.get k.toFin) ∧
    (∀ n : BitVec 2, s.pending.tvec = [] → (s.csrRead (.tvecLow n)).1 = (s.csr.tvec.get n.toFin).off ∧
      (s.csrRead (.tvecHigh n)).1 = (s.csr.tvec.get n.toFin).sel.setWidth 64) ∧
    (∀ n, s.csrRead (.selector n) = ((s.selector n).sel.setWidth 64, s)) ∧
    s.csrWrite (.selector 7) w = .ok () s ∧
    (∀ n, n < 7 ∨ 16 ≤ n → n ≤ 18 → ∀ d u, s.loadDescriptor (w.extractLsb' 0 32) (decide (16 ≤ n)) = .ok d u →
      s.csrWrite (.selector n) w = .ok () (u.putSelector n ⟨w.extractLsb' 0 32, some d⟩)) ∧
    (∀ (k : BitVec 2) t, s.csrWrite (.ie k) w = .ok () t →
      t.csr.ie >>> (k.toNat + 1) = s.csr.ie >>> (k.toNat + 1)) ∧
    (∀ n t, (∀ k, n ≠ .selector k) → s.csrWrite n w = .ok () t →
      { t with csr := s.csr, masks := s.masks, creg := s.creg, pending := s.pending, mode := { t.mode with
        pmStack := s.mode.pmStack } } = s ∧
      ∀ m, n ≠ m → (∀ j k, ¬ (n = .ie j ∧ m = .ie k)) →
        (t.csrRead m).1 = (s.csrRead m).1) ∧
    (∀ n ∈ [CsrName.fstat, .hartid, .tick, .seed, .codeLow 7, .codeHigh 7], s.csrWrite n w = .ok () s) ∧
    (s.csrRead .fstat).1 = s.csr.fstat &&& 0x001FFFC1FFFFFFFF#64 ∧ (s.csrRead .hartid).1 = s.config.hartid ∧
    (s.csrRead .tick).1 = s.csr.tick ∧ (s.csrRead .seed).1 = s.inputs.seed ∧
    (s.csrRead .time).1 = s.csr.time ∧ (s.csrRead (.codeLow 7)).1 = s.ip ∧
    (s.csrRead (.codeHigh 7)).1 = s.cs.setWidth 64 ∧ ∀ n, { (s.csrRead n).2 with draw := s.draw } = s

/-- BRK, SYS, INT and PFI enter the trap with their cause, return address and level (47 R823, 47 R824, 47 R825, 47 R827,
60 R1011, 60 R1020, 60 R1021, 92 FLT_BRK). FLT_BRK and SYS's return address are the spec's own decisions D61 and
D62; of the entry, the pushed stack, om, im and ipl are D20, the handler kind D7, debug mode D23, the descriptor
load D87; what is taken back of the fetch is log 14. -/
def Obligations.SoftwareTraps : Prop :=
  ∀ s : State,
    (∀ f, TrapsTo (exec (.brk f) s) s ⟨s.config.fltBrk, s.ip, none, none, encodeWord (.brk f), true, false⟩) ∧
    (∀ f, TrapsTo (exec (.sys f) s) s ⟨f.cause, nextIp s.ip 4, none, none, encodeWord (.sys f), false, false⟩) ∧
    (∀ f, f.lvl ≤ s.ipl → exec (.int f) s = .next (s.advance 4)) ∧
    (∀ f, s.ipl < f.lvl →
      TrapsTo (exec (.int f) s) s ⟨f.cause, s.ip, some f.lvl, none, encodeWord (.int f), false, true⟩) ∧
    ∀ f, s.allows .pfi →
      (s.inputs.irqLevel = 0#3 → exec (.pfi f) s = .next (s.advance 6)) ∧
      (s.inputs.irqLevel ≠ 0#3 →
        TrapsTo (exec (.pfi f) s) (s.setReg f.rt ((s.inputs.irqLevel ++ s.inputs.irqCause).setWidth 64))
          ⟨s.inputs.irqCause, s.ip, some s.inputs.irqLevel, none, encodeWord (.pfi f), false, true⟩)

/-- SEI, DI, WFI and the barriers (20 R216, 47 R826, 47 R828, 47 R829, 47 R830, 47 R831, 47 R848, 70 R1091, 70 R1092, 70
R1093). DI's count and the end of WFI are the spec's own decisions D63 and D66, the waiting state log 9, what a
barrier settles log 10 and D86; the old instruction bytes that SYNC drops are log 11 and D32. -/
def Obligations.InterruptControl : Prop :=
  (∀ (f : Fmt.OSR2) (s : State),
    ((opnd f.tb f.rb).scalar s = none → exec (.sei f) s = .refused .vectorOperandInScalar) ∧
    (s.allows .di → (opnd f.tb f.rb).scalar s = none → exec (.di f) s = .refused .vectorOperandInScalar) ∧
    ∀ b, (opnd f.tb f.rb).scalar s = some b →
      (s.om ≠ 3#2 → exec (.sei f) s = s.raise (Instr.ctx (.sei f)) (.plain causePRIV)) ∧
      (s.om = 3#2 → exec (.sei f) s = .next ({ s with mode := { s.mode with
        pmStack := s.mode.pmStack.extractLsb' 4 60 ++ b.extractLsb' 0 3 ++ s.mode.pmStack.extractLsb' 0 1 } }.result 6 f.rt
          (s.ipl.setWidth 64))) ∧
      (s.allows .di →
        exec (.di f) s = .next ({ s with mode := { s.mode with diCount := b.extractLsb' 0 3 } }.advance 6))) ∧
  ∀ (f : Fmt.S16) (s : State),
    (s.allows .wfi → s.inputs.irqLevel = 0#3 → s.inputs.nmi = false →
      exec (.wfi f) s = .next { s with mode := { s.mode with waiting := true } }) ∧
    (s.allows .wfi → s.inputs.irqLevel ≠ 0#3 ∨ s.inputs.nmi = true → exec (.wfi f) s = .next (s.advance 2)) ∧
    exec (.memdb f) s = .next (s.advance 2) ∧
    exec (.memsb f) s = .next ({ s with pending := { s.pending with sel := [] } }.advance 2) ∧
    exec (.sync f) s = .next ({ s with
      stale := s.stale.filter fun e => !e.invalidated
      pending := { s.pending with vl := [], tvec := [] } }.advance 2)

/-- The descriptor that a selector names and its load; MFSEL, MTSEL, TLBRW and REX (10 R45, 20 R163 to R166, 20 R168, 20
R174, 47 R832, 47 R833, 47 R843, 47 R850, 70 R1093, 93 U5). REX to a mode not below is the spec's own decision D65, that
IE[Tm] gates it D15, BADADDR for each mode D18, the base of the global table D21, the local table D26, what Pe gates D4,
the descriptor load D87 and log 17; the unspecified LDT descriptor before its first load is log 16; the random way of
TLBRW is a free choice (93 U51, log 6). -/
def Obligations.SelectorMoves : Prop :=
  (∀ (s : State) (sel : Selector) (system : Bool), (sel.getLsbD 23 = true → s.pending.sel = []) →
    let l := s.cached 17 (s.selector 17)
    let base := if sel.getLsbD 23 then l.o0 else s.csr.gdtb &&& 0xFFFFFFFFFFFFF000#64
    let size := if sel.getLsbD 23 then (l.o2.extractLsb' 0 28).toNat else s.csr.gdtl.toNat
    let index := (sel.extractLsb' 0 23).toNat
    let at_ := fun (j : Nat) => (base + BitVec.ofNat 64 (32 * index + j)).toNat
    let kind := fun (j : Nat) => platformKind s.config.platformMap (at_ j)
    ((∀ j < 32, kind j = .memory) → ∃ d,
      (∀ j < 8, d.o0.extractLsb' (8 * j) 8 = Memory.read s.mem (at_ j) ∧
        d.o1.extractLsb' (8 * j) 8 = Memory.read s.mem (at_ (8 + j)) ∧
        d.o2.extractLsb' (8 * j) 8 = Memory.read s.mem (at_ (16 + j)) ∧
        d.o3.extractLsb' (8 * j) 8 = Memory.read s.mem (at_ (24 + j))) ∧
      s.readDescriptor sel = .ok (d, decide (32 * index + 32 ≤ size)) s ∧
      s.loadDescriptor sel system =
        if s.pe = false ∨ d.o3.getLsbD 63 = true ∧ d.o3.getLsbD 62 = system ∧ 32 * index + 32 ≤ size then .ok d s
        else .stop (.refuse .descriptorCheck)) ∧
    ∀ j < 32, (∀ k < j, kind k = .memory) →
      (kind j = .none → s.readDescriptor sel = .stop (.refuse .descriptorBusError) ∧
        s.loadDescriptor sel system = .stop (.refuse .descriptorBusError)) ∧
      (kind j = .device → s.readDescriptor sel = .stop (.fault (.deviceAccess (at_ j))) ∧
        s.loadDescriptor sel system = .stop (.fault (.deviceAccess (at_ j))))) ∧
  (∀ (s u : State) (sel : Selector) (system inside : Bool) (d : Descriptor),
    (s.readDescriptor sel = .ok (d, inside) u → { u with draw := s.draw } = s) ∧
    (s.loadDescriptor sel system = .ok d u → { u with draw := s.draw } = s)) ∧
  (∀ (f : Fmt.OSR2) (s : State) (b : Word), (opnd f.tb f.rb).scalar s = some b →
    (s.allows .mfsel → 18 < b.toNat → exec (.mfsel f) s = .refused .selectorNumber) ∧
    (s.allows .mfsel → b.toNat ≤ 18 → s.pending.sel = [] →
      exec (.mfsel f) s = .next (s.result 6 f.rt ((s.selector b.toNat).sel.setWidth 64))) ∧
    (s.allows .mtsel → let n := b.toNat
      let sel := (s.reg f.ra).extractLsb' 0 32
      (18 < n → exec (.mtsel f) s = .refused .selectorNumber) ∧ (n = 7 → exec (.mtsel f) s = .next (s.advance 6)) ∧
      (7 < n → n < 16 → exec (.mtsel f) s = .next ((s.putSelector n ⟨sel, none⟩).advance 6)) ∧
      (n < 7 ∨ 16 ≤ n → n ≤ 18 → ∀ d u, s.loadDescriptor sel (decide (16 ≤ n)) = .ok d u →
        exec (.mtsel f) s = .next ((u.putSelector n ⟨sel, some d⟩).advance 6))) ∧
    (s.allows .tlbrw → let a := s.reg f.ra
      ∃ w, w < 4 ∧ (a.getLsbD 15 = false → w = (a.extractLsb' 10 2).toNat) ∧
        let e := (a.extractLsb' 0 10).toNat
        (a.getLsbD 63 = false → exec (.tlbrw f) s = .next (s.result 6 f.rt (s.tlbEntry w e))) ∧
        (a.getLsbD 63 = true →
          exec (.tlbrw f) s = .next ((s.setReg f.rt (s.tlbEntry w e)).setTlbEntry w e b |>.advance 6)))) ∧
  (∀ (s : State) (n : Nat) (r : SegReg), n ≠ 7 → n < 19 →
    ((s.putSelector n r).selector n = if 7 < n ∧ n < 16 then ⟨r.sel, none⟩ else r) ∧
    ∀ k, k < 19 → k ≠ n → (s.putSelector n r).selector k = s.selector k) ∧
  (∀ (s : State) (w e : Nat) (t : Word), sparseWf 0 s.tlb = true → (s.setTlbEntry w e t).tlbEntry w e = t) ∧
  ∀ (f : Fmt.OSR2) (s : State), s.allows .rex → let tm := f.rt.extractLsb' 0 2
    (tm = 3#2 → exec (.rex f) s = .refused .reservedMode) ∧
    (tm ≠ 3#2 → s.om ≤ tm → exec (.rex f) s = s.raise (Instr.ctx (.rex f)) (.plain causePRIV)) ∧
    (tm ≠ 3#2 → tm < s.om → s.csr.ie.getLsbD tm.toNat = false → exec (.rex f) s = .next (s.advance 6)) ∧
    (tm ≠ 3#2 → tm < s.om → s.csr.ie.getLsbD tm.toNat = true → s.pending.tvec = [] →
      let s1 := { s with
        mode := { s.mode with pmStack := s.mode.pmStack.extractLsb' 6 58 ++ tm ++ s.mode.pmStack.extractLsb' 0 4 }
        csr := { s.csr with
          cause := s.csr.cause.set tm.toNat (s.csr.cause.get s.om.toFin)
          badaddr := s.csr.badaddr.set tm.toNat (s.csr.badaddr.get s.om.toFin) } }
      let c := s.csr.tvec.get tm.toFin
      ∀ d u, s1.loadDescriptor c.sel false = .ok d u →
        exec (.rex f) s = .next ((u.putSelector 7 ⟨c.sel, some d⟩).setIp c.off))

/-- PUSHQ, POPQ, PEEKQ, STATQ and RESETQ act on the queue that B[3:0] names (47 R820, 47 R835, 47 R836, 47 R837, 47
R838, 47 R839, 47 R840). The full and the empty queue are log 44. -/
def Obligations.Queues : Prop :=
  ∀ (f : Fmt.OSR2) (s : State),
    (∀ i ∈ [(Instr.pushq f, Config.SysOp.pushq), (.popq f, .popq), (.peekq f, .peekq), (.statq f, .statq),
        (.resetq f, .resetq)],
      s.allows i.2 → (opnd f.tb f.rb).scalar s = none → exec i.1 s = .refused .vectorOperandInScalar) ∧
    ∀ b, (opnd f.tb f.rb).scalar s = some b →
      let q := b.extractLsb' 0 4
      let old := s.queues.get q.toFin
      let width := s.config.qwidth.get q.toFin
      let depth := s.config.qdepth.get q.toFin
      let put := fun l => { s with queues := s.queues.set q.toNat l q.isLt }
      (s.allows .pushq →
        (old.length < depth → ∃ e, exec (.pushq f) s = .next ((put (old ++ [e])).advance 6) ∧
          ∀ i, e.getLsbD i = (decide (i < width) && (s.reg f.ra).getLsbD i)) ∧
        (depth ≤ old.length → ∃ l k, exec (.pushq f) s = .next ({ put l with draw := k }.advance 6) ∧
          l.length ≤ depth ∧ ∀ e ∈ l, ∀ i, width ≤ i → e.getLsbD i = false)) ∧
      (s.allows .popq →
        (∀ e l, old = e :: l → exec (.popq f) s = .next ((put l).result 6 f.rt (e.extractLsb' 0 64))) ∧
        (old = [] → exec (.popq f) s = .next (s.result 6 f.rt (s.free 0)))) ∧
      (s.allows .peekq →
        (∀ e l, old = e :: l → exec (.peekq f) s = .next (s.result 6 f.rt (e.extractLsb' 0 64))) ∧
        (old = [] → exec (.peekq f) s = .next (s.result 6 f.rt (s.free 0)))) ∧
      (s.allows .statq → ∃ w, exec (.statq f) s = .next (s.result 6 f.rt w) ∧ w.getLsbD 63 = old.isEmpty ∧
        w.getLsbD 62 = !old.isEmpty ∧ w.extractLsb' 48 14 = BitVec.ofNat 14 old.length ∧
        ∀ e l, old = e :: l → w.extractLsb' 0 48 = if width ≤ 64 then 0 else e.extractLsb' 64 48) ∧
      (s.allows .resetq → exec (.resetq f) s = .next ((put []).advance 6))

/-- Vector index, compress, scan, slide, bit gather, insert and extract (48 R884, 48 R885, 48 R891, 48 R892, 48 R893, 48
R894, 48 R895, 48 R896). Which B bits VEX and V2BITS use is the spec's own decision D68, D_VSTEP is 48 R884, D67,
the start of a resumed instruction, and which elements VSLLV and VSRLV then write, log 36; which mask fields without
an effect are refused by the check and which are ignored is log 48. -/
def Obligations.VectorSpecials : Prop :=
  ∀ s : State, s.pending.vl = [] →
    (∀ f : Fmt.R1, let left := fun (t : State) (n : Nat) => (∀ r, r ≠ f.rt → ∀ x, t.vec r x = s.vec r x) ∧
        { t with vregs := s.vregs } = s.looped.advance n
      (∃ t, exec (.vcmprss f) s = .next t ∧ left t 4 ∧ ∀ y < 64, t.vec f.rt y =
        if f.rt = 0#6 then 0 else if y < (s.enabledList f.m).length then s.vec f.ra ((s.enabledList f.m)[y]?.getD 0) else s.vec f.rt y) ∧
      (∃ t, exec (.vscan f) s = .next t ∧ left t 4 ∧ ∀ y < 64, t.vec f.rt y =
        if f.rt = 0#6 then 0 else if y ∈ s.loopElements then
        s.reg f.ra * BitVec.ofNat 64 ((s.enabledList f.m).filter fun k => decide (k < y)).length else s.vec f.rt y)) ∧
    ∀ f : Fmt.R3, let left := fun (t : State) (n : Nat) => (∀ r, r ≠ f.rt → ∀ x, t.vec r x = s.vec r x) ∧
        { t with vregs := s.vregs } = s.looped.advance n
      ((opnd f.tb f.rb).scalar s = none →
        ∀ i ∈ [Instr.vgidx f, .v2bits f, .veins f, .vsllv f, .vsrlv f], exec i s = .refused .vectorOperandInScalar) ∧
      (∀ b, (opnd f.tb f.rb).scalar s = some b →
        (∃ t, exec (.vgidx f) s = .next t ∧ left t 6 ∧ ∀ y < 64, t.vec f.rt y =
          if f.rt = 0#6 then 0 else if y < (s.enabledList f.m).length then
          ((s.reg f.ra).extractLsb' 0 24).setWidth 64 * BitVec.ofNat 64 y + b else s.vec f.rt y) ∧
        (∃ t, exec (.vsllv f) s = .next t ∧ left t 6 ∧ ∀ y < 64, t.vec f.rt y =
          if f.rt = 0#6 then 0 else if y ∈ s.loopElements then
          (if b.toNat ≤ y then s.vec f.ra (y - b.toNat) else 0) else s.vec f.rt y) ∧
        (∃ t, exec (.vsrlv f) s = .next t ∧ left t 6 ∧ ∀ y < 64, t.vec f.rt y =
          if f.rt = 0#6 then 0 else if y ∈ s.loopElements then
          (if y + b.toNat < s.vl.toNat then s.vec f.ra (y + b.toNat) else 0) else s.vec f.rt y) ∧
        (∃ w, exec (.v2bits f) s = .next (s.looped.result 6 f.rt w) ∧ ∀ x < 64, w.getLsbD x =
          if x ∈ s.loopElements then
            (if (s.mask f.m).getLsbD x then (s.vec f.ra x).getLsbD (b.toNat % 64)
              else !(decide (f.z = 1#1)) && (s.reg f.rt).getLsbD x)
          else (s.reg f.rt).getLsbD x) ∧
        ((s.reg f.ra).toNat < s.config.vlmax →
          exec (.veins f) s = .next ((s.setVec f.rt (s.reg f.ra).toNat b).advance 6)) ∧
        (s.config.vlmax ≤ (s.reg f.ra).toNat → exec (.veins f) s = .refused .elementIndex)) ∧
      (f.tb = 0#2 ∨ f.tb = 1#2 →
        ((s.reg f.ra).toNat < s.config.vlmax →
          exec (.vex f) s = .next (s.result 6 f.rt (s.vec f.rb (s.reg f.ra).toNat))) ∧
        (s.config.vlmax ≤ (s.reg f.ra).toNat → exec (.vex f) s = .refused .elementIndex)) ∧
      (f.tb = 2#2 ∨ f.tb = 3#2 → exec (.vex f) s = .refused .immediateVectorOperand)

/-- Mask register instructions and MTVL and MFVL (48 R897, 48 R898, 48 R899, 48 R900, 48 R905 to R909, 48 R913, 48 R914,
48 R915, 48 R916, 48 R917, 48 R918). That bit 19 of VMSLL and VMSRL is the top bit of the amount is log 51. -/
def Obligations.Masks : Prop :=
  (∀ (f : Fmt.VM) (s : State),
    let ra : RegNum := f.hi ++ f.mid
    let rt : RegNum := f.mid ++ f.lo
    let a := s.mask f.mid
    let b := s.mask f.hi
    exec (.mtvm f) s = .next ((s.setMask f.lo (s.reg ra)).advance 4) ∧ exec (.mfvm f) s = .next (s.result 4 rt b) ∧
    (s.config.vlmax < (s.reg ra).toNat → exec (.mtvl f) s = .refused .vectorLengthTooLarge) ∧
    ((s.reg ra).toNat ≤ s.config.vlmax → ∃ p, exec (.mtvl f) s =
      .next ({ s with vl := (s.reg ra).extractLsb' 0 8, pending := { s.pending with vl := p } }.advance 4)) ∧
    (s.pending.vl = [] → exec (.mfvl f) s = .next (s.result 4 rt (s.vl.setWidth 64))) ∧
    exec (.vmadd f) s = .next ((s.setMask f.lo (a + b)).advance 4) ∧
    exec (.vmsub f) s = .next ((s.setMask f.lo (a - b)).advance 4) ∧
    exec (.vmand f) s = .next ((s.setMask f.lo (a &&& b)).advance 4) ∧
    exec (.vmor f) s = .next ((s.setMask f.lo (a ||| b)).advance 4) ∧
    exec (.vmxor f) s = .next ((s.setMask f.lo (a ^^^ b)).advance 4) ∧
    exec (.vmcntpop f) s = .next (s.result 4 rt (BitVec.ofNat 64 ((List.range 64).filter fun i => b.getLsbD i).length)) ∧
    (b = 0 → exec (.vmfirst f) s = .next (s.result 4 rt 65536) ∧ exec (.vmlast f) s = .next (s.result 4 rt 65536)) ∧
    ∀ i, b.getLsbD i = true →
      ((∀ j < i, b.getLsbD j = false) → exec (.vmfirst f) s = .next (s.result 4 rt (BitVec.ofNat 64 i))) ∧
      ((∀ j, i < j → b.getLsbD j = false) → exec (.vmlast f) s = .next (s.result 4 rt (BitVec.ofNat 64 i)))) ∧
  (∀ (f : Fmt.VMS) (s : State),
    exec (.vmsll f) s = .next ((s.setMask f.lo (s.mask f.mid <<< f.amount.toNat)).advance 4) ∧
    exec (.vmsrl f) s = .next ((s.setMask f.lo (s.mask f.mid >>> f.amount.toNat)).advance 4)) ∧
  (∀ (f : Fmt.VMF) (s : State), ∃ w, exec (.vmfill f) s = .next ((s.setMask f.vmt w).advance 4) ∧
    (f.mb ≤ f.me → ∀ i < 64, w.getLsbD i = (decide (f.mb.toNat ≤ i) && decide (i ≤ f.me.toNat))) ∧
    (f.me < f.mb → w = s.free 0)) ∧
  ∀ (s : State) (n k : BitVec 3) (w : Word), (s.setMask n w).mask k = if n = k then w else s.mask k

/-- Cryptographic functions and colour blending compute their rule (49 R930 to R940, 49 R975, 48 R880). Four of the
functions and BLEND's arithmetic are the spec's own decisions D70 and D75; that the vector form starts at D_VSTEP
and leaves it 0 is 48 R884, the spec's own decision D67. -/
def Obligations.CryptoAndBlend : Prop :=
  ((∀ f : Fmt.R3, Computes (.aes64ds f) (operandsR3 f) (fun _ a b _ => Config.aes64ds a b)) ∧
  (∀ f : Fmt.R3, Computes (.aes64dsm f) (operandsR3 f) (fun _ a b _ => Config.aes64dsm a b)) ∧
  (∀ f : Fmt.R3, Computes (.aes64es f) (operandsR3 f) (fun _ a b _ => Config.aes64es a b)) ∧
  (∀ f : Fmt.R3, Computes (.aes64esm f) (operandsR3 f) (fun _ a b _ => Config.aes64esm a b)) ∧
  (∀ f : Fmt.R1, Computes (.sha256sig0 f) (operandsR1 f) (fun _ a _ _ => low32 (fun w => ror32 w 7 ^^^ ror32 w 18 ^^^ w >>> 3) a)) ∧
  (∀ f : Fmt.R1, Computes (.sha256sig1 f) (operandsR1 f) (fun _ a _ _ => low32 (fun w => ror32 w 17 ^^^ ror32 w 19 ^^^ w >>> 10) a)) ∧
  (∀ f : Fmt.R1, Computes (.sha256sum0 f) (operandsR1 f) (fun _ a _ _ => low32 (fun w => ror32 w 2 ^^^ ror32 w 13 ^^^ ror32 w 22) a)) ∧
  (∀ f : Fmt.R1, Computes (.sha256sum1 f) (operandsR1 f) (fun _ a _ _ => low32 (fun w => ror32 w 6 ^^^ ror32 w 11 ^^^ ror32 w 25) a)) ∧
  (∀ f : Fmt.R1, Computes (.sha512sig0 f) (operandsR1 f) (fun _ a _ _ => a.rotateRight 1 ^^^ a.rotateRight 8 ^^^ a >>> 7)) ∧
  (∀ f : Fmt.R1, Computes (.sha512sig1 f) (operandsR1 f) (fun _ a _ _ => a.rotateRight 19 ^^^ a.rotateRight 61 ^^^ a >>> 6)) ∧
  (∀ f : Fmt.R1, Computes (.sha512sum0 f) (operandsR1 f) (fun _ a _ _ => a.rotateRight 28 ^^^ a.rotateRight 34 ^^^ a.rotateRight 39)) ∧
  (∀ f : Fmt.R1, Computes (.sha512sum1 f) (operandsR1 f) (fun _ a _ _ => a.rotateRight 14 ^^^ a.rotateRight 18 ^^^ a.rotateRight 41)) ∧
  (∀ f : Fmt.R1, Computes (.sm3p0 f) (operandsR1 f) (fun _ a _ _ => low32 (fun w => w ^^^ rol32 w 9 ^^^ rol32 w 17) a)) ∧
  (∀ f : Fmt.R1, Computes (.sm3p1 f) (operandsR1 f) (fun _ a _ _ => low32 (fun w => w ^^^ rol32 w 15 ^^^ rol32 w 23) a)) ∧
  (∀ f : Fmt.R3P, Computes (.sm4ed f) (operandsR3P f) (fun _ a b c => Config.sm4ed a b c)) ∧
  (∀ f : Fmt.R3P, Computes (.sm4ks f) (operandsR3P f) (fun _ a b c => Config.sm4ks a b c)) ∧
  (∀ f : Fmt.R3P, Computes (.blend f) (operandsR3P f) (fun _ a b c => blendColors a b c))) ∧
  (∀ (g : BitVec 32 → BitVec 32) (a : Word), (∀ i < 32, (low32 g a).getLsbD i = (g (a.setWidth 32)).getLsbD i) ∧
    ∀ i, 32 ≤ i → i < 64 → (low32 g a).getLsbD i = (g (a.setWidth 32)).getLsbD 31) ∧
  (∀ (w : BitVec 32) (n i : Nat), i < 32 → (ror32 w n).getLsbD i = w.getLsbD ((i + n) % 32) ∧
    (rol32 w n).getLsbD ((i + n) % 32) = w.getLsbD i) ∧
  (∀ (a : Word) (n i : Nat), i < 64 → (a.rotateRight n).getLsbD i = a.getLsbD ((i + n) % 64))

/-- The neural network and graphics instructions, and the steps of the two engines (49 R950 to R954, 49 R955, 49 R956,
49 R957, 49 R958, 49 R959, 49 R960, 49 R970, 49 R972, 49 R973, 49 R976 to R978, 93 U30). Widths, completion,
register numbers, the point layout and the exchange are the spec's own decisions D72, D73, D74, D76 and D77; when an
evaluation ends is the model's schedule (logs 5, 25), the products and the sum log 46. -/
def Obligations.Accelerators : Prop :=
  (∀ (f : Fmt.R1) (s : State), let a := s.reg f.ra
    (f.v = 1#1 → ∀ i ∈ [Instr.nnaTrig f, .nnaStat f, .nnaMfact f, .clip f, .transform f],
      exec i s = .refused .vectorFormRefused) ∧
    (f.v = 0#1 →
      let bounded := ∀ n : Fin 8, a.getLsbD n = true →
        (s.nna.get n).max.toNat ≤ 1023 ∧ (s.nna.get n).base.toNat ≤ (s.nna.get n).max.toNat
      (bounded → ∃ t, exec (.nnaTrig f) s = .next t ∧ { t with nna := s.nna } = s.advance 4 ∧
        ∀ n : Fin 8, t.nna.get n =
          if a.getLsbD n then { s.nna.get n with done := false, running := true } else s.nna.get n) ∧
      (¬ bounded → exec (.nnaTrig f) s = .refused .neuronBounds) ∧
      (∃ w, exec (.nnaStat f) s = .next (s.result 4 f.rt w) ∧ w.extractLsb' 8 56 = 0 ∧
        ∀ n : Fin 8, w.getLsbD n = (s.nna.get n).done) ∧
      (a.getLsbD 3 = false →
        exec (.nnaMfact f) s = .next (s.result 4 f.rt (sext (s.nna.get (a.extractLsb' 0 3).toFin).act))) ∧
      (a.getLsbD 3 = true → exec (.nnaMfact f) s = .refused .neuronNumber) ∧
      (let x := a.extractLsb' 0 32
       let y := a.extractLsb' 32 32
       let reg := fun k => ((s.greg k).extractLsb' 0 32 : BitVec 32).toInt
       let inside := fun l r t b => reg l ≤ x.toInt ∧ x.toInt ≤ reg r ∧ reg t ≤ y.toInt ∧ y.toInt ≤ reg b
       exec (.clip f) s = .next (s.result 4 f.rt
        (if ¬ inside 44 46 45 47 ∨ (s.greg 0).getLsbD 5 = true ∧ ¬ inside 29 31 30 32 then 1 else 0))) ∧
      (s.gfx.cmd = 0#1 → exec (.transform f) s = .next (s.result 4 f.rt a)) ∧
      (s.gfx.cmd = 1#1 → exec (.transform f) s = .next (s.result 4 f.rt
        (Config.gfxTransform ((List.range 12).map fun k => s.greg (17 + k)) a))))) ∧
  (∀ (f : Fmt.R3) (s : State),
    (f.v = 1#1 → ∀ i ∈ [Instr.nnaMtwt f, .nnaMtin f, .nnaMtbias f, .nnaMtfb f, .nnaMtmc f, .nnaMtbc f, .rwCoeff f],
      exec i s = .refused .vectorFormRefused) ∧
    (f.v = 0#1 → ∀ b, (opnd f.tb f.rb).scalar s = some b → let a := s.reg f.ra
      let i := b.extractLsb' 0 16
      let neurons := fun (t : State) (sel : BitVec 8) (g : Neuron → Neuron) =>
        ∀ n : Fin 8, t.nna.get n = if sel.getLsbD n then g (s.nna.get n) else s.nna.get n
      (1023 < i.toNat → ∀ j ∈ [Instr.nnaMtwt f, .nnaMtin f], exec j s = .refused .neuronArrayIndex) ∧
      (i.toNat ≤ 1023 →
        (∃ t, exec (.nnaMtwt f) s = .next t ∧ { t with nna := s.nna } = s.result 6 f.rt (b.extractLsb' 16 48 ++ (i + 1)) ∧
          neurons t (b.extractLsb' 32 8) fun x => { x with weights := sparseSet 0 x.weights i.toNat (a.extractLsb' 0 32) }) ∧
        (∃ t, exec (.nnaMtin f) s = .next t ∧ { t with nna := s.nna } = s.result 6 f.rt (b.extractLsb' 16 48 ++ (i + 1)) ∧
          neurons t (b.extractLsb' 32 8) fun x => { x with inputs := sparseSet 0 x.inputs i.toNat (a.extractLsb' 0 32) })) ∧
      (∃ t, exec (.nnaMtbias f) s = .next t ∧ { t with nna := s.nna } = s.advance 6 ∧
        neurons t (b.extractLsb' 0 8) fun x => { x with bias := a.extractLsb' 0 32 }) ∧
      (∃ t, exec (.nnaMtfb f) s = .next t ∧ { t with nna := s.nna } = s.advance 6 ∧
        neurons t (b.extractLsb' 0 8) fun x => { x with feedback := a.extractLsb' 0 32 }) ∧
      (∃ t, exec (.nnaMtmc f) s = .next t ∧ { t with nna := s.nna } = s.advance 6 ∧
        neurons t (b.extractLsb' 0 8) fun x => { x with max := a.extractLsb' 0 16 }) ∧
      (∃ t, exec (.nnaMtbc f) s = .next t ∧ { t with nna := s.nna } = s.advance 6 ∧
        neurons t (b.extractLsb' 0 8) fun x => { x with base := a.extractLsb' 0 16 }) ∧
      (a.toNat < 12 → exec (.rwCoeff f) s = .next ((s.setGreg (17 + a.toNat) ((b.extractLsb' 0 32).setWidth 40)).result 6
        f.rt (sext ((s.greg (17 + a.toNat)).extractLsb' 0 32)))) ∧
      (a.toNat = 12 → exec (.rwCoeff f) s = .next ({ s with gfx := { s.gfx with cmd := b.extractLsb' 0 1 } }.result 6 f.rt
        (s.gfx.cmd.setWidth 64))) ∧
      (12 < a.toNat → exec (.rwCoeff f) s = .refused .coefficientNumber))) ∧
  (∀ (s : State) (n : BitVec 3) (rest : List Event), s.env = .neuronDone n :: rest → let x := s.nna.get n.toFin
    (x.running = false → step s = .next { s with env := rest }) ∧
    (x.running = true → x.max.toNat ≤ 1023 → x.base.toNat ≤ x.max.toNat →
      let entries := fun l => (List.range (x.max.toNat + 1 - x.base.toNat)).map fun k => sparseGet 0#32 l (x.base.toNat + k)
      let y : Neuron := { x with
        act := nnaEval (entries x.weights) (entries x.inputs) x.bias x.feedback x.act
        done := true
        running := false }
      step s = .next { s with env := rest, nna := s.nna.set n.toNat y n.isLt })) ∧
  (∀ (s : State) (e : BitVec 112) (l : List (BitVec 112)) (rest : List Event), s.env = .graphics :: rest →
    s.queues.get 0 = e :: l →
    let n := (e.extractLsb' 56 8).toNat
    let s1 := { s with env := rest, queues := s.queues.set 0 l }
    (50 < n → step s = .next s1) ∧ (0 < n → n ≤ 50 → step s = .next (s1.setGreg n (e.extractLsb' 0 40))) ∧
    (n = 0 → let old := s.greg 0
      let low := e.extractLsb' 0 30
      let field := match (e.extractLsb' 30 2).toNat with
        | 0 => low
        | 1 => old.extractLsb' 0 30
        | 2 => old.extractLsb' 0 30 &&& ~~~low
        | _ => old.extractLsb' 0 30 ||| low
      let draws := ∃ i ∈ [0, 7, 8, 9, 10, 11, 18, 19], field.getLsbD i = true
      (draws → step s = .refused .graphicsDrawing) ∧
      (¬ draws → step s = .next (s1.setGreg 0 (old.extractLsb' 30 10 ++ field))))) ∧
  (∀ (s : State) (rest : List Event), s.env = .graphics :: rest → s.queues.get 0 = [] →
    step s = .next { s with env := rest }) ∧
  (∀ (s : State) (n : Nat) (w : BitVec 40), n < 64 → (s.setGreg n w).greg n = w ∧
    ∀ k, k ≠ n → (s.setGreg n w).greg k = s.greg k) ∧
  (∀ (f : Fmt.R3) (s : State), f.v = 0#1 → (opnd f.tb f.rb).scalar s = none →
    ∀ i ∈ [Instr.nnaMtwt f, .nnaMtin f, .nnaMtbias f, .nnaMtfb f, .nnaMtmc f, .nnaMtbc f, .rwCoeff f],
      exec i s = .refused .vectorOperandInScalar) ∧
  (∀ a b : BitVec 32, let p := a.toInt * b.toInt
    (p % 65536 = 0 → nnaProduct a b * 65536 = p) ∧ (nnaProduct a b * 65536 - p).natAbs < 65536) ∧
  ∀ (ws xs : List (BitVec 32)) (bias feedback act : BitVec 32),
    let terms := bias.toInt :: nnaProduct feedback act :: List.zipWith nnaProduct ws xs
    (terms.filter fun t => 0 < t).sum < 2 ^ 31 → -2 ^ 31 ≤ (terms.filter fun t => t < 0).sum →
      nnaEval ws xs bias feedback act = Config.nnaActivation (BitVec.ofInt 32 terms.sum)

/-- Clocks, inputs, bus writes, the trace unit and the reset line between instructions (10 R69, 10 R95, 10 R96, 10 R124,
20 R220, 60 R1030, 60 R1032, 60 R1041, 60 R1052, 70 R1080). The model's choices are the schedule of the moves (log
5), clocks added event by event and a TIME low half that beyond its bound wraps only at 2^32 (log 8), the input
events (log 26), one byte a bus write and no effect where no memory answers (log 39), the reset line (log 33), old
bytes and old keys (logs 11, 12) and the trace records, pushed whole (log 24); M_TICK and TIME are the spec's own
decisions D16 and D17. -/
def Obligations.OtherAgents : Prop :=
  ∀ (s : State) (e : Event) (rest : List Event), s.env = e :: rest →
    let u := { s with env := rest }
    (∀ n, e = .clocks n → step s = .next { u with csr := { s.csr with tick := s.csr.tick + BitVec.ofNat 64 n } }) ∧
    (e = .tmTick → ∃ w : Word, step s = .next { u with csr := { s.csr with time := w } } ∧
      let low := s.csr.time.extractLsb' 0 32 + 1
      (low.toNat = s.config.tmClkHz → w.extractLsb' 0 32 = 0 ∧
        w.extractLsb' 32 32 = s.csr.time.extractLsb' 32 32 + 1) ∧
      (low.toNat ≠ s.config.tmClkHz → w.extractLsb' 0 32 = low ∧ w.extractLsb' 32 32 = s.csr.time.extractLsb' 32 32)) ∧
    (∀ level cause, e = .irq level cause →
      step s = .next { u with inputs := { s.inputs with irqLevel := level, irqCause := cause } }) ∧
    (e = .nmi → step s = .next { u with inputs := { s.inputs with nmi := true } }) ∧
    (∀ w, e = .seed w → step s = .next { u with inputs := { s.inputs with seed := w } }) ∧
    (∀ a b, e = .busWrite a b → a < 2 ^ 64 →
      (platformKind s.config.platformMap a ≠ .memory → step s = .next u) ∧
      (platformKind s.config.platformMap a = .memory → Memory.wf s.mem = true → ∃ t, step s = .next t ∧
        { t with mem := s.mem, stale := s.stale, rewritten := s.rewritten } = u ∧ Memory.read t.mem a = b ∧
        ∀ k, k ≠ a → Memory.read t.mem k = Memory.read s.mem k)) ∧
    (∀ r, e = .trace r → let q := s.queues.get 15
      let ok := r.extractLsb' 0 2 = 0#2 ∨ r.extractLsb' 0 2 = 1#2 ∧ (r.extractLsb' 2 7).toNat ≤ 103
      (s.mode.tracing = false ∨ ¬ ok → step s = .next u) ∧
      (s.mode.tracing = true → ok → q.length < s.config.qdepth.get 15 →
        step s = .next { u with
          queues := s.queues.set 15 (q ++ [r])
          mode := { s.mode with tracing := decide (q.length + 1 < s.config.qdepth.get 15) } }) ∧
      (s.mode.tracing = true → ok → s.config.qdepth.get 15 ≤ q.length →
        step s = .next { u with mode := { s.mode with tracing := false } })) ∧
    (e = .reset → ∃ t, step s = .next t ∧ t.mem = s.mem ∧ t.inputs = s.inputs ∧ t.config = s.config ∧ t.env = rest ∧
      { t with mem := State.reset.mem, inputs := State.reset.inputs, config := State.reset.config,
               env := State.reset.env, era := State.reset.era, draw := State.reset.draw } = State.reset)

/-- An immediate prefix joins its bits to the instruction after it, and the two run as one (30 R262, 30 R263, 30 R264,
30 R265, 30 R266, 30 R267, 60 R1011, 60 R1015). The prefix and its instruction as one unit are the spec's own
decision D80, the other followers log 28; that M_BAD_INSTR is the second instruction, also an undefined one, and
unspecified after a failed second fetch is the model's choice, log 22; that the vector form starts at D_VSTEP and
leaves it 0 is 48 R884, D67; that a prefixed WYDENDXI and UTF21NDXI ignore the upper bits of the built immediate is log
54. -/
def Obligations.Prefixes : Prop :=
  (∀ f : Fmt.EXI7, PrefixesWith (.exi7 f) 2 f.imm) ∧ (∀ f : Fmt.EXI23, PrefixesWith (.exi23 f) 4 f.imm) ∧
  (∀ f : Fmt.EXI41, PrefixesWith (.exi41 f) 6 (f.immHi ++ f.immLo)) ∧ ∀ f : Fmt.EXI55, PrefixesWith (.exi55 f) 8 f.imm

/-- Until its barrier a use of VL, of a half of TVEC or of a selector gets an old value or the new one, and nothing
else; a fetch uses CS once (70 R1090, 70 R1091, 70 R1092, 70 R1093, 47 R831, 47 R848, 10 R102). The old or the new
value is the spec's own decision D86 and log 10; that a whole instruction fetch is one use of CS is log 10. -/
def Obligations.Hazards : Prop :=
  (∀ (f : Fmt.VM) (s : State), (s.reg (f.hi ++ f.mid)).toNat ≤ s.config.vlmax →
    s.vl ≠ (s.reg (f.hi ++ f.mid)).extractLsb' 0 8 → ∃ t, exec (.mtvl f) s = .next t ∧
      t.vl = (s.reg (f.hi ++ f.mid)).extractLsb' 0 8 ∧ s.vl ∈ t.pending.vl ∧ ∀ n ∈ t.pending.vl, n = s.vl ∨ n ∈ s.pending.vl) ∧
  (∀ s : State, (s.useVl.1 = s.vl ∨ s.useVl.1 ∈ s.pending.vl) ∧ { s.useVl.2 with draw := s.draw } = s ∧
    (s.pending.vl = [] → s.useVl = (s.vl, s))) ∧
  (∀ (s : State) (n : BitVec 2), let c := s.csr.tvec.get n.toFin
    let low := fun (w : Word) => w = c.off ∨ (n ++ 0#1, w) ∈ s.pending.tvec
    let high := fun (w : Word) => w = c.sel.setWidth 64 ∨ (n ++ 1#1, w) ∈ s.pending.tvec
    low (s.csrRead (.tvecLow n)).1 ∧ { (s.csrRead (.tvecLow n)).2 with draw := s.draw } = s ∧
    high (s.csrRead (.tvecHigh n)).1 ∧ { (s.csrRead (.tvecHigh n)).2 with draw := s.draw } = s ∧
    low (s.useTvec n).1.off ∧ (∃ w, high w ∧ (s.useTvec n).1.sel = w.setWidth 32) ∧
    { (s.useTvec n).2 with draw := s.draw } = s ∧ (s.pending.tvec = [] → s.useTvec n = (c, s)) ∧
    (n = 3#2 → ∀ t v, s.takeTrap t = .ok () v → ∃ off w, low off ∧ high w ∧
      v.codeAddr 7 = vectorOf ⟨off, w.setWidth 32⟩ s.om)) ∧
  (∀ (s t : State) (n : BitVec 2) (w : Word), let c := s.csr.tvec.get n.toFin
    (s.csrWrite (.tvecLow n) w = .ok () t → (∀ e ∈ s.pending.tvec, e ∈ t.pending.tvec) ∧
      (∀ e ∈ t.pending.tvec, e ∈ s.pending.tvec ∨ e = (n ++ 0#1, c.off)) ∧
      (c.off ≠ w → (n ++ 0#1, c.off) ∈ t.pending.tvec)) ∧
    (s.csrWrite (.tvecHigh n) w = .ok () t → (∀ e ∈ s.pending.tvec, e ∈ t.pending.tvec) ∧
      (∀ e ∈ t.pending.tvec, e ∈ s.pending.tvec ∨ e = (n ++ 1#1, c.sel.setWidth 64)) ∧
      (c.sel ≠ w.setWidth 32 → (n ++ 1#1, c.sel.setWidth 64) ∈ t.pending.tvec))) ∧
  (∀ s : State, s.beginFetch.fetching.marks = [] ∧ { s.beginFetch with draw := s.draw, fetching := s.fetching } = s ∧
    (s.beginFetch.fetching.cs = s.selector 7 ∨ (7, s.beginFetch.fetching.cs) ∈ s.pending.sel) ∧
    ∀ va bs u, s.fetchInstruction va = .ok bs u → u.fetching.cs = s.fetching.cs) ∧
  (∀ (s : State) (n : Nat), ((s.useSelector n).1 = s.selector n ∨ (n, (s.useSelector n).1) ∈ s.pending.sel) ∧
    { (s.useSelector n).2 with draw := s.draw } = s ∧ (s.pending.sel = [] → s.useSelector n = (s.selector n, s))) ∧
  (∀ (s : State) (n : Nat) (r : SegReg), s.selector n ≠ r → (n, s.selector n) ∈ (s.putSelector n r).pending.sel) ∧
  ∀ (f : Fmt.S16) (s t : State), (exec (.sync f) s = .next t → t.pending.vl = [] ∧ t.pending.tvec = []) ∧
    (exec (.memsb f) s = .next t → t.pending.sel = [])

/-- A system instruction that MACHINE_ONLY names takes PRIV below machine mode (47 R821, 92 MACHINE_ONLY). That the
platform chooses is the spec's own decision D64. -/
def Obligations.MachineOnly : Prop :=
  ∀ s : State, s.om ≠ 3#2 →
    (∀ f : Fmt.OSR2, (.mtsel ∈ s.config.machineOnly → exec (.mtsel f) s = s.raise (Instr.ctx (.mtsel f)) (.plain causePRIV)) ∧
      (.mfsel ∈ s.config.machineOnly → exec (.mfsel f) s = s.raise (Instr.ctx (.mfsel f)) (.plain causePRIV)) ∧
      (.tlbrw ∈ s.config.machineOnly → exec (.tlbrw f) s = s.raise (Instr.ctx (.tlbrw f)) (.plain causePRIV)) ∧
      (.pushq ∈ s.config.machineOnly → exec (.pushq f) s = s.raise (Instr.ctx (.pushq f)) (.plain causePRIV)) ∧
      (.popq ∈ s.config.machineOnly → exec (.popq f) s = s.raise (Instr.ctx (.popq f)) (.plain causePRIV)) ∧
      (.peekq ∈ s.config.machineOnly → exec (.peekq f) s = s.raise (Instr.ctx (.peekq f)) (.plain causePRIV)) ∧
      (.statq ∈ s.config.machineOnly → exec (.statq f) s = s.raise (Instr.ctx (.statq f)) (.plain causePRIV)) ∧
      (.resetq ∈ s.config.machineOnly → exec (.resetq f) s = s.raise (Instr.ctx (.resetq f)) (.plain causePRIV)) ∧
      (.di ∈ s.config.machineOnly → exec (.di f) s = s.raise (Instr.ctx (.di f)) (.plain causePRIV)) ∧
      (.rex ∈ s.config.machineOnly → exec (.rex f) s = s.raise (Instr.ctx (.rex f)) (.plain causePRIV)) ∧
      (.pfi ∈ s.config.machineOnly → exec (.pfi f) s = s.raise (Instr.ctx (.pfi f)) (.plain causePRIV))) ∧
    (∀ f : Fmt.LSD, .cache ∈ s.config.machineOnly → exec (.cache f) s = s.raise (Instr.ctx (.cache f)) (.plain causePRIV)) ∧
    (∀ f : Fmt.LSX, .cachex ∈ s.config.machineOnly → exec (.cachex f) s = s.raise (Instr.ctx (.cachex f)) (.plain causePRIV)) ∧
    ∀ f : Fmt.S16, .wfi ∈ s.config.machineOnly → exec (.wfi f) s = s.raise (Instr.ctx (.wfi f)) (.plain causePRIV)
end

