-- ==== Sys2Proof/Laws/State.lean ====
section
/-! SUPPORT. One lemma per field of State for each update of State: what the update leaves as it was, and what it
writes. -/

namespace Sys2Proof.Machine

/-- A vector read after one place is set. -/
theorem vector_get_set {α : Type} {n : Nat} (v : Vector α n) (i : Nat) (h : i < n) (x : α) (j : Fin n) :
    (v.set i x h).get j = if i = j.val then x else v.get j := by
  have e : ∀ (u : Vector α n), u.get j = u[j.val] := fun _ => rfl
  rw [e, e, Vector.getElem_set]

/-- Two bit vectors are equal when their numbers are. -/
theorem toNat_inj_iff {n : Nat} (a b : BitVec n) : a.toNat = b.toNat ↔ a = b :=
  ⟨BitVec.eq_of_toNat_eq, fun h => h ▸ rfl⟩

namespace State

variable (s : State)

/-! #### setCodeAddr -/

@[simp] theorem setCodeAddr_regs (n : BitVec 3) (c : CodeAddr) : (s.setCodeAddr n c).regs = s.regs := rfl
@[simp] theorem setCodeAddr_lc (n : BitVec 3) (c : CodeAddr) : (s.setCodeAddr n c).lc = s.lc := rfl
@[simp] theorem setCodeAddr_csDesc (n : BitVec 3) (c : CodeAddr) : (s.setCodeAddr n c).csDesc = s.csDesc := rfl
@[simp] theorem setCodeAddr_segs (n : BitVec 3) (c : CodeAddr) : (s.setCodeAddr n c).segs = s.segs := rfl
@[simp] theorem setCodeAddr_pma (n : BitVec 3) (c : CodeAddr) : (s.setCodeAddr n c).pma = s.pma := rfl
@[simp] theorem setCodeAddr_sys (n : BitVec 3) (c : CodeAddr) : (s.setCodeAddr n c).sys = s.sys := rfl
@[simp] theorem setCodeAddr_vregs (n : BitVec 3) (c : CodeAddr) : (s.setCodeAddr n c).vregs = s.vregs := rfl
@[simp] theorem setCodeAddr_masks (n : BitVec 3) (c : CodeAddr) : (s.setCodeAddr n c).masks = s.masks := rfl
@[simp] theorem setCodeAddr_vl (n : BitVec 3) (c : CodeAddr) : (s.setCodeAddr n c).vl = s.vl := rfl
@[simp] theorem setCodeAddr_mode (n : BitVec 3) (c : CodeAddr) : (s.setCodeAddr n c).mode = s.mode := rfl
@[simp] theorem setCodeAddr_csr (n : BitVec 3) (c : CodeAddr) : (s.setCodeAddr n c).csr = s.csr := rfl
@[simp] theorem setCodeAddr_resv (n : BitVec 3) (c : CodeAddr) : (s.setCodeAddr n c).resv = s.resv := rfl
@[simp] theorem setCodeAddr_sema (n : BitVec 3) (c : CodeAddr) : (s.setCodeAddr n c).sema = s.sema := rfl
@[simp] theorem setCodeAddr_tlb (n : BitVec 3) (c : CodeAddr) : (s.setCodeAddr n c).tlb = s.tlb := rfl
@[simp] theorem setCodeAddr_keyCache (n : BitVec 3) (c : CodeAddr) : (s.setCodeAddr n c).keyCache = s.keyCache := rfl
@[simp] theorem setCodeAddr_rewritten (n : BitVec 3) (c : CodeAddr) : (s.setCodeAddr n c).rewritten = s.rewritten := rfl
@[simp] theorem setCodeAddr_queues (n : BitVec 3) (c : CodeAddr) : (s.setCodeAddr n c).queues = s.queues := rfl
@[simp] theorem setCodeAddr_nna (n : BitVec 3) (c : CodeAddr) : (s.setCodeAddr n c).nna = s.nna := rfl
@[simp] theorem setCodeAddr_gfx (n : BitVec 3) (c : CodeAddr) : (s.setCodeAddr n c).gfx = s.gfx := rfl
@[simp] theorem setCodeAddr_mem (n : BitVec 3) (c : CodeAddr) : (s.setCodeAddr n c).mem = s.mem := rfl
@[simp] theorem setCodeAddr_stale (n : BitVec 3) (c : CodeAddr) : (s.setCodeAddr n c).stale = s.stale := rfl
@[simp] theorem setCodeAddr_pending (n : BitVec 3) (c : CodeAddr) : (s.setCodeAddr n c).pending = s.pending := rfl
@[simp] theorem setCodeAddr_fetching (n : BitVec 3) (c : CodeAddr) : (s.setCodeAddr n c).fetching = s.fetching := rfl
@[simp] theorem setCodeAddr_inputs (n : BitVec 3) (c : CodeAddr) : (s.setCodeAddr n c).inputs = s.inputs := rfl
@[simp] theorem setCodeAddr_env (n : BitVec 3) (c : CodeAddr) : (s.setCodeAddr n c).env = s.env := rfl
@[simp] theorem setCodeAddr_era (n : BitVec 3) (c : CodeAddr) : (s.setCodeAddr n c).era = s.era := rfl
@[simp] theorem setCodeAddr_draw (n : BitVec 3) (c : CodeAddr) : (s.setCodeAddr n c).draw = s.draw := rfl
@[simp] theorem setCodeAddr_config (n : BitVec 3) (c : CodeAddr) : (s.setCodeAddr n c).config = s.config := rfl

/-! #### setIp -/

@[simp] theorem setIp_regs (a : Word) : (s.setIp a).regs = s.regs := rfl
@[simp] theorem setIp_lc (a : Word) : (s.setIp a).lc = s.lc := rfl
@[simp] theorem setIp_csDesc (a : Word) : (s.setIp a).csDesc = s.csDesc := rfl
@[simp] theorem setIp_segs (a : Word) : (s.setIp a).segs = s.segs := rfl
@[simp] theorem setIp_pma (a : Word) : (s.setIp a).pma = s.pma := rfl
@[simp] theorem setIp_sys (a : Word) : (s.setIp a).sys = s.sys := rfl
@[simp] theorem setIp_vregs (a : Word) : (s.setIp a).vregs = s.vregs := rfl
@[simp] theorem setIp_masks (a : Word) : (s.setIp a).masks = s.masks := rfl
@[simp] theorem setIp_vl (a : Word) : (s.setIp a).vl = s.vl := rfl
@[simp] theorem setIp_mode (a : Word) : (s.setIp a).mode = s.mode := rfl
@[simp] theorem setIp_csr (a : Word) : (s.setIp a).csr = s.csr := rfl
@[simp] theorem setIp_resv (a : Word) : (s.setIp a).resv = s.resv := rfl
@[simp] theorem setIp_sema (a : Word) : (s.setIp a).sema = s.sema := rfl
@[simp] theorem setIp_tlb (a : Word) : (s.setIp a).tlb = s.tlb := rfl
@[simp] theorem setIp_keyCache (a : Word) : (s.setIp a).keyCache = s.keyCache := rfl
@[simp] theorem setIp_rewritten (a : Word) : (s.setIp a).rewritten = s.rewritten := rfl
@[simp] theorem setIp_queues (a : Word) : (s.setIp a).queues = s.queues := rfl
@[simp] theorem setIp_nna (a : Word) : (s.setIp a).nna = s.nna := rfl
@[simp] theorem setIp_gfx (a : Word) : (s.setIp a).gfx = s.gfx := rfl
@[simp] theorem setIp_mem (a : Word) : (s.setIp a).mem = s.mem := rfl
@[simp] theorem setIp_stale (a : Word) : (s.setIp a).stale = s.stale := rfl
@[simp] theorem setIp_pending (a : Word) : (s.setIp a).pending = s.pending := rfl
@[simp] theorem setIp_fetching (a : Word) : (s.setIp a).fetching = s.fetching := rfl
@[simp] theorem setIp_inputs (a : Word) : (s.setIp a).inputs = s.inputs := rfl
@[simp] theorem setIp_env (a : Word) : (s.setIp a).env = s.env := rfl
@[simp] theorem setIp_era (a : Word) : (s.setIp a).era = s.era := rfl
@[simp] theorem setIp_draw (a : Word) : (s.setIp a).draw = s.draw := rfl
@[simp] theorem setIp_config (a : Word) : (s.setIp a).config = s.config := rfl

/-! #### advance -/

@[simp] theorem advance_regs (n : Nat) : (s.advance n).regs = s.regs := rfl
@[simp] theorem advance_lc (n : Nat) : (s.advance n).lc = s.lc := rfl
@[simp] theorem advance_csDesc (n : Nat) : (s.advance n).csDesc = s.csDesc := rfl
@[simp] theorem advance_segs (n : Nat) : (s.advance n).segs = s.segs := rfl
@[simp] theorem advance_pma (n : Nat) : (s.advance n).pma = s.pma := rfl
@[simp] theorem advance_sys (n : Nat) : (s.advance n).sys = s.sys := rfl
@[simp] theorem advance_vregs (n : Nat) : (s.advance n).vregs = s.vregs := rfl
@[simp] theorem advance_masks (n : Nat) : (s.advance n).masks = s.masks := rfl
@[simp] theorem advance_vl (n : Nat) : (s.advance n).vl = s.vl := rfl
@[simp] theorem advance_mode (n : Nat) : (s.advance n).mode = s.mode := rfl
@[simp] theorem advance_csr (n : Nat) : (s.advance n).csr = s.csr := rfl
@[simp] theorem advance_resv (n : Nat) : (s.advance n).resv = s.resv := rfl
@[simp] theorem advance_sema (n : Nat) : (s.advance n).sema = s.sema := rfl
@[simp] theorem advance_tlb (n : Nat) : (s.advance n).tlb = s.tlb := rfl
@[simp] theorem advance_keyCache (n : Nat) : (s.advance n).keyCache = s.keyCache := rfl
@[simp] theorem advance_rewritten (n : Nat) : (s.advance n).rewritten = s.rewritten := rfl
@[simp] theorem advance_queues (n : Nat) : (s.advance n).queues = s.queues := rfl
@[simp] theorem advance_nna (n : Nat) : (s.advance n).nna = s.nna := rfl
@[simp] theorem advance_gfx (n : Nat) : (s.advance n).gfx = s.gfx := rfl
@[simp] theorem advance_mem (n : Nat) : (s.advance n).mem = s.mem := rfl
@[simp] theorem advance_stale (n : Nat) : (s.advance n).stale = s.stale := rfl
@[simp] theorem advance_pending (n : Nat) : (s.advance n).pending = s.pending := rfl
@[simp] theorem advance_fetching (n : Nat) : (s.advance n).fetching = s.fetching := rfl
@[simp] theorem advance_inputs (n : Nat) : (s.advance n).inputs = s.inputs := rfl
@[simp] theorem advance_env (n : Nat) : (s.advance n).env = s.env := rfl
@[simp] theorem advance_era (n : Nat) : (s.advance n).era = s.era := rfl
@[simp] theorem advance_draw (n : Nat) : (s.advance n).draw = s.draw := rfl
@[simp] theorem advance_config (n : Nat) : (s.advance n).config = s.config := rfl

/-! #### setReg -/

@[simp] theorem setReg_lc (n : RegNum) (w : Word) : (s.setReg n w).lc = s.lc := by
  unfold setReg; split <;> rfl
@[simp] theorem setReg_creg (n : RegNum) (w : Word) : (s.setReg n w).creg = s.creg := by
  unfold setReg; split <;> rfl
@[simp] theorem setReg_csDesc (n : RegNum) (w : Word) : (s.setReg n w).csDesc = s.csDesc := by
  unfold setReg; split <;> rfl
@[simp] theorem setReg_segs (n : RegNum) (w : Word) : (s.setReg n w).segs = s.segs := by
  unfold setReg; split <;> rfl
@[simp] theorem setReg_pma (n : RegNum) (w : Word) : (s.setReg n w).pma = s.pma := by
  unfold setReg; split <;> rfl
@[simp] theorem setReg_sys (n : RegNum) (w : Word) : (s.setReg n w).sys = s.sys := by
  unfold setReg; split <;> rfl
@[simp] theorem setReg_vregs (n : RegNum) (w : Word) : (s.setReg n w).vregs = s.vregs := by
  unfold setReg; split <;> rfl
@[simp] theorem setReg_masks (n : RegNum) (w : Word) : (s.setReg n w).masks = s.masks := by
  unfold setReg; split <;> rfl
@[simp] theorem setReg_vl (n : RegNum) (w : Word) : (s.setReg n w).vl = s.vl := by
  unfold setReg; split <;> rfl
@[simp] theorem setReg_mode (n : RegNum) (w : Word) : (s.setReg n w).mode = s.mode := by
  unfold setReg; split <;> rfl
@[simp] theorem setReg_csr (n : RegNum) (w : Word) : (s.setReg n w).csr = s.csr := by
  unfold setReg; split <;> rfl
@[simp] theorem setReg_resv (n : RegNum) (w : Word) : (s.setReg n w).resv = s.resv := by
  unfold setReg; split <;> rfl
@[simp] theorem setReg_sema (n : RegNum) (w : Word) : (s.setReg n w).sema = s.sema := by
  unfold setReg; split <;> rfl
@[simp] theorem setReg_tlb (n : RegNum) (w : Word) : (s.setReg n w).tlb = s.tlb := by
  unfold setReg; split <;> rfl
@[simp] theorem setReg_keyCache (n : RegNum) (w : Word) : (s.setReg n w).keyCache = s.keyCache := by
  unfold setReg; split <;> rfl
@[simp] theorem setReg_rewritten (n : RegNum) (w : Word) : (s.setReg n w).rewritten = s.rewritten := by
  unfold setReg; split <;> rfl
@[simp] theorem setReg_queues (n : RegNum) (w : Word) : (s.setReg n w).queues = s.queues := by
  unfold setReg; split <;> rfl
@[simp] theorem setReg_nna (n : RegNum) (w : Word) : (s.setReg n w).nna = s.nna := by
  unfold setReg; split <;> rfl
@[simp] theorem setReg_gfx (n : RegNum) (w : Word) : (s.setReg n w).gfx = s.gfx := by
  unfold setReg; split <;> rfl
@[simp] theorem setReg_mem (n : RegNum) (w : Word) : (s.setReg n w).mem = s.mem := by
  unfold setReg; split <;> rfl
@[simp] theorem setReg_stale (n : RegNum) (w : Word) : (s.setReg n w).stale = s.stale := by
  unfold setReg; split <;> rfl
@[simp] theorem setReg_pending (n : RegNum) (w : Word) : (s.setReg n w).pending = s.pending := by
  unfold setReg; split <;> rfl
@[simp] theorem setReg_fetching (n : RegNum) (w : Word) : (s.setReg n w).fetching = s.fetching := by
  unfold setReg; split <;> rfl
@[simp] theorem setReg_inputs (n : RegNum) (w : Word) : (s.setReg n w).inputs = s.inputs := by
  unfold setReg; split <;> rfl
@[simp] theorem setReg_env (n : RegNum) (w : Word) : (s.setReg n w).env = s.env := by
  unfold setReg; split <;> rfl
@[simp] theorem setReg_era (n : RegNum) (w : Word) : (s.setReg n w).era = s.era := by
  unfold setReg; split <;> rfl
@[simp] theorem setReg_draw (n : RegNum) (w : Word) : (s.setReg n w).draw = s.draw := by
  unfold setReg; split <;> rfl
@[simp] theorem setReg_config (n : RegNum) (w : Word) : (s.setReg n w).config = s.config := by
  unfold setReg; split <;> rfl

/-! #### setVec -/

@[simp] theorem setVec_regs (n : RegNum) (x : Nat) (w : Word) : (s.setVec n x w).regs = s.regs := by
  unfold setVec; split <;> rfl
@[simp] theorem setVec_lc (n : RegNum) (x : Nat) (w : Word) : (s.setVec n x w).lc = s.lc := by
  unfold setVec; split <;> rfl
@[simp] theorem setVec_creg (n : RegNum) (x : Nat) (w : Word) : (s.setVec n x w).creg = s.creg := by
  unfold setVec; split <;> rfl
@[simp] theorem setVec_csDesc (n : RegNum) (x : Nat) (w : Word) : (s.setVec n x w).csDesc = s.csDesc := by
  unfold setVec; split <;> rfl
@[simp] theorem setVec_segs (n : RegNum) (x : Nat) (w : Word) : (s.setVec n x w).segs = s.segs := by
  unfold setVec; split <;> rfl
@[simp] theorem setVec_pma (n : RegNum) (x : Nat) (w : Word) : (s.setVec n x w).pma = s.pma := by
  unfold setVec; split <;> rfl
@[simp] theorem setVec_sys (n : RegNum) (x : Nat) (w : Word) : (s.setVec n x w).sys = s.sys := by
  unfold setVec; split <;> rfl
@[simp] theorem setVec_masks (n : RegNum) (x : Nat) (w : Word) : (s.setVec n x w).masks = s.masks := by
  unfold setVec; split <;> rfl
@[simp] theorem setVec_vl (n : RegNum) (x : Nat) (w : Word) : (s.setVec n x w).vl = s.vl := by
  unfold setVec; split <;> rfl
@[simp] theorem setVec_mode (n : RegNum) (x : Nat) (w : Word) : (s.setVec n x w).mode = s.mode := by
  unfold setVec; split <;> rfl
@[simp] theorem setVec_csr (n : RegNum) (x : Nat) (w : Word) : (s.setVec n x w).csr = s.csr := by
  unfold setVec; split <;> rfl
@[simp] theorem setVec_resv (n : RegNum) (x : Nat) (w : Word) : (s.setVec n x w).resv = s.resv := by
  unfold setVec; split <;> rfl
@[simp] theorem setVec_sema (n : RegNum) (x : Nat) (w : Word) : (s.setVec n x w).sema = s.sema := by
  unfold setVec; split <;> rfl
@[simp] theorem setVec_tlb (n : RegNum) (x : Nat) (w : Word) : (s.setVec n x w).tlb = s.tlb := by
  unfold setVec; split <;> rfl
@[simp] theorem setVec_keyCache (n : RegNum) (x : Nat) (w : Word) : (s.setVec n x w).keyCache = s.keyCache := by
  unfold setVec; split <;> rfl
@[simp] theorem setVec_rewritten (n : RegNum) (x : Nat) (w : Word) : (s.setVec n x w).rewritten = s.rewritten := by
  unfold setVec; split <;> rfl
@[simp] theorem setVec_queues (n : RegNum) (x : Nat) (w : Word) : (s.setVec n x w).queues = s.queues := by
  unfold setVec; split <;> rfl
@[simp] theorem setVec_nna (n : RegNum) (x : Nat) (w : Word) : (s.setVec n x w).nna = s.nna := by
  unfold setVec; split <;> rfl
@[simp] theorem setVec_gfx (n : RegNum) (x : Nat) (w : Word) : (s.setVec n x w).gfx = s.gfx := by
  unfold setVec; split <;> rfl
@[simp] theorem setVec_mem (n : RegNum) (x : Nat) (w : Word) : (s.setVec n x w).mem = s.mem := by
  unfold setVec; split <;> rfl
@[simp] theorem setVec_stale (n : RegNum) (x : Nat) (w : Word) : (s.setVec n x w).stale = s.stale := by
  unfold setVec; split <;> rfl
@[simp] theorem setVec_pending (n : RegNum) (x : Nat) (w : Word) : (s.setVec n x w).pending = s.pending := by
  unfold setVec; split <;> rfl
@[simp] theorem setVec_fetching (n : RegNum) (x : Nat) (w : Word) : (s.setVec n x w).fetching = s.fetching := by
  unfold setVec; split <;> rfl
@[simp] theorem setVec_inputs (n : RegNum) (x : Nat) (w : Word) : (s.setVec n x w).inputs = s.inputs := by
  unfold setVec; split <;> rfl
@[simp] theorem setVec_env (n : RegNum) (x : Nat) (w : Word) : (s.setVec n x w).env = s.env := by
  unfold setVec; split <;> rfl
@[simp] theorem setVec_era (n : RegNum) (x : Nat) (w : Word) : (s.setVec n x w).era = s.era := by
  unfold setVec; split <;> rfl
@[simp] theorem setVec_draw (n : RegNum) (x : Nat) (w : Word) : (s.setVec n x w).draw = s.draw := by
  unfold setVec; split <;> rfl
@[simp] theorem setVec_config (n : RegNum) (x : Nat) (w : Word) : (s.setVec n x w).config = s.config := by
  unfold setVec; split <;> rfl

/-! #### setMask -/

@[simp] theorem setMask_regs (n : BitVec 3) (w : Word) : (s.setMask n w).regs = s.regs := rfl
@[simp] theorem setMask_lc (n : BitVec 3) (w : Word) : (s.setMask n w).lc = s.lc := rfl
@[simp] theorem setMask_creg (n : BitVec 3) (w : Word) : (s.setMask n w).creg = s.creg := rfl
@[simp] theorem setMask_csDesc (n : BitVec 3) (w : Word) : (s.setMask n w).csDesc = s.csDesc := rfl
@[simp] theorem setMask_segs (n : BitVec 3) (w : Word) : (s.setMask n w).segs = s.segs := rfl
@[simp] theorem setMask_pma (n : BitVec 3) (w : Word) : (s.setMask n w).pma = s.pma := rfl
@[simp] theorem setMask_sys (n : BitVec 3) (w : Word) : (s.setMask n w).sys = s.sys := rfl
@[simp] theorem setMask_vregs (n : BitVec 3) (w : Word) : (s.setMask n w).vregs = s.vregs := rfl
@[simp] theorem setMask_vl (n : BitVec 3) (w : Word) : (s.setMask n w).vl = s.vl := rfl
@[simp] theorem setMask_mode (n : BitVec 3) (w : Word) : (s.setMask n w).mode = s.mode := rfl
@[simp] theorem setMask_csr (n : BitVec 3) (w : Word) : (s.setMask n w).csr = s.csr := rfl
@[simp] theorem setMask_resv (n : BitVec 3) (w : Word) : (s.setMask n w).resv = s.resv := rfl
@[simp] theorem setMask_sema (n : BitVec 3) (w : Word) : (s.setMask n w).sema = s.sema := rfl
@[simp] theorem setMask_tlb (n : BitVec 3) (w : Word) : (s.setMask n w).tlb = s.tlb := rfl
@[simp] theorem setMask_keyCache (n : BitVec 3) (w : Word) : (s.setMask n w).keyCache = s.keyCache := rfl
@[simp] theorem setMask_rewritten (n : BitVec 3) (w : Word) : (s.setMask n w).rewritten = s.rewritten := rfl
@[simp] theorem setMask_queues (n : BitVec 3) (w : Word) : (s.setMask n w).queues = s.queues := rfl
@[simp] theorem setMask_nna (n : BitVec 3) (w : Word) : (s.setMask n w).nna = s.nna := rfl
@[simp] theorem setMask_gfx (n : BitVec 3) (w : Word) : (s.setMask n w).gfx = s.gfx := rfl
@[simp] theorem setMask_mem (n : BitVec 3) (w : Word) : (s.setMask n w).mem = s.mem := rfl
@[simp] theorem setMask_stale (n : BitVec 3) (w : Word) : (s.setMask n w).stale = s.stale := rfl
@[simp] theorem setMask_pending (n : BitVec 3) (w : Word) : (s.setMask n w).pending = s.pending := rfl
@[simp] theorem setMask_fetching (n : BitVec 3) (w : Word) : (s.setMask n w).fetching = s.fetching := rfl
@[simp] theorem setMask_inputs (n : BitVec 3) (w : Word) : (s.setMask n w).inputs = s.inputs := rfl
@[simp] theorem setMask_env (n : BitVec 3) (w : Word) : (s.setMask n w).env = s.env := rfl
@[simp] theorem setMask_era (n : BitVec 3) (w : Word) : (s.setMask n w).era = s.era := rfl
@[simp] theorem setMask_draw (n : BitVec 3) (w : Word) : (s.setMask n w).draw = s.draw := rfl
@[simp] theorem setMask_config (n : BitVec 3) (w : Word) : (s.setMask n w).config = s.config := rfl

/-! #### setVstep -/

@[simp] theorem setVstep_regs (x : Nat) : (s.setVstep x).regs = s.regs := rfl
@[simp] theorem setVstep_lc (x : Nat) : (s.setVstep x).lc = s.lc := rfl
@[simp] theorem setVstep_creg (x : Nat) : (s.setVstep x).creg = s.creg := rfl
@[simp] theorem setVstep_csDesc (x : Nat) : (s.setVstep x).csDesc = s.csDesc := rfl
@[simp] theorem setVstep_segs (x : Nat) : (s.setVstep x).segs = s.segs := rfl
@[simp] theorem setVstep_pma (x : Nat) : (s.setVstep x).pma = s.pma := rfl
@[simp] theorem setVstep_sys (x : Nat) : (s.setVstep x).sys = s.sys := rfl
@[simp] theorem setVstep_vregs (x : Nat) : (s.setVstep x).vregs = s.vregs := rfl
@[simp] theorem setVstep_masks (x : Nat) : (s.setVstep x).masks = s.masks := rfl
@[simp] theorem setVstep_vl (x : Nat) : (s.setVstep x).vl = s.vl := rfl
@[simp] theorem setVstep_mode (x : Nat) : (s.setVstep x).mode = s.mode := rfl
@[simp] theorem setVstep_resv (x : Nat) : (s.setVstep x).resv = s.resv := rfl
@[simp] theorem setVstep_sema (x : Nat) : (s.setVstep x).sema = s.sema := rfl
@[simp] theorem setVstep_tlb (x : Nat) : (s.setVstep x).tlb = s.tlb := rfl
@[simp] theorem setVstep_keyCache (x : Nat) : (s.setVstep x).keyCache = s.keyCache := rfl
@[simp] theorem setVstep_rewritten (x : Nat) : (s.setVstep x).rewritten = s.rewritten := rfl
@[simp] theorem setVstep_queues (x : Nat) : (s.setVstep x).queues = s.queues := rfl
@[simp] theorem setVstep_nna (x : Nat) : (s.setVstep x).nna = s.nna := rfl
@[simp] theorem setVstep_gfx (x : Nat) : (s.setVstep x).gfx = s.gfx := rfl
@[simp] theorem setVstep_mem (x : Nat) : (s.setVstep x).mem = s.mem := rfl
@[simp] theorem setVstep_stale (x : Nat) : (s.setVstep x).stale = s.stale := rfl
@[simp] theorem setVstep_pending (x : Nat) : (s.setVstep x).pending = s.pending := rfl
@[simp] theorem setVstep_fetching (x : Nat) : (s.setVstep x).fetching = s.fetching := rfl
@[simp] theorem setVstep_inputs (x : Nat) : (s.setVstep x).inputs = s.inputs := rfl
@[simp] theorem setVstep_env (x : Nat) : (s.setVstep x).env = s.env := rfl
@[simp] theorem setVstep_era (x : Nat) : (s.setVstep x).era = s.era := rfl
@[simp] theorem setVstep_draw (x : Nat) : (s.setVstep x).draw = s.draw := rfl
@[simp] theorem setVstep_config (x : Nat) : (s.setVstep x).config = s.config := rfl
@[simp] theorem setVstep_csr_ie (x : Nat) : (s.setVstep x).csr.ie = s.csr.ie := rfl
@[simp] theorem setVstep_csr_cause (x : Nat) : (s.setVstep x).csr.cause = s.csr.cause := rfl
@[simp] theorem setVstep_csr_fstat (x : Nat) : (s.setVstep x).csr.fstat = s.csr.fstat := rfl
@[simp] theorem setVstep_csr_scratch (x : Nat) : (s.setVstep x).csr.scratch = s.csr.scratch := rfl
@[simp] theorem setVstep_csr_time (x : Nat) : (s.setVstep x).csr.time = s.csr.time := rfl
@[simp] theorem setVstep_csr_asid (x : Nat) : (s.setVstep x).csr.asid = s.csr.asid := rfl
@[simp] theorem setVstep_csr_keys (x : Nat) : (s.setVstep x).csr.keys = s.csr.keys := rfl
@[simp] theorem setVstep_csr_cr0 (x : Nat) : (s.setVstep x).csr.cr0 = s.csr.cr0 := rfl
@[simp] theorem setVstep_csr_tick (x : Nat) : (s.setVstep x).csr.tick = s.csr.tick := rfl
@[simp] theorem setVstep_csr_badaddr (x : Nat) : (s.setVstep x).csr.badaddr = s.csr.badaddr := rfl
@[simp] theorem setVstep_csr_badInstr (x : Nat) : (s.setVstep x).csr.badInstr = s.csr.badInstr := rfl
@[simp] theorem setVstep_csr_dbad (x : Nat) : (s.setVstep x).csr.dbad = s.csr.dbad := rfl
@[simp] theorem setVstep_csr_dbcr (x : Nat) : (s.setVstep x).csr.dbcr = s.csr.dbcr := rfl
@[simp] theorem setVstep_csr_dbsr (x : Nat) : (s.setVstep x).csr.dbsr = s.csr.dbsr := rfl
@[simp] theorem setVstep_csr_tvec (x : Nat) : (s.setVstep x).csr.tvec = s.csr.tvec := rfl
@[simp] theorem setVstep_csr_gdtb (x : Nat) : (s.setVstep x).csr.gdtb = s.csr.gdtb := rfl
@[simp] theorem setVstep_csr_gdtl (x : Nat) : (s.setVstep x).csr.gdtl = s.csr.gdtl := rfl
@[simp] theorem setVstep_csr_tcb (x : Nat) : (s.setVstep x).csr.tcb = s.csr.tcb := rfl
@[simp] theorem setVstep_csr_vtmp (x : Nat) : (s.setVstep x).csr.vtmp = s.csr.vtmp := rfl

/-! #### setLc -/

@[simp] theorem setLc_regs (w : Word) : (s.setLc w).regs = s.regs := rfl
@[simp] theorem setLc_creg (w : Word) : (s.setLc w).creg = s.creg := rfl
@[simp] theorem setLc_csDesc (w : Word) : (s.setLc w).csDesc = s.csDesc := rfl
@[simp] theorem setLc_segs (w : Word) : (s.setLc w).segs = s.segs := rfl
@[simp] theorem setLc_pma (w : Word) : (s.setLc w).pma = s.pma := rfl
@[simp] theorem setLc_sys (w : Word) : (s.setLc w).sys = s.sys := rfl
@[simp] theorem setLc_vregs (w : Word) : (s.setLc w).vregs = s.vregs := rfl
@[simp] theorem setLc_masks (w : Word) : (s.setLc w).masks = s.masks := rfl
@[simp] theorem setLc_vl (w : Word) : (s.setLc w).vl = s.vl := rfl
@[simp] theorem setLc_mode (w : Word) : (s.setLc w).mode = s.mode := rfl
@[simp] theorem setLc_csr (w : Word) : (s.setLc w).csr = s.csr := rfl
@[simp] theorem setLc_resv (w : Word) : (s.setLc w).resv = s.resv := rfl
@[simp] theorem setLc_sema (w : Word) : (s.setLc w).sema = s.sema := rfl
@[simp] theorem setLc_tlb (w : Word) : (s.setLc w).tlb = s.tlb := rfl
@[simp] theorem setLc_keyCache (w : Word) : (s.setLc w).keyCache = s.keyCache := rfl
@[simp] theorem setLc_rewritten (w : Word) : (s.setLc w).rewritten = s.rewritten := rfl
@[simp] theorem setLc_queues (w : Word) : (s.setLc w).queues = s.queues := rfl
@[simp] theorem setLc_nna (w : Word) : (s.setLc w).nna = s.nna := rfl
@[simp] theorem setLc_gfx (w : Word) : (s.setLc w).gfx = s.gfx := rfl
@[simp] theorem setLc_mem (w : Word) : (s.setLc w).mem = s.mem := rfl
@[simp] theorem setLc_stale (w : Word) : (s.setLc w).stale = s.stale := rfl
@[simp] theorem setLc_pending (w : Word) : (s.setLc w).pending = s.pending := rfl
@[simp] theorem setLc_fetching (w : Word) : (s.setLc w).fetching = s.fetching := rfl
@[simp] theorem setLc_inputs (w : Word) : (s.setLc w).inputs = s.inputs := rfl
@[simp] theorem setLc_env (w : Word) : (s.setLc w).env = s.env := rfl
@[simp] theorem setLc_era (w : Word) : (s.setLc w).era = s.era := rfl
@[simp] theorem setLc_draw (w : Word) : (s.setLc w).draw = s.draw := rfl
@[simp] theorem setLc_config (w : Word) : (s.setLc w).config = s.config := rfl

/-! #### fresh -/

@[simp] theorem fresh_regs : s.fresh.regs = s.regs := rfl
@[simp] theorem fresh_lc : s.fresh.lc = s.lc := rfl
@[simp] theorem fresh_creg : s.fresh.creg = s.creg := rfl
@[simp] theorem fresh_csDesc : s.fresh.csDesc = s.csDesc := rfl
@[simp] theorem fresh_segs : s.fresh.segs = s.segs := rfl
@[simp] theorem fresh_pma : s.fresh.pma = s.pma := rfl
@[simp] theorem fresh_sys : s.fresh.sys = s.sys := rfl
@[simp] theorem fresh_vregs : s.fresh.vregs = s.vregs := rfl
@[simp] theorem fresh_masks : s.fresh.masks = s.masks := rfl
@[simp] theorem fresh_vl : s.fresh.vl = s.vl := rfl
@[simp] theorem fresh_mode : s.fresh.mode = s.mode := rfl
@[simp] theorem fresh_csr : s.fresh.csr = s.csr := rfl
@[simp] theorem fresh_resv : s.fresh.resv = s.resv := rfl
@[simp] theorem fresh_sema : s.fresh.sema = s.sema := rfl
@[simp] theorem fresh_tlb : s.fresh.tlb = s.tlb := rfl
@[simp] theorem fresh_keyCache : s.fresh.keyCache = s.keyCache := rfl
@[simp] theorem fresh_rewritten : s.fresh.rewritten = s.rewritten := rfl
@[simp] theorem fresh_queues : s.fresh.queues = s.queues := rfl
@[simp] theorem fresh_nna : s.fresh.nna = s.nna := rfl
@[simp] theorem fresh_gfx : s.fresh.gfx = s.gfx := rfl
@[simp] theorem fresh_mem : s.fresh.mem = s.mem := rfl
@[simp] theorem fresh_stale : s.fresh.stale = s.stale := rfl
@[simp] theorem fresh_pending : s.fresh.pending = s.pending := rfl
@[simp] theorem fresh_fetching : s.fresh.fetching = s.fetching := rfl
@[simp] theorem fresh_inputs : s.fresh.inputs = s.inputs := rfl
@[simp] theorem fresh_env : s.fresh.env = s.env := rfl
@[simp] theorem fresh_era : s.fresh.era = s.era := rfl
@[simp] theorem fresh_config : s.fresh.config = s.config := rfl

/-! #### setFstat -/

@[simp] theorem setFstat_regs (w : Word) : (s.setFstat w).regs = s.regs := rfl
@[simp] theorem setFstat_lc (w : Word) : (s.setFstat w).lc = s.lc := rfl
@[simp] theorem setFstat_creg (w : Word) : (s.setFstat w).creg = s.creg := rfl
@[simp] theorem setFstat_csDesc (w : Word) : (s.setFstat w).csDesc = s.csDesc := rfl
@[simp] theorem setFstat_segs (w : Word) : (s.setFstat w).segs = s.segs := rfl
@[simp] theorem setFstat_pma (w : Word) : (s.setFstat w).pma = s.pma := rfl
@[simp] theorem setFstat_sys (w : Word) : (s.setFstat w).sys = s.sys := rfl
@[simp] theorem setFstat_vregs (w : Word) : (s.setFstat w).vregs = s.vregs := rfl
@[simp] theorem setFstat_masks (w : Word) : (s.setFstat w).masks = s.masks := rfl
@[simp] theorem setFstat_vl (w : Word) : (s.setFstat w).vl = s.vl := rfl
@[simp] theorem setFstat_mode (w : Word) : (s.setFstat w).mode = s.mode := rfl
@[simp] theorem setFstat_resv (w : Word) : (s.setFstat w).resv = s.resv := rfl
@[simp] theorem setFstat_sema (w : Word) : (s.setFstat w).sema = s.sema := rfl
@[simp] theorem setFstat_tlb (w : Word) : (s.setFstat w).tlb = s.tlb := rfl
@[simp] theorem setFstat_keyCache (w : Word) : (s.setFstat w).keyCache = s.keyCache := rfl
@[simp] theorem setFstat_rewritten (w : Word) : (s.setFstat w).rewritten = s.rewritten := rfl
@[simp] theorem setFstat_queues (w : Word) : (s.setFstat w).queues = s.queues := rfl
@[simp] theorem setFstat_nna (w : Word) : (s.setFstat w).nna = s.nna := rfl
@[simp] theorem setFstat_gfx (w : Word) : (s.setFstat w).gfx = s.gfx := rfl
@[simp] theorem setFstat_mem (w : Word) : (s.setFstat w).mem = s.mem := rfl
@[simp] theorem setFstat_stale (w : Word) : (s.setFstat w).stale = s.stale := rfl
@[simp] theorem setFstat_pending (w : Word) : (s.setFstat w).pending = s.pending := rfl
@[simp] theorem setFstat_fetching (w : Word) : (s.setFstat w).fetching = s.fetching := rfl
@[simp] theorem setFstat_inputs (w : Word) : (s.setFstat w).inputs = s.inputs := rfl
@[simp] theorem setFstat_env (w : Word) : (s.setFstat w).env = s.env := rfl
@[simp] theorem setFstat_era (w : Word) : (s.setFstat w).era = s.era := rfl
@[simp] theorem setFstat_draw (w : Word) : (s.setFstat w).draw = s.draw := rfl
@[simp] theorem setFstat_config (w : Word) : (s.setFstat w).config = s.config := rfl
@[simp] theorem setFstat_csr_ie (w : Word) : (s.setFstat w).csr.ie = s.csr.ie := rfl
@[simp] theorem setFstat_csr_cause (w : Word) : (s.setFstat w).csr.cause = s.csr.cause := rfl
@[simp] theorem setFstat_csr_scratch (w : Word) : (s.setFstat w).csr.scratch = s.csr.scratch := rfl
@[simp] theorem setFstat_csr_time (w : Word) : (s.setFstat w).csr.time = s.csr.time := rfl
@[simp] theorem setFstat_csr_asid (w : Word) : (s.setFstat w).csr.asid = s.csr.asid := rfl
@[simp] theorem setFstat_csr_keys (w : Word) : (s.setFstat w).csr.keys = s.csr.keys := rfl
@[simp] theorem setFstat_csr_cr0 (w : Word) : (s.setFstat w).csr.cr0 = s.csr.cr0 := rfl
@[simp] theorem setFstat_csr_tick (w : Word) : (s.setFstat w).csr.tick = s.csr.tick := rfl
@[simp] theorem setFstat_csr_badaddr (w : Word) : (s.setFstat w).csr.badaddr = s.csr.badaddr := rfl
@[simp] theorem setFstat_csr_badInstr (w : Word) : (s.setFstat w).csr.badInstr = s.csr.badInstr := rfl
@[simp] theorem setFstat_csr_dbad (w : Word) : (s.setFstat w).csr.dbad = s.csr.dbad := rfl
@[simp] theorem setFstat_csr_dbcr (w : Word) : (s.setFstat w).csr.dbcr = s.csr.dbcr := rfl
@[simp] theorem setFstat_csr_dbsr (w : Word) : (s.setFstat w).csr.dbsr = s.csr.dbsr := rfl
@[simp] theorem setFstat_csr_tvec (w : Word) : (s.setFstat w).csr.tvec = s.csr.tvec := rfl
@[simp] theorem setFstat_csr_gdtb (w : Word) : (s.setFstat w).csr.gdtb = s.csr.gdtb := rfl
@[simp] theorem setFstat_csr_gdtl (w : Word) : (s.setFstat w).csr.gdtl = s.csr.gdtl := rfl
@[simp] theorem setFstat_csr_tcb (w : Word) : (s.setFstat w).csr.tcb = s.csr.tcb := rfl
@[simp] theorem setFstat_csr_vstep (w : Word) : (s.setFstat w).csr.vstep = s.csr.vstep := rfl
@[simp] theorem setFstat_csr_vtmp (w : Word) : (s.setFstat w).csr.vtmp = s.csr.vtmp := rfl

/-! #### setTlbEntry -/

@[simp] theorem setTlbEntry_regs (w e : Nat) (t : Word) : (s.setTlbEntry w e t).regs = s.regs := rfl
@[simp] theorem setTlbEntry_lc (w e : Nat) (t : Word) : (s.setTlbEntry w e t).lc = s.lc := rfl
@[simp] theorem setTlbEntry_creg (w e : Nat) (t : Word) : (s.setTlbEntry w e t).creg = s.creg := rfl
@[simp] theorem setTlbEntry_csDesc (w e : Nat) (t : Word) : (s.setTlbEntry w e t).csDesc = s.csDesc := rfl
@[simp] theorem setTlbEntry_segs (w e : Nat) (t : Word) : (s.setTlbEntry w e t).segs = s.segs := rfl
@[simp] theorem setTlbEntry_pma (w e : Nat) (t : Word) : (s.setTlbEntry w e t).pma = s.pma := rfl
@[simp] theorem setTlbEntry_sys (w e : Nat) (t : Word) : (s.setTlbEntry w e t).sys = s.sys := rfl
@[simp] theorem setTlbEntry_vregs (w e : Nat) (t : Word) : (s.setTlbEntry w e t).vregs = s.vregs := rfl
@[simp] theorem setTlbEntry_masks (w e : Nat) (t : Word) : (s.setTlbEntry w e t).masks = s.masks := rfl
@[simp] theorem setTlbEntry_vl (w e : Nat) (t : Word) : (s.setTlbEntry w e t).vl = s.vl := rfl
@[simp] theorem setTlbEntry_mode (w e : Nat) (t : Word) : (s.setTlbEntry w e t).mode = s.mode := rfl
@[simp] theorem setTlbEntry_csr (w e : Nat) (t : Word) : (s.setTlbEntry w e t).csr = s.csr := rfl
@[simp] theorem setTlbEntry_resv (w e : Nat) (t : Word) : (s.setTlbEntry w e t).resv = s.resv := rfl
@[simp] theorem setTlbEntry_sema (w e : Nat) (t : Word) : (s.setTlbEntry w e t).sema = s.sema := rfl
@[simp] theorem setTlbEntry_keyCache (w e : Nat) (t : Word) : (s.setTlbEntry w e t).keyCache = s.keyCache := rfl
@[simp] theorem setTlbEntry_rewritten (w e : Nat) (t : Word) : (s.setTlbEntry w e t).rewritten = s.rewritten := rfl
@[simp] theorem setTlbEntry_queues (w e : Nat) (t : Word) : (s.setTlbEntry w e t).queues = s.queues := rfl
@[simp] theorem setTlbEntry_nna (w e : Nat) (t : Word) : (s.setTlbEntry w e t).nna = s.nna := rfl
@[simp] theorem setTlbEntry_gfx (w e : Nat) (t : Word) : (s.setTlbEntry w e t).gfx = s.gfx := rfl
@[simp] theorem setTlbEntry_mem (w e : Nat) (t : Word) : (s.setTlbEntry w e t).mem = s.mem := rfl
@[simp] theorem setTlbEntry_stale (w e : Nat) (t : Word) : (s.setTlbEntry w e t).stale = s.stale := rfl
@[simp] theorem setTlbEntry_pending (w e : Nat) (t : Word) : (s.setTlbEntry w e t).pending = s.pending := rfl
@[simp] theorem setTlbEntry_fetching (w e : Nat) (t : Word) : (s.setTlbEntry w e t).fetching = s.fetching := rfl
@[simp] theorem setTlbEntry_inputs (w e : Nat) (t : Word) : (s.setTlbEntry w e t).inputs = s.inputs := rfl
@[simp] theorem setTlbEntry_env (w e : Nat) (t : Word) : (s.setTlbEntry w e t).env = s.env := rfl
@[simp] theorem setTlbEntry_era (w e : Nat) (t : Word) : (s.setTlbEntry w e t).era = s.era := rfl
@[simp] theorem setTlbEntry_draw (w e : Nat) (t : Word) : (s.setTlbEntry w e t).draw = s.draw := rfl
@[simp] theorem setTlbEntry_config (w e : Nat) (t : Word) : (s.setTlbEntry w e t).config = s.config := rfl

/-! #### touchTlb -/

@[simp] theorem touchTlb_regs (k : Access) (w e : Nat) : (s.touchTlb k w e).regs = s.regs := rfl
@[simp] theorem touchTlb_lc (k : Access) (w e : Nat) : (s.touchTlb k w e).lc = s.lc := rfl
@[simp] theorem touchTlb_creg (k : Access) (w e : Nat) : (s.touchTlb k w e).creg = s.creg := rfl
@[simp] theorem touchTlb_csDesc (k : Access) (w e : Nat) : (s.touchTlb k w e).csDesc = s.csDesc := rfl
@[simp] theorem touchTlb_segs (k : Access) (w e : Nat) : (s.touchTlb k w e).segs = s.segs := rfl
@[simp] theorem touchTlb_pma (k : Access) (w e : Nat) : (s.touchTlb k w e).pma = s.pma := rfl
@[simp] theorem touchTlb_sys (k : Access) (w e : Nat) : (s.touchTlb k w e).sys = s.sys := rfl
@[simp] theorem touchTlb_vregs (k : Access) (w e : Nat) : (s.touchTlb k w e).vregs = s.vregs := rfl
@[simp] theorem touchTlb_masks (k : Access) (w e : Nat) : (s.touchTlb k w e).masks = s.masks := rfl
@[simp] theorem touchTlb_vl (k : Access) (w e : Nat) : (s.touchTlb k w e).vl = s.vl := rfl
@[simp] theorem touchTlb_mode (k : Access) (w e : Nat) : (s.touchTlb k w e).mode = s.mode := rfl
@[simp] theorem touchTlb_csr (k : Access) (w e : Nat) : (s.touchTlb k w e).csr = s.csr := rfl
@[simp] theorem touchTlb_resv (k : Access) (w e : Nat) : (s.touchTlb k w e).resv = s.resv := rfl
@[simp] theorem touchTlb_sema (k : Access) (w e : Nat) : (s.touchTlb k w e).sema = s.sema := rfl
@[simp] theorem touchTlb_keyCache (k : Access) (w e : Nat) : (s.touchTlb k w e).keyCache = s.keyCache := rfl
@[simp] theorem touchTlb_rewritten (k : Access) (w e : Nat) : (s.touchTlb k w e).rewritten = s.rewritten := rfl
@[simp] theorem touchTlb_queues (k : Access) (w e : Nat) : (s.touchTlb k w e).queues = s.queues := rfl
@[simp] theorem touchTlb_nna (k : Access) (w e : Nat) : (s.touchTlb k w e).nna = s.nna := rfl
@[simp] theorem touchTlb_gfx (k : Access) (w e : Nat) : (s.touchTlb k w e).gfx = s.gfx := rfl
@[simp] theorem touchTlb_mem (k : Access) (w e : Nat) : (s.touchTlb k w e).mem = s.mem := rfl
@[simp] theorem touchTlb_stale (k : Access) (w e : Nat) : (s.touchTlb k w e).stale = s.stale := rfl
@[simp] theorem touchTlb_pending (k : Access) (w e : Nat) : (s.touchTlb k w e).pending = s.pending := rfl
@[simp] theorem touchTlb_inputs (k : Access) (w e : Nat) : (s.touchTlb k w e).inputs = s.inputs := rfl
@[simp] theorem touchTlb_env (k : Access) (w e : Nat) : (s.touchTlb k w e).env = s.env := rfl
@[simp] theorem touchTlb_era (k : Access) (w e : Nat) : (s.touchTlb k w e).era = s.era := rfl
@[simp] theorem touchTlb_draw (k : Access) (w e : Nat) : (s.touchTlb k w e).draw = s.draw := rfl
@[simp] theorem touchTlb_config (k : Access) (w e : Nat) : (s.touchTlb k w e).config = s.config := rfl

/-! #### abandonFetch -/

@[simp] theorem abandonFetch_regs : s.abandonFetch.regs = s.regs := rfl
@[simp] theorem abandonFetch_lc : s.abandonFetch.lc = s.lc := rfl
@[simp] theorem abandonFetch_creg : s.abandonFetch.creg = s.creg := rfl
@[simp] theorem abandonFetch_csDesc : s.abandonFetch.csDesc = s.csDesc := rfl
@[simp] theorem abandonFetch_segs : s.abandonFetch.segs = s.segs := rfl
@[simp] theorem abandonFetch_pma : s.abandonFetch.pma = s.pma := rfl
@[simp] theorem abandonFetch_sys : s.abandonFetch.sys = s.sys := rfl
@[simp] theorem abandonFetch_vregs : s.abandonFetch.vregs = s.vregs := rfl
@[simp] theorem abandonFetch_masks : s.abandonFetch.masks = s.masks := rfl
@[simp] theorem abandonFetch_vl : s.abandonFetch.vl = s.vl := rfl
@[simp] theorem abandonFetch_mode : s.abandonFetch.mode = s.mode := rfl
@[simp] theorem abandonFetch_csr : s.abandonFetch.csr = s.csr := rfl
@[simp] theorem abandonFetch_resv : s.abandonFetch.resv = s.resv := rfl
@[simp] theorem abandonFetch_sema : s.abandonFetch.sema = s.sema := rfl
@[simp] theorem abandonFetch_keyCache : s.abandonFetch.keyCache = s.keyCache := rfl
@[simp] theorem abandonFetch_rewritten : s.abandonFetch.rewritten = s.rewritten := rfl
@[simp] theorem abandonFetch_queues : s.abandonFetch.queues = s.queues := rfl
@[simp] theorem abandonFetch_nna : s.abandonFetch.nna = s.nna := rfl
@[simp] theorem abandonFetch_gfx : s.abandonFetch.gfx = s.gfx := rfl
@[simp] theorem abandonFetch_mem : s.abandonFetch.mem = s.mem := rfl
@[simp] theorem abandonFetch_stale : s.abandonFetch.stale = s.stale := rfl
@[simp] theorem abandonFetch_pending : s.abandonFetch.pending = s.pending := rfl
@[simp] theorem abandonFetch_inputs : s.abandonFetch.inputs = s.inputs := rfl
@[simp] theorem abandonFetch_env : s.abandonFetch.env = s.env := rfl
@[simp] theorem abandonFetch_era : s.abandonFetch.era = s.era := rfl
@[simp] theorem abandonFetch_draw : s.abandonFetch.draw = s.draw := rfl
@[simp] theorem abandonFetch_config : s.abandonFetch.config = s.config := rfl

/-! #### setTvecLow -/

@[simp] theorem setTvecLow_regs (n : BitVec 2) (w : Word) : (s.setTvecLow n w).regs = s.regs := rfl
@[simp] theorem setTvecLow_lc (n : BitVec 2) (w : Word) : (s.setTvecLow n w).lc = s.lc := rfl
@[simp] theorem setTvecLow_creg (n : BitVec 2) (w : Word) : (s.setTvecLow n w).creg = s.creg := rfl
@[simp] theorem setTvecLow_csDesc (n : BitVec 2) (w : Word) : (s.setTvecLow n w).csDesc = s.csDesc := rfl
@[simp] theorem setTvecLow_segs (n : BitVec 2) (w : Word) : (s.setTvecLow n w).segs = s.segs := rfl
@[simp] theorem setTvecLow_pma (n : BitVec 2) (w : Word) : (s.setTvecLow n w).pma = s.pma := rfl
@[simp] theorem setTvecLow_sys (n : BitVec 2) (w : Word) : (s.setTvecLow n w).sys = s.sys := rfl
@[simp] theorem setTvecLow_vregs (n : BitVec 2) (w : Word) : (s.setTvecLow n w).vregs = s.vregs := rfl
@[simp] theorem setTvecLow_masks (n : BitVec 2) (w : Word) : (s.setTvecLow n w).masks = s.masks := rfl
@[simp] theorem setTvecLow_vl (n : BitVec 2) (w : Word) : (s.setTvecLow n w).vl = s.vl := rfl
@[simp] theorem setTvecLow_mode (n : BitVec 2) (w : Word) : (s.setTvecLow n w).mode = s.mode := rfl
@[simp] theorem setTvecLow_resv (n : BitVec 2) (w : Word) : (s.setTvecLow n w).resv = s.resv := rfl
@[simp] theorem setTvecLow_sema (n : BitVec 2) (w : Word) : (s.setTvecLow n w).sema = s.sema := rfl
@[simp] theorem setTvecLow_tlb (n : BitVec 2) (w : Word) : (s.setTvecLow n w).tlb = s.tlb := rfl
@[simp] theorem setTvecLow_keyCache (n : BitVec 2) (w : Word) : (s.setTvecLow n w).keyCache = s.keyCache := rfl
@[simp] theorem setTvecLow_rewritten (n : BitVec 2) (w : Word) : (s.setTvecLow n w).rewritten = s.rewritten := rfl
@[simp] theorem setTvecLow_queues (n : BitVec 2) (w : Word) : (s.setTvecLow n w).queues = s.queues := rfl
@[simp] theorem setTvecLow_nna (n : BitVec 2) (w : Word) : (s.setTvecLow n w).nna = s.nna := rfl
@[simp] theorem setTvecLow_gfx (n : BitVec 2) (w : Word) : (s.setTvecLow n w).gfx = s.gfx := rfl
@[simp] theorem setTvecLow_mem (n : BitVec 2) (w : Word) : (s.setTvecLow n w).mem = s.mem := rfl
@[simp] theorem setTvecLow_stale (n : BitVec 2) (w : Word) : (s.setTvecLow n w).stale = s.stale := rfl
@[simp] theorem setTvecLow_fetching (n : BitVec 2) (w : Word) : (s.setTvecLow n w).fetching = s.fetching := rfl
@[simp] theorem setTvecLow_inputs (n : BitVec 2) (w : Word) : (s.setTvecLow n w).inputs = s.inputs := rfl
@[simp] theorem setTvecLow_env (n : BitVec 2) (w : Word) : (s.setTvecLow n w).env = s.env := rfl
@[simp] theorem setTvecLow_era (n : BitVec 2) (w : Word) : (s.setTvecLow n w).era = s.era := rfl
@[simp] theorem setTvecLow_draw (n : BitVec 2) (w : Word) : (s.setTvecLow n w).draw = s.draw := rfl
@[simp] theorem setTvecLow_config (n : BitVec 2) (w : Word) : (s.setTvecLow n w).config = s.config := rfl
@[simp] theorem setTvecLow_csr_ie (n : BitVec 2) (w : Word) : (s.setTvecLow n w).csr.ie = s.csr.ie := rfl
@[simp] theorem setTvecLow_csr_cause (n : BitVec 2) (w : Word) : (s.setTvecLow n w).csr.cause = s.csr.cause := rfl
@[simp] theorem setTvecLow_csr_fstat (n : BitVec 2) (w : Word) : (s.setTvecLow n w).csr.fstat = s.csr.fstat := rfl
@[simp] theorem setTvecLow_csr_scratch (n : BitVec 2) (w : Word) : (s.setTvecLow n w).csr.scratch = s.csr.scratch := rfl
@[simp] theorem setTvecLow_csr_time (n : BitVec 2) (w : Word) : (s.setTvecLow n w).csr.time = s.csr.time := rfl
@[simp] theorem setTvecLow_csr_asid (n : BitVec 2) (w : Word) : (s.setTvecLow n w).csr.asid = s.csr.asid := rfl
@[simp] theorem setTvecLow_csr_keys (n : BitVec 2) (w : Word) : (s.setTvecLow n w).csr.keys = s.csr.keys := rfl
@[simp] theorem setTvecLow_csr_cr0 (n : BitVec 2) (w : Word) : (s.setTvecLow n w).csr.cr0 = s.csr.cr0 := rfl
@[simp] theorem setTvecLow_csr_tick (n : BitVec 2) (w : Word) : (s.setTvecLow n w).csr.tick = s.csr.tick := rfl
@[simp] theorem setTvecLow_csr_badaddr (n : BitVec 2) (w : Word) : (s.setTvecLow n w).csr.badaddr = s.csr.badaddr := rfl
@[simp] theorem setTvecLow_csr_badInstr (n : BitVec 2) (w : Word) : (s.setTvecLow n w).csr.badInstr = s.csr.badInstr := rfl
@[simp] theorem setTvecLow_csr_dbad (n : BitVec 2) (w : Word) : (s.setTvecLow n w).csr.dbad = s.csr.dbad := rfl
@[simp] theorem setTvecLow_csr_dbcr (n : BitVec 2) (w : Word) : (s.setTvecLow n w).csr.dbcr = s.csr.dbcr := rfl
@[simp] theorem setTvecLow_csr_dbsr (n : BitVec 2) (w : Word) : (s.setTvecLow n w).csr.dbsr = s.csr.dbsr := rfl
@[simp] theorem setTvecLow_csr_gdtb (n : BitVec 2) (w : Word) : (s.setTvecLow n w).csr.gdtb = s.csr.gdtb := rfl
@[simp] theorem setTvecLow_csr_gdtl (n : BitVec 2) (w : Word) : (s.setTvecLow n w).csr.gdtl = s.csr.gdtl := rfl
@[simp] theorem setTvecLow_csr_tcb (n : BitVec 2) (w : Word) : (s.setTvecLow n w).csr.tcb = s.csr.tcb := rfl
@[simp] theorem setTvecLow_csr_vstep (n : BitVec 2) (w : Word) : (s.setTvecLow n w).csr.vstep = s.csr.vstep := rfl
@[simp] theorem setTvecLow_csr_vtmp (n : BitVec 2) (w : Word) : (s.setTvecLow n w).csr.vtmp = s.csr.vtmp := rfl

/-! #### setTvecHigh -/

@[simp] theorem setTvecHigh_regs (n : BitVec 2) (sel : Selector) : (s.setTvecHigh n sel).regs = s.regs := rfl
@[simp] theorem setTvecHigh_lc (n : BitVec 2) (sel : Selector) : (s.setTvecHigh n sel).lc = s.lc := rfl
@[simp] theorem setTvecHigh_creg (n : BitVec 2) (sel : Selector) : (s.setTvecHigh n sel).creg = s.creg := rfl
@[simp] theorem setTvecHigh_csDesc (n : BitVec 2) (sel : Selector) : (s.setTvecHigh n sel).csDesc = s.csDesc := rfl
@[simp] theorem setTvecHigh_segs (n : BitVec 2) (sel : Selector) : (s.setTvecHigh n sel).segs = s.segs := rfl
@[simp] theorem setTvecHigh_pma (n : BitVec 2) (sel : Selector) : (s.setTvecHigh n sel).pma = s.pma := rfl
@[simp] theorem setTvecHigh_sys (n : BitVec 2) (sel : Selector) : (s.setTvecHigh n sel).sys = s.sys := rfl
@[simp] theorem setTvecHigh_vregs (n : BitVec 2) (sel : Selector) : (s.setTvecHigh n sel).vregs = s.vregs := rfl
@[simp] theorem setTvecHigh_masks (n : BitVec 2) (sel : Selector) : (s.setTvecHigh n sel).masks = s.masks := rfl
@[simp] theorem setTvecHigh_vl (n : BitVec 2) (sel : Selector) : (s.setTvecHigh n sel).vl = s.vl := rfl
@[simp] theorem setTvecHigh_mode (n : BitVec 2) (sel : Selector) : (s.setTvecHigh n sel).mode = s.mode := rfl
@[simp] theorem setTvecHigh_resv (n : BitVec 2) (sel : Selector) : (s.setTvecHigh n sel).resv = s.resv := rfl
@[simp] theorem setTvecHigh_sema (n : BitVec 2) (sel : Selector) : (s.setTvecHigh n sel).sema = s.sema := rfl
@[simp] theorem setTvecHigh_tlb (n : BitVec 2) (sel : Selector) : (s.setTvecHigh n sel).tlb = s.tlb := rfl
@[simp] theorem setTvecHigh_keyCache (n : BitVec 2) (sel : Selector) : (s.setTvecHigh n sel).keyCache = s.keyCache := rfl
@[simp] theorem setTvecHigh_rewritten (n : BitVec 2) (sel : Selector) : (s.setTvecHigh n sel).rewritten = s.rewritten := rfl
@[simp] theorem setTvecHigh_queues (n : BitVec 2) (sel : Selector) : (s.setTvecHigh n sel).queues = s.queues := rfl
@[simp] theorem setTvecHigh_nna (n : BitVec 2) (sel : Selector) : (s.setTvecHigh n sel).nna = s.nna := rfl
@[simp] theorem setTvecHigh_gfx (n : BitVec 2) (sel : Selector) : (s.setTvecHigh n sel).gfx = s.gfx := rfl
@[simp] theorem setTvecHigh_mem (n : BitVec 2) (sel : Selector) : (s.setTvecHigh n sel).mem = s.mem := rfl
@[simp] theorem setTvecHigh_stale (n : BitVec 2) (sel : Selector) : (s.setTvecHigh n sel).stale = s.stale := rfl
@[simp] theorem setTvecHigh_fetching (n : BitVec 2) (sel : Selector) : (s.setTvecHigh n sel).fetching = s.fetching := rfl
@[simp] theorem setTvecHigh_inputs (n : BitVec 2) (sel : Selector) : (s.setTvecHigh n sel).inputs = s.inputs := rfl
@[simp] theorem setTvecHigh_env (n : BitVec 2) (sel : Selector) : (s.setTvecHigh n sel).env = s.env := rfl
@[simp] theorem setTvecHigh_era (n : BitVec 2) (sel : Selector) : (s.setTvecHigh n sel).era = s.era := rfl
@[simp] theorem setTvecHigh_draw (n : BitVec 2) (sel : Selector) : (s.setTvecHigh n sel).draw = s.draw := rfl
@[simp] theorem setTvecHigh_config (n : BitVec 2) (sel : Selector) : (s.setTvecHigh n sel).config = s.config := rfl
@[simp] theorem setTvecHigh_csr_ie (n : BitVec 2) (sel : Selector) : (s.setTvecHigh n sel).csr.ie = s.csr.ie := rfl
@[simp] theorem setTvecHigh_csr_cause (n : BitVec 2) (sel : Selector) : (s.setTvecHigh n sel).csr.cause = s.csr.cause := rfl
@[simp] theorem setTvecHigh_csr_fstat (n : BitVec 2) (sel : Selector) : (s.setTvecHigh n sel).csr.fstat = s.csr.fstat := rfl
@[simp] theorem setTvecHigh_csr_scratch (n : BitVec 2) (sel : Selector) : (s.setTvecHigh n sel).csr.scratch = s.csr.scratch := rfl
@[simp] theorem setTvecHigh_csr_time (n : BitVec 2) (sel : Selector) : (s.setTvecHigh n sel).csr.time = s.csr.time := rfl
@[simp] theorem setTvecHigh_csr_asid (n : BitVec 2) (sel : Selector) : (s.setTvecHigh n sel).csr.asid = s.csr.asid := rfl
@[simp] theorem setTvecHigh_csr_keys (n : BitVec 2) (sel : Selector) : (s.setTvecHigh n sel).csr.keys = s.csr.keys := rfl
@[simp] theorem setTvecHigh_csr_cr0 (n : BitVec 2) (sel : Selector) : (s.setTvecHigh n sel).csr.cr0 = s.csr.cr0 := rfl
@[simp] theorem setTvecHigh_csr_tick (n : BitVec 2) (sel : Selector) : (s.setTvecHigh n sel).csr.tick = s.csr.tick := rfl
@[simp] theorem setTvecHigh_csr_badaddr (n : BitVec 2) (sel : Selector) : (s.setTvecHigh n sel).csr.badaddr = s.csr.badaddr := rfl
@[simp] theorem setTvecHigh_csr_badInstr (n : BitVec 2) (sel : Selector) : (s.setTvecHigh n sel).csr.badInstr = s.csr.badInstr := rfl
@[simp] theorem setTvecHigh_csr_dbad (n : BitVec 2) (sel : Selector) : (s.setTvecHigh n sel).csr.dbad = s.csr.dbad := rfl
@[simp] theorem setTvecHigh_csr_dbcr (n : BitVec 2) (sel : Selector) : (s.setTvecHigh n sel).csr.dbcr = s.csr.dbcr := rfl
@[simp] theorem setTvecHigh_csr_dbsr (n : BitVec 2) (sel : Selector) : (s.setTvecHigh n sel).csr.dbsr = s.csr.dbsr := rfl
@[simp] theorem setTvecHigh_csr_gdtb (n : BitVec 2) (sel : Selector) : (s.setTvecHigh n sel).csr.gdtb = s.csr.gdtb := rfl
@[simp] theorem setTvecHigh_csr_gdtl (n : BitVec 2) (sel : Selector) : (s.setTvecHigh n sel).csr.gdtl = s.csr.gdtl := rfl
@[simp] theorem setTvecHigh_csr_tcb (n : BitVec 2) (sel : Selector) : (s.setTvecHigh n sel).csr.tcb = s.csr.tcb := rfl
@[simp] theorem setTvecHigh_csr_vstep (n : BitVec 2) (sel : Selector) : (s.setTvecHigh n sel).csr.vstep = s.csr.vstep := rfl
@[simp] theorem setTvecHigh_csr_vtmp (n : BitVec 2) (sel : Selector) : (s.setTvecHigh n sel).csr.vtmp = s.csr.vtmp := rfl

/-! #### setQueue -/

@[simp] theorem setQueue_regs (q : BitVec 4) (l : List (BitVec 112)) : (s.setQueue q l).regs = s.regs := rfl
@[simp] theorem setQueue_lc (q : BitVec 4) (l : List (BitVec 112)) : (s.setQueue q l).lc = s.lc := rfl
@[simp] theorem setQueue_creg (q : BitVec 4) (l : List (BitVec 112)) : (s.setQueue q l).creg = s.creg := rfl
@[simp] theorem setQueue_csDesc (q : BitVec 4) (l : List (BitVec 112)) : (s.setQueue q l).csDesc = s.csDesc := rfl
@[simp] theorem setQueue_segs (q : BitVec 4) (l : List (BitVec 112)) : (s.setQueue q l).segs = s.segs := rfl
@[simp] theorem setQueue_pma (q : BitVec 4) (l : List (BitVec 112)) : (s.setQueue q l).pma = s.pma := rfl
@[simp] theorem setQueue_sys (q : BitVec 4) (l : List (BitVec 112)) : (s.setQueue q l).sys = s.sys := rfl
@[simp] theorem setQueue_vregs (q : BitVec 4) (l : List (BitVec 112)) : (s.setQueue q l).vregs = s.vregs := rfl
@[simp] theorem setQueue_masks (q : BitVec 4) (l : List (BitVec 112)) : (s.setQueue q l).masks = s.masks := rfl
@[simp] theorem setQueue_vl (q : BitVec 4) (l : List (BitVec 112)) : (s.setQueue q l).vl = s.vl := rfl
@[simp] theorem setQueue_mode (q : BitVec 4) (l : List (BitVec 112)) : (s.setQueue q l).mode = s.mode := rfl
@[simp] theorem setQueue_csr (q : BitVec 4) (l : List (BitVec 112)) : (s.setQueue q l).csr = s.csr := rfl
@[simp] theorem setQueue_resv (q : BitVec 4) (l : List (BitVec 112)) : (s.setQueue q l).resv = s.resv := rfl
@[simp] theorem setQueue_sema (q : BitVec 4) (l : List (BitVec 112)) : (s.setQueue q l).sema = s.sema := rfl
@[simp] theorem setQueue_tlb (q : BitVec 4) (l : List (BitVec 112)) : (s.setQueue q l).tlb = s.tlb := rfl
@[simp] theorem setQueue_keyCache (q : BitVec 4) (l : List (BitVec 112)) : (s.setQueue q l).keyCache = s.keyCache := rfl
@[simp] theorem setQueue_rewritten (q : BitVec 4) (l : List (BitVec 112)) : (s.setQueue q l).rewritten = s.rewritten := rfl
@[simp] theorem setQueue_nna (q : BitVec 4) (l : List (BitVec 112)) : (s.setQueue q l).nna = s.nna := rfl
@[simp] theorem setQueue_gfx (q : BitVec 4) (l : List (BitVec 112)) : (s.setQueue q l).gfx = s.gfx := rfl
@[simp] theorem setQueue_mem (q : BitVec 4) (l : List (BitVec 112)) : (s.setQueue q l).mem = s.mem := rfl
@[simp] theorem setQueue_stale (q : BitVec 4) (l : List (BitVec 112)) : (s.setQueue q l).stale = s.stale := rfl
@[simp] theorem setQueue_pending (q : BitVec 4) (l : List (BitVec 112)) : (s.setQueue q l).pending = s.pending := rfl
@[simp] theorem setQueue_fetching (q : BitVec 4) (l : List (BitVec 112)) : (s.setQueue q l).fetching = s.fetching := rfl
@[simp] theorem setQueue_inputs (q : BitVec 4) (l : List (BitVec 112)) : (s.setQueue q l).inputs = s.inputs := rfl
@[simp] theorem setQueue_env (q : BitVec 4) (l : List (BitVec 112)) : (s.setQueue q l).env = s.env := rfl
@[simp] theorem setQueue_era (q : BitVec 4) (l : List (BitVec 112)) : (s.setQueue q l).era = s.era := rfl
@[simp] theorem setQueue_draw (q : BitVec 4) (l : List (BitVec 112)) : (s.setQueue q l).draw = s.draw := rfl
@[simp] theorem setQueue_config (q : BitVec 4) (l : List (BitVec 112)) : (s.setQueue q l).config = s.config := rfl

/-! #### storeByte -/

@[simp] theorem storeByte_regs (a : Nat) (b : Byte) : (s.storeByte a b).regs = s.regs := by
  unfold storeByte; dsimp only; split <;> rfl
@[simp] theorem storeByte_lc (a : Nat) (b : Byte) : (s.storeByte a b).lc = s.lc := by
  unfold storeByte; dsimp only; split <;> rfl
@[simp] theorem storeByte_creg (a : Nat) (b : Byte) : (s.storeByte a b).creg = s.creg := by
  unfold storeByte; dsimp only; split <;> rfl
@[simp] theorem storeByte_csDesc (a : Nat) (b : Byte) : (s.storeByte a b).csDesc = s.csDesc := by
  unfold storeByte; dsimp only; split <;> rfl
@[simp] theorem storeByte_segs (a : Nat) (b : Byte) : (s.storeByte a b).segs = s.segs := by
  unfold storeByte; dsimp only; split <;> rfl
@[simp] theorem storeByte_pma (a : Nat) (b : Byte) : (s.storeByte a b).pma = s.pma := by
  unfold storeByte; dsimp only; split <;> rfl
@[simp] theorem storeByte_sys (a : Nat) (b : Byte) : (s.storeByte a b).sys = s.sys := by
  unfold storeByte; dsimp only; split <;> rfl
@[simp] theorem storeByte_vregs (a : Nat) (b : Byte) : (s.storeByte a b).vregs = s.vregs := by
  unfold storeByte; dsimp only; split <;> rfl
@[simp] theorem storeByte_masks (a : Nat) (b : Byte) : (s.storeByte a b).masks = s.masks := by
  unfold storeByte; dsimp only; split <;> rfl
@[simp] theorem storeByte_vl (a : Nat) (b : Byte) : (s.storeByte a b).vl = s.vl := by
  unfold storeByte; dsimp only; split <;> rfl
@[simp] theorem storeByte_mode (a : Nat) (b : Byte) : (s.storeByte a b).mode = s.mode := by
  unfold storeByte; dsimp only; split <;> rfl
@[simp] theorem storeByte_csr (a : Nat) (b : Byte) : (s.storeByte a b).csr = s.csr := by
  unfold storeByte; dsimp only; split <;> rfl
@[simp] theorem storeByte_resv (a : Nat) (b : Byte) : (s.storeByte a b).resv = s.resv := by
  unfold storeByte; dsimp only; split <;> rfl
@[simp] theorem storeByte_sema (a : Nat) (b : Byte) : (s.storeByte a b).sema = s.sema := by
  unfold storeByte; dsimp only; split <;> rfl
@[simp] theorem storeByte_tlb (a : Nat) (b : Byte) : (s.storeByte a b).tlb = s.tlb := by
  unfold storeByte; dsimp only; split <;> rfl
@[simp] theorem storeByte_keyCache (a : Nat) (b : Byte) : (s.storeByte a b).keyCache = s.keyCache := by
  unfold storeByte; dsimp only; split <;> rfl
@[simp] theorem storeByte_rewritten (a : Nat) (b : Byte) : (s.storeByte a b).rewritten = s.rewritten := by
  unfold storeByte; dsimp only; split <;> rfl
@[simp] theorem storeByte_queues (a : Nat) (b : Byte) : (s.storeByte a b).queues = s.queues := by
  unfold storeByte; dsimp only; split <;> rfl
@[simp] theorem storeByte_nna (a : Nat) (b : Byte) : (s.storeByte a b).nna = s.nna := by
  unfold storeByte; dsimp only; split <;> rfl
@[simp] theorem storeByte_gfx (a : Nat) (b : Byte) : (s.storeByte a b).gfx = s.gfx := by
  unfold storeByte; dsimp only; split <;> rfl
@[simp] theorem storeByte_pending (a : Nat) (b : Byte) : (s.storeByte a b).pending = s.pending := by
  unfold storeByte; dsimp only; split <;> rfl
@[simp] theorem storeByte_fetching (a : Nat) (b : Byte) : (s.storeByte a b).fetching = s.fetching := by
  unfold storeByte; dsimp only; split <;> rfl
@[simp] theorem storeByte_inputs (a : Nat) (b : Byte) : (s.storeByte a b).inputs = s.inputs := by
  unfold storeByte; dsimp only; split <;> rfl
@[simp] theorem storeByte_env (a : Nat) (b : Byte) : (s.storeByte a b).env = s.env := by
  unfold storeByte; dsimp only; split <;> rfl
@[simp] theorem storeByte_era (a : Nat) (b : Byte) : (s.storeByte a b).era = s.era := by
  unfold storeByte; dsimp only; split <;> rfl
@[simp] theorem storeByte_draw (a : Nat) (b : Byte) : (s.storeByte a b).draw = s.draw := by
  unfold storeByte; dsimp only; split <;> rfl
@[simp] theorem storeByte_config (a : Nat) (b : Byte) : (s.storeByte a b).config = s.config := by
  unfold storeByte; dsimp only; split <;> rfl

/-! #### begin -/

@[simp] theorem begin_regs : s.begin.regs = s.regs := rfl
@[simp] theorem begin_lc : s.begin.lc = s.lc := rfl
@[simp] theorem begin_creg : s.begin.creg = s.creg := rfl
@[simp] theorem begin_csDesc : s.begin.csDesc = s.csDesc := rfl
@[simp] theorem begin_segs : s.begin.segs = s.segs := rfl
@[simp] theorem begin_pma : s.begin.pma = s.pma := rfl
@[simp] theorem begin_sys : s.begin.sys = s.sys := rfl
@[simp] theorem begin_vregs : s.begin.vregs = s.vregs := rfl
@[simp] theorem begin_masks : s.begin.masks = s.masks := rfl
@[simp] theorem begin_vl : s.begin.vl = s.vl := rfl
@[simp] theorem begin_csr : s.begin.csr = s.csr := rfl
@[simp] theorem begin_resv : s.begin.resv = s.resv := rfl
@[simp] theorem begin_sema : s.begin.sema = s.sema := rfl
@[simp] theorem begin_tlb : s.begin.tlb = s.tlb := rfl
@[simp] theorem begin_keyCache : s.begin.keyCache = s.keyCache := rfl
@[simp] theorem begin_rewritten : s.begin.rewritten = s.rewritten := rfl
@[simp] theorem begin_queues : s.begin.queues = s.queues := rfl
@[simp] theorem begin_nna : s.begin.nna = s.nna := rfl
@[simp] theorem begin_gfx : s.begin.gfx = s.gfx := rfl
@[simp] theorem begin_mem : s.begin.mem = s.mem := rfl
@[simp] theorem begin_stale : s.begin.stale = s.stale := rfl
@[simp] theorem begin_pending : s.begin.pending = s.pending := rfl
@[simp] theorem begin_fetching : s.begin.fetching = s.fetching := rfl
@[simp] theorem begin_inputs : s.begin.inputs = s.inputs := rfl
@[simp] theorem begin_env : s.begin.env = s.env := rfl
@[simp] theorem begin_era : s.begin.era = s.era := rfl
@[simp] theorem begin_config : s.begin.config = s.config := rfl

/-! #### updateNeurons -/

@[simp] theorem updateNeurons_regs (n : BitVec 8) (g : Neuron → Neuron) : (s.updateNeurons n g).regs = s.regs := rfl
@[simp] theorem updateNeurons_lc (n : BitVec 8) (g : Neuron → Neuron) : (s.updateNeurons n g).lc = s.lc := rfl
@[simp] theorem updateNeurons_creg (n : BitVec 8) (g : Neuron → Neuron) : (s.updateNeurons n g).creg = s.creg := rfl
@[simp] theorem updateNeurons_csDesc (n : BitVec 8) (g : Neuron → Neuron) : (s.updateNeurons n g).csDesc = s.csDesc := rfl
@[simp] theorem updateNeurons_segs (n : BitVec 8) (g : Neuron → Neuron) : (s.updateNeurons n g).segs = s.segs := rfl
@[simp] theorem updateNeurons_pma (n : BitVec 8) (g : Neuron → Neuron) : (s.updateNeurons n g).pma = s.pma := rfl
@[simp] theorem updateNeurons_sys (n : BitVec 8) (g : Neuron → Neuron) : (s.updateNeurons n g).sys = s.sys := rfl
@[simp] theorem updateNeurons_vregs (n : BitVec 8) (g : Neuron → Neuron) : (s.updateNeurons n g).vregs = s.vregs := rfl
@[simp] theorem updateNeurons_masks (n : BitVec 8) (g : Neuron → Neuron) : (s.updateNeurons n g).masks = s.masks := rfl
@[simp] theorem updateNeurons_vl (n : BitVec 8) (g : Neuron → Neuron) : (s.updateNeurons n g).vl = s.vl := rfl
@[simp] theorem updateNeurons_mode (n : BitVec 8) (g : Neuron → Neuron) : (s.updateNeurons n g).mode = s.mode := rfl
@[simp] theorem updateNeurons_csr (n : BitVec 8) (g : Neuron → Neuron) : (s.updateNeurons n g).csr = s.csr := rfl
@[simp] theorem updateNeurons_resv (n : BitVec 8) (g : Neuron → Neuron) : (s.updateNeurons n g).resv = s.resv := rfl
@[simp] theorem updateNeurons_sema (n : BitVec 8) (g : Neuron → Neuron) : (s.updateNeurons n g).sema = s.sema := rfl
@[simp] theorem updateNeurons_tlb (n : BitVec 8) (g : Neuron → Neuron) : (s.updateNeurons n g).tlb = s.tlb := rfl
@[simp] theorem updateNeurons_keyCache (n : BitVec 8) (g : Neuron → Neuron) : (s.updateNeurons n g).keyCache = s.keyCache := rfl
@[simp] theorem updateNeurons_rewritten (n : BitVec 8) (g : Neuron → Neuron) : (s.updateNeurons n g).rewritten = s.rewritten := rfl
@[simp] theorem updateNeurons_queues (n : BitVec 8) (g : Neuron → Neuron) : (s.updateNeurons n g).queues = s.queues := rfl
@[simp] theorem updateNeurons_gfx (n : BitVec 8) (g : Neuron → Neuron) : (s.updateNeurons n g).gfx = s.gfx := rfl
@[simp] theorem updateNeurons_mem (n : BitVec 8) (g : Neuron → Neuron) : (s.updateNeurons n g).mem = s.mem := rfl
@[simp] theorem updateNeurons_stale (n : BitVec 8) (g : Neuron → Neuron) : (s.updateNeurons n g).stale = s.stale := rfl
@[simp] theorem updateNeurons_pending (n : BitVec 8) (g : Neuron → Neuron) : (s.updateNeurons n g).pending = s.pending := rfl
@[simp] theorem updateNeurons_fetching (n : BitVec 8) (g : Neuron → Neuron) : (s.updateNeurons n g).fetching = s.fetching := rfl
@[simp] theorem updateNeurons_inputs (n : BitVec 8) (g : Neuron → Neuron) : (s.updateNeurons n g).inputs = s.inputs := rfl
@[simp] theorem updateNeurons_env (n : BitVec 8) (g : Neuron → Neuron) : (s.updateNeurons n g).env = s.env := rfl
@[simp] theorem updateNeurons_era (n : BitVec 8) (g : Neuron → Neuron) : (s.updateNeurons n g).era = s.era := rfl
@[simp] theorem updateNeurons_draw (n : BitVec 8) (g : Neuron → Neuron) : (s.updateNeurons n g).draw = s.draw := rfl
@[simp] theorem updateNeurons_config (n : BitVec 8) (g : Neuron → Neuron) : (s.updateNeurons n g).config = s.config := rfl

/-! #### setGreg -/

@[simp] theorem setGreg_regs (n : Nat) (w : BitVec 40) : (s.setGreg n w).regs = s.regs := rfl
@[simp] theorem setGreg_lc (n : Nat) (w : BitVec 40) : (s.setGreg n w).lc = s.lc := rfl
@[simp] theorem setGreg_creg (n : Nat) (w : BitVec 40) : (s.setGreg n w).creg = s.creg := rfl
@[simp] theorem setGreg_csDesc (n : Nat) (w : BitVec 40) : (s.setGreg n w).csDesc = s.csDesc := rfl
@[simp] theorem setGreg_segs (n : Nat) (w : BitVec 40) : (s.setGreg n w).segs = s.segs := rfl
@[simp] theorem setGreg_pma (n : Nat) (w : BitVec 40) : (s.setGreg n w).pma = s.pma := rfl
@[simp] theorem setGreg_sys (n : Nat) (w : BitVec 40) : (s.setGreg n w).sys = s.sys := rfl
@[simp] theorem setGreg_vregs (n : Nat) (w : BitVec 40) : (s.setGreg n w).vregs = s.vregs := rfl
@[simp] theorem setGreg_masks (n : Nat) (w : BitVec 40) : (s.setGreg n w).masks = s.masks := rfl
@[simp] theorem setGreg_vl (n : Nat) (w : BitVec 40) : (s.setGreg n w).vl = s.vl := rfl
@[simp] theorem setGreg_mode (n : Nat) (w : BitVec 40) : (s.setGreg n w).mode = s.mode := rfl
@[simp] theorem setGreg_csr (n : Nat) (w : BitVec 40) : (s.setGreg n w).csr = s.csr := rfl
@[simp] theorem setGreg_resv (n : Nat) (w : BitVec 40) : (s.setGreg n w).resv = s.resv := rfl
@[simp] theorem setGreg_sema (n : Nat) (w : BitVec 40) : (s.setGreg n w).sema = s.sema := rfl
@[simp] theorem setGreg_tlb (n : Nat) (w : BitVec 40) : (s.setGreg n w).tlb = s.tlb := rfl
@[simp] theorem setGreg_keyCache (n : Nat) (w : BitVec 40) : (s.setGreg n w).keyCache = s.keyCache := rfl
@[simp] theorem setGreg_rewritten (n : Nat) (w : BitVec 40) : (s.setGreg n w).rewritten = s.rewritten := rfl
@[simp] theorem setGreg_queues (n : Nat) (w : BitVec 40) : (s.setGreg n w).queues = s.queues := rfl
@[simp] theorem setGreg_nna (n : Nat) (w : BitVec 40) : (s.setGreg n w).nna = s.nna := rfl
@[simp] theorem setGreg_mem (n : Nat) (w : BitVec 40) : (s.setGreg n w).mem = s.mem := rfl
@[simp] theorem setGreg_stale (n : Nat) (w : BitVec 40) : (s.setGreg n w).stale = s.stale := rfl
@[simp] theorem setGreg_pending (n : Nat) (w : BitVec 40) : (s.setGreg n w).pending = s.pending := rfl
@[simp] theorem setGreg_fetching (n : Nat) (w : BitVec 40) : (s.setGreg n w).fetching = s.fetching := rfl
@[simp] theorem setGreg_inputs (n : Nat) (w : BitVec 40) : (s.setGreg n w).inputs = s.inputs := rfl
@[simp] theorem setGreg_env (n : Nat) (w : BitVec 40) : (s.setGreg n w).env = s.env := rfl
@[simp] theorem setGreg_era (n : Nat) (w : BitVec 40) : (s.setGreg n w).era = s.era := rfl
@[simp] theorem setGreg_draw (n : Nat) (w : BitVec 40) : (s.setGreg n w).draw = s.draw := rfl
@[simp] theorem setGreg_config (n : Nat) (w : BitVec 40) : (s.setGreg n w).config = s.config := rfl

/-! #### link -/

@[simp] theorem link_regs (k : BitVec 2) (a : Word) : (s.link k a).regs = s.regs := by
  unfold link; repeat' split
  all_goals rfl
@[simp] theorem link_lc (k : BitVec 2) (a : Word) : (s.link k a).lc = s.lc := by
  unfold link; repeat' split
  all_goals rfl
@[simp] theorem link_csDesc (k : BitVec 2) (a : Word) : (s.link k a).csDesc = s.csDesc := by
  unfold link; repeat' split
  all_goals rfl
@[simp] theorem link_segs (k : BitVec 2) (a : Word) : (s.link k a).segs = s.segs := by
  unfold link; repeat' split
  all_goals rfl
@[simp] theorem link_pma (k : BitVec 2) (a : Word) : (s.link k a).pma = s.pma := by
  unfold link; repeat' split
  all_goals rfl
@[simp] theorem link_sys (k : BitVec 2) (a : Word) : (s.link k a).sys = s.sys := by
  unfold link; repeat' split
  all_goals rfl
@[simp] theorem link_vregs (k : BitVec 2) (a : Word) : (s.link k a).vregs = s.vregs := by
  unfold link; repeat' split
  all_goals rfl
@[simp] theorem link_masks (k : BitVec 2) (a : Word) : (s.link k a).masks = s.masks := by
  unfold link; repeat' split
  all_goals rfl
@[simp] theorem link_vl (k : BitVec 2) (a : Word) : (s.link k a).vl = s.vl := by
  unfold link; repeat' split
  all_goals rfl
@[simp] theorem link_mode (k : BitVec 2) (a : Word) : (s.link k a).mode = s.mode := by
  unfold link; repeat' split
  all_goals rfl
@[simp] theorem link_csr (k : BitVec 2) (a : Word) : (s.link k a).csr = s.csr := by
  unfold link; repeat' split
  all_goals rfl
@[simp] theorem link_resv (k : BitVec 2) (a : Word) : (s.link k a).resv = s.resv := by
  unfold link; repeat' split
  all_goals rfl
@[simp] theorem link_sema (k : BitVec 2) (a : Word) : (s.link k a).sema = s.sema := by
  unfold link; repeat' split
  all_goals rfl
@[simp] theorem link_tlb (k : BitVec 2) (a : Word) : (s.link k a).tlb = s.tlb := by
  unfold link; repeat' split
  all_goals rfl
@[simp] theorem link_keyCache (k : BitVec 2) (a : Word) : (s.link k a).keyCache = s.keyCache := by
  unfold link; repeat' split
  all_goals rfl
@[simp] theorem link_rewritten (k : BitVec 2) (a : Word) : (s.link k a).rewritten = s.rewritten := by
  unfold link; repeat' split
  all_goals rfl
@[simp] theorem link_queues (k : BitVec 2) (a : Word) : (s.link k a).queues = s.queues := by
  unfold link; repeat' split
  all_goals rfl
@[simp] theorem link_nna (k : BitVec 2) (a : Word) : (s.link k a).nna = s.nna := by
  unfold link; repeat' split
  all_goals rfl
@[simp] theorem link_gfx (k : BitVec 2) (a : Word) : (s.link k a).gfx = s.gfx := by
  unfold link; repeat' split
  all_goals rfl
@[simp] theorem link_mem (k : BitVec 2) (a : Word) : (s.link k a).mem = s.mem := by
  unfold link; repeat' split
  all_goals rfl
@[simp] theorem link_stale (k : BitVec 2) (a : Word) : (s.link k a).stale = s.stale := by
  unfold link; repeat' split
  all_goals rfl
@[simp] theorem link_pending (k : BitVec 2) (a : Word) : (s.link k a).pending = s.pending := by
  unfold link; repeat' split
  all_goals rfl
@[simp] theorem link_fetching (k : BitVec 2) (a : Word) : (s.link k a).fetching = s.fetching := by
  unfold link; repeat' split
  all_goals rfl
@[simp] theorem link_inputs (k : BitVec 2) (a : Word) : (s.link k a).inputs = s.inputs := by
  unfold link; repeat' split
  all_goals rfl
@[simp] theorem link_env (k : BitVec 2) (a : Word) : (s.link k a).env = s.env := by
  unfold link; repeat' split
  all_goals rfl
@[simp] theorem link_era (k : BitVec 2) (a : Word) : (s.link k a).era = s.era := by
  unfold link; repeat' split
  all_goals rfl
@[simp] theorem link_draw (k : BitVec 2) (a : Word) : (s.link k a).draw = s.draw := by
  unfold link; repeat' split
  all_goals rfl
@[simp] theorem link_config (k : BitVec 2) (a : Word) : (s.link k a).config = s.config := by
  unfold link; repeat' split
  all_goals rfl

/-! #### countLoop -/

@[simp] theorem countLoop_regs (d : Bool) : (s.countLoop d).regs = s.regs := by
  unfold countLoop; split <;> rfl
@[simp] theorem countLoop_creg (d : Bool) : (s.countLoop d).creg = s.creg := by
  unfold countLoop; split <;> rfl
@[simp] theorem countLoop_csDesc (d : Bool) : (s.countLoop d).csDesc = s.csDesc := by
  unfold countLoop; split <;> rfl
@[simp] theorem countLoop_segs (d : Bool) : (s.countLoop d).segs = s.segs := by
  unfold countLoop; split <;> rfl
@[simp] theorem countLoop_pma (d : Bool) : (s.countLoop d).pma = s.pma := by
  unfold countLoop; split <;> rfl
@[simp] theorem countLoop_sys (d : Bool) : (s.countLoop d).sys = s.sys := by
  unfold countLoop; split <;> rfl
@[simp] theorem countLoop_vregs (d : Bool) : (s.countLoop d).vregs = s.vregs := by
  unfold countLoop; split <;> rfl
@[simp] theorem countLoop_masks (d : Bool) : (s.countLoop d).masks = s.masks := by
  unfold countLoop; split <;> rfl
@[simp] theorem countLoop_vl (d : Bool) : (s.countLoop d).vl = s.vl := by
  unfold countLoop; split <;> rfl
@[simp] theorem countLoop_mode (d : Bool) : (s.countLoop d).mode = s.mode := by
  unfold countLoop; split <;> rfl
@[simp] theorem countLoop_csr (d : Bool) : (s.countLoop d).csr = s.csr := by
  unfold countLoop; split <;> rfl
@[simp] theorem countLoop_resv (d : Bool) : (s.countLoop d).resv = s.resv := by
  unfold countLoop; split <;> rfl
@[simp] theorem countLoop_sema (d : Bool) : (s.countLoop d).sema = s.sema := by
  unfold countLoop; split <;> rfl
@[simp] theorem countLoop_tlb (d : Bool) : (s.countLoop d).tlb = s.tlb := by
  unfold countLoop; split <;> rfl
@[simp] theorem countLoop_keyCache (d : Bool) : (s.countLoop d).keyCache = s.keyCache := by
  unfold countLoop; split <;> rfl
@[simp] theorem countLoop_rewritten (d : Bool) : (s.countLoop d).rewritten = s.rewritten := by
  unfold countLoop; split <;> rfl
@[simp] theorem countLoop_queues (d : Bool) : (s.countLoop d).queues = s.queues := by
  unfold countLoop; split <;> rfl
@[simp] theorem countLoop_nna (d : Bool) : (s.countLoop d).nna = s.nna := by
  unfold countLoop; split <;> rfl
@[simp] theorem countLoop_gfx (d : Bool) : (s.countLoop d).gfx = s.gfx := by
  unfold countLoop; split <;> rfl
@[simp] theorem countLoop_mem (d : Bool) : (s.countLoop d).mem = s.mem := by
  unfold countLoop; split <;> rfl
@[simp] theorem countLoop_stale (d : Bool) : (s.countLoop d).stale = s.stale := by
  unfold countLoop; split <;> rfl
@[simp] theorem countLoop_pending (d : Bool) : (s.countLoop d).pending = s.pending := by
  unfold countLoop; split <;> rfl
@[simp] theorem countLoop_fetching (d : Bool) : (s.countLoop d).fetching = s.fetching := by
  unfold countLoop; split <;> rfl
@[simp] theorem countLoop_inputs (d : Bool) : (s.countLoop d).inputs = s.inputs := by
  unfold countLoop; split <;> rfl
@[simp] theorem countLoop_env (d : Bool) : (s.countLoop d).env = s.env := by
  unfold countLoop; split <;> rfl
@[simp] theorem countLoop_era (d : Bool) : (s.countLoop d).era = s.era := by
  unfold countLoop; split <;> rfl
@[simp] theorem countLoop_draw (d : Bool) : (s.countLoop d).draw = s.draw := by
  unfold countLoop; split <;> rfl
@[simp] theorem countLoop_config (d : Bool) : (s.countLoop d).config = s.config := by
  unfold countLoop; split <;> rfl

/-! #### What an update writes -/

@[simp] theorem setVstep_vstep (x : Nat) : (s.setVstep x).csr.vstep = BitVec.ofNat 8 x := rfl
@[simp] theorem setFstat_fstat (w : Word) : (s.setFstat w).csr.fstat = w := rfl
@[simp] theorem setLc_lc (w : Word) : (s.setLc w).lc = w := rfl
@[simp] theorem fresh_draw : s.fresh.draw = s.draw + 1 := rfl
@[simp] theorem setMask_masks (n : BitVec 3) (w : Word) : (s.setMask n w).masks = s.masks.set n.toNat w n.isLt := rfl
@[simp] theorem setQueue_queues (q : BitVec 4) (l : List (BitVec 112)) :
    (s.setQueue q l).queues = s.queues.set q.toNat l q.isLt := rfl
@[simp] theorem setTlbEntry_tlb (w e : Nat) (t : Word) :
    (s.setTlbEntry w e t).tlb = sparseSet 0 s.tlb (1024 * w + e) t := rfl
@[simp] theorem setCodeAddr_creg (n : BitVec 3) (c : CodeAddr) :
    (s.setCodeAddr n c).creg = s.creg.set n.toNat c n.isLt := rfl
@[simp] theorem begin_draw : s.begin.draw = s.draw + 1 := rfl
@[simp] theorem begin_pmStack : s.begin.mode.pmStack = s.mode.pmStack := rfl
@[simp] theorem begin_hkind : s.begin.mode.hkind = s.mode.hkind := rfl
@[simp] theorem begin_dbg : s.begin.mode.dbg = s.mode.dbg := rfl

/-! #### Registers -/

/-- Register number 27 is banked to one of r27 to r30, every other number is its own register: none is r0's place. -/
theorem bank_ne_zero (n : RegNum) (h : n ≠ 0#6) : s.bank n ≠ 0#6 := by
  unfold bank
  split
  · split
    · decide
    · split
      · decide
      · split <;> decide
  · exact h

/-- Two register numbers other than 0 name one register exactly when they are banked alike. -/
theorem setReg_reg (n k : RegNum) (w : Word) :
    (s.setReg n w).reg k = if n ≠ 0#6 ∧ k ≠ 0#6 ∧ s.bank n = s.bank k then w else s.reg k := by
  unfold reg
  have hb : (s.setReg n w).bank k = s.bank k := by
    unfold bank State.om; simp only [setReg_mode]
  rw [hb]
  by_cases hk : k = 0#6
  · simp [hk]
  · by_cases hn : n = 0#6
    · simp [hk, hn, setReg]
    · simp only [hk, hn, if_false, setReg, ne_eq, not_false_eq_true, true_and, vector_get_set, BitVec.val_toFin,
        toNat_inj_iff]

/-- A register that is written reads the value back, but for r0, which reads 0. -/
theorem setReg_reg_same (n : RegNum) (w : Word) : (s.setReg n w).reg n = if n = 0#6 then 0 else w := by
  rw [setReg_reg]
  by_cases h : n = 0#6 <;> simp [h, reg]

/-- ip after setIp. -/
@[simp] theorem setIp_ip (a : Word) : (s.setIp a).ip = a := by
  simp only [setIp, setCodeAddr, ip, codeAddr, vector_get_set]; rfl

/-- The sequential advance moves ip by the instruction's length on its low 24 bits. -/
@[simp] theorem advance_ip (n : Nat) : (s.advance n).ip = nextIp s.ip n := setIp_ip s _

/-- Registers do not depend on the instruction pointer. -/
@[simp] theorem advance_reg (n : Nat) (k : RegNum) : (s.advance n).reg k = s.reg k := rfl
@[simp] theorem advance_vec (n : Nat) (k : RegNum) (x : Nat) : (s.advance n).vec k x = s.vec k x := rfl
@[simp] theorem setReg_vec (n k : RegNum) (w : Word) (x : Nat) : (s.setReg n w).vec k x = s.vec k x := by
  simp [vec]
@[simp] theorem setReg_ip (n : RegNum) (w : Word) : (s.setReg n w).ip = s.ip := by simp [ip, codeAddr]
@[simp] theorem setReg_om (n : RegNum) (w : Word) : (s.setReg n w).om = s.om := by simp [om]
@[simp] theorem setVec_reg (n k : RegNum) (w : Word) (x : Nat) : (s.setVec n x w).reg k = s.reg k := by
  simp [reg, bank, om]
@[simp] theorem setVec_ip (n : RegNum) (x : Nat) (w : Word) : (s.setVec n x w).ip = s.ip := by simp [ip, codeAddr]
@[simp] theorem setVstep_reg (x : Nat) (k : RegNum) : (s.setVstep x).reg k = s.reg k := rfl
@[simp] theorem setVstep_vec (x : Nat) (k : RegNum) (y : Nat) : (s.setVstep x).vec k y = s.vec k y := rfl
@[simp] theorem setFstat_reg (w : Word) (k : RegNum) : (s.setFstat w).reg k = s.reg k := rfl
@[simp] theorem setFstat_vec (w : Word) (k : RegNum) (y : Nat) : (s.setFstat w).vec k y = s.vec k y := rfl

/-- One element of a vector register after a write: v0 discards it, an index beyond the register is none. -/
theorem setVec_vec (n k : RegNum) (x y : Nat) (w : Word) :
    (s.setVec n x w).vec k y = if n = k ∧ x = y ∧ k ≠ 0#6 ∧ x < 64 then w else s.vec k y := by
  unfold vec setVec
  by_cases hk : k = 0#6
  · simp [hk]
  · by_cases hn : n = 0#6
    · have : ¬ n = k := fun e => hk (e ▸ hn)
      rw [if_pos hn, if_neg hk, if_neg (fun h => this h.1)]
    · simp only [hk, hn, if_false, ne_eq, not_false_eq_true, true_and, vector_get_set, BitVec.val_toFin,
        toNat_inj_iff]
      by_cases hnk : n = k
      · subst hnk
        simp only [if_true, true_and, Vector.getElem?_setIfInBounds]
        by_cases hxy : x = y
        · subst hxy
          by_cases hx : x < 64
          · simp [hx]
          · simp [hx]
        · simp [hxy]
      · simp [hnk]

end State

end Sys2Proof.Machine
end

