-- ==== Sys2Proof/Laws/Memory.lean ====
section
/-! SUPPORT. Sparse tables and memory: reading after writing, and the canonical form that every memory operation
keeps. -/

namespace Sys2Proof.Machine

/-! ### Sparse tables -/

/-- A key below every listed key reads the default. -/
theorem sparseGet_below {α : Type} [DecidableEq α] (d : α) (l : List (Nat × α)) (lo a : Nat)
    (h : sparseWfFrom d lo l = true) (ha : a < lo) : sparseGet d l a = d := by
  induction l generalizing lo with
  | nil => rfl
  | cons e l ih =>
    obtain ⟨k, v⟩ := e
    simp only [sparseWfFrom, Bool.and_eq_true, decide_eq_true_eq] at h
    simp only [sparseGet]
    rw [if_neg (by omega)]
    exact ih (k + 1) h.2 (by omega)

/-- Reading after writing one key of a canonical table. -/
theorem sparseGet_sparseSet {α : Type} [DecidableEq α] (d : α) (l : List (Nat × α)) (lo a b : Nat) (x : α)
    (h : sparseWfFrom d lo l = true) : sparseGet d (sparseSet d l a x) b = if b = a then x else sparseGet d l b := by
  induction l generalizing lo with
  | nil =>
    simp only [sparseSet]
    by_cases hb : b = a
    · by_cases hx : x = d <;> simp [hx, hb, sparseGet]
    · have hb' : ¬ a = b := fun e => hb e.symm
      by_cases hx : x = d <;> simp [hx, hb, hb', sparseGet]
  | cons e l ih =>
    obtain ⟨k, v⟩ := e
    simp only [sparseWfFrom, Bool.and_eq_true, decide_eq_true_eq] at h
    have hlow := fun c (hc : c < k + 1) => sparseGet_below d l (k + 1) c h.2 hc
    simp only [sparseSet]
    by_cases h1 : a < k
    · rw [if_pos h1]
      by_cases hx : x = d
      · rw [if_pos hx]
        by_cases hb : b = a
        · subst hb
          simp only [sparseGet, if_true]
          rw [if_neg (by omega), hlow b (by omega), hx]
        · simp [hb]
      · rw [if_neg hx]
        by_cases hb : b = a
        · simp [hb, sparseGet]
        · have hb' : ¬ a = b := fun e => hb e.symm
          simp [hb, hb', sparseGet]
    · rw [if_neg h1]
      by_cases h2 : a = k
      · rw [if_pos h2]
        subst h2
        by_cases hx : x = d
        · rw [if_pos hx]
          by_cases hb : b = a
          · subst hb; rw [if_pos rfl, hlow b (by omega), hx]
          · have hb' : ¬ a = b := fun e => hb e.symm
            simp [hb, hb', sparseGet]
        · rw [if_neg hx]
          by_cases hb : b = a
          · simp [hb, sparseGet]
          · have hb' : ¬ a = b := fun e => hb e.symm
            simp [hb, hb', sparseGet]
      · rw [if_neg h2]
        simp only [sparseGet]
        by_cases hb : k = b
        · subst hb
          rw [if_pos rfl, if_pos rfl, if_neg (fun e => h2 e.symm)]
        · rw [if_neg hb, if_neg hb]
          exact ih (k + 1) h.2

/-- Writing keeps the canonical form, with the lower bound that the key allows. -/
theorem sparseSet_wfFrom {α : Type} [DecidableEq α] (d : α) (l : List (Nat × α)) (lo a : Nat) (x : α)
    (h : sparseWfFrom d lo l = true) (ha : lo ≤ a) : sparseWfFrom d lo (sparseSet d l a x) = true := by
  induction l generalizing lo with
  | nil =>
    simp only [sparseSet]
    by_cases hx : x = d <;> simp [hx, sparseWfFrom, ha]
  | cons e l ih =>
    obtain ⟨k, v⟩ := e
    have h0 := h
    simp only [sparseWfFrom, Bool.and_eq_true, decide_eq_true_eq] at h
    simp only [sparseSet]
    by_cases h1 : a < k
    · rw [if_pos h1]
      by_cases hx : x = d
      · rw [if_pos hx]; exact h0
      · rw [if_neg hx]
        simp only [sparseWfFrom, Bool.and_eq_true, decide_eq_true_eq]
        exact ⟨⟨ha, hx⟩, ⟨by omega, h.1.2⟩, h.2⟩
    · rw [if_neg h1]
      by_cases h2 : a = k
      · rw [if_pos h2]
        by_cases hx : x = d
        · rw [if_pos hx]
          clear ih h0
          cases l with
          | nil => rfl
          | cons e l =>
            obtain ⟨k', v'⟩ := e
            simp only [sparseWfFrom, Bool.and_eq_true, decide_eq_true_eq] at h ⊢
            exact ⟨⟨by omega, h.2.1.2⟩, h.2.2⟩
        · rw [if_neg hx]
          simp only [sparseWfFrom, Bool.and_eq_true, decide_eq_true_eq]
          exact ⟨⟨ha, hx⟩, by rw [h2]; exact h.2⟩
      · rw [if_neg h2]
        simp only [sparseWfFrom, Bool.and_eq_true, decide_eq_true_eq]
        exact ⟨h.1, ih (k + 1) h.2 (by omega)⟩

/-- Writing keeps the canonical form. -/
theorem sparseSet_wf {α : Type} [DecidableEq α] (d : α) (l : List (Nat × α)) (a : Nat) (x : α)
    (h : sparseWf d l = true) : sparseWf d (sparseSet d l a x) = true :=
  sparseSet_wfFrom d l 0 a x h (Nat.zero_le a)

/-- What a written table lists is an old entry, or the written one if its value is listed at all. -/
theorem mem_sparseSet_ne {α : Type} [DecidableEq α] (d : α) (l : List (Nat × α)) (a : Nat) (x : α) (e : Nat × α)
    (h : e ∈ sparseSet d l a x) : (e = (a, x) ∧ x ≠ d) ∨ e ∈ l := by
  induction l with
  | nil =>
    simp only [sparseSet] at h
    split at h
    · cases h
    · exact .inl ⟨by simpa using h, ‹_›⟩
  | cons c l ih =>
    obtain ⟨k, v⟩ := c
    simp only [sparseSet] at h
    split at h
    · split at h
      · exact .inr h
      · rcases List.mem_cons.1 h with h | h
        · exact .inl ⟨h, ‹_›⟩
        · exact .inr h
    · split at h
      · split at h
        · exact .inr (List.mem_cons_of_mem _ h)
        · rcases List.mem_cons.1 h with h | h
          · exact .inl ⟨h, ‹_›⟩
          · exact .inr (List.mem_cons_of_mem _ h)
      · rcases List.mem_cons.1 h with h | h
        · exact .inr (h ▸ List.mem_cons_self)
        · exact (ih h).imp id (List.mem_cons_of_mem _)

/-- What a written table lists is the written entry or an old one. -/
theorem mem_sparseSet {α : Type} [DecidableEq α] (d : α) (l : List (Nat × α)) (a : Nat) (x : α) (e : Nat × α)
    (h : e ∈ sparseSet d l a x) : e = (a, x) ∨ e ∈ l :=
  (mem_sparseSet_ne d l a x e h).imp And.left id

/-- A key whose value is not the unlisted one is listed. -/
theorem exists_of_sparseGet_ne {α : Type} (d : α) (l : List (Nat × α)) (a : Nat) (h : sparseGet d l a ≠ d) :
    ∃ e ∈ l, e.1 = a := by
  induction l with
  | nil => exact absurd rfl h
  | cons c l ih =>
    obtain ⟨k, v⟩ := c
    by_cases hk : k = a
    · exact ⟨_, List.mem_cons_self, hk⟩
    · rw [sparseGet, if_neg hk] at h
      obtain ⟨e, he, ha⟩ := ih h
      exact ⟨e, List.mem_cons_of_mem _ he, ha⟩

/-! ### Memory -/

/-- A byte read after a byte was written: the new one at that address, the old one elsewhere. -/
theorem Memory.read_write (m : List Host.Cell) (a b : Nat) (v : Byte) (h : Memory.wf m = true) :
    Memory.read (Memory.write m a v) b = if b = a then v else Memory.read m b :=
  sparseGet_sparseSet Memory.unlisted m 0 a b v h

/-- Writing a byte keeps the canonical form. -/
theorem Memory.wf_write (m : List Host.Cell) (a : Nat) (v : Byte) (h : Memory.wf m = true) :
    Memory.wf (Memory.write m a v) = true := sparseSet_wf _ m a v h

/-- Reset memory has the canonical form. -/
theorem reset_memory_wf : Memory.wf State.reset.mem = true := rfl

namespace State

/-- A stored byte keeps the canonical form. -/
theorem storeByte_wf (s : State) (a : Nat) (b : Byte) (h : Memory.wf s.mem = true) :
    Memory.wf (s.storeByte a b).mem = true := by
  unfold storeByte
  dsimp only
  split
  · exact h
  · exact Memory.wf_write s.mem a b h

/-- Stored bytes keep the canonical form. -/
theorem storeBytes_wf (s : State) (pa : Word) (bs : List Byte) (h : Memory.wf s.mem = true) :
    Memory.wf (s.storeBytes pa bs).mem = true := by
  induction bs generalizing s pa with
  | nil => exact h
  | cons b bs ih => exact ih _ _ (s.storeByte_wf pa.toNat b h)

/-- Another master's byte keeps the canonical form. -/
theorem busWrite_wf (s : State) (a : Nat) (b : Byte) (h : Memory.wf s.mem = true) :
    Memory.wf (s.busWrite a b).mem = true := by
  unfold busWrite
  dsimp only
  split
  · exact storeByte_wf (s.keepTetras _ 1) _ b h
  · exact h

/-- A placed byte keeps the canonical form. -/
theorem placeByte_wf (s : State) (a : Nat) (b : Byte) (h : Memory.wf s.mem = true) :
    Memory.wf (s.placeByte a b).mem = true := Memory.wf_write s.mem a b h

/-- What a memory lists after a stored byte. -/
theorem storeByte_mem (s : State) (a : Nat) (b : Byte) (c : Host.Cell) (h : c ∈ (s.storeByte a b).mem) :
    c = (a, b) ∨ c ∈ s.mem := by
  unfold storeByte at h
  dsimp only at h
  split at h
  · exact .inr h
  · exact mem_sparseSet _ _ _ _ _ h

/-- One byte of memory after a byte was stored. -/
theorem storeByte_read (s : State) (a c : Nat) (b : Byte) (h : Memory.wf s.mem = true) :
    Memory.read (s.storeByte a b).mem c = if c = a then b else Memory.read s.mem c := by
  unfold storeByte
  dsimp only
  split
  · rename_i he
    by_cases hc : c = a
    · rw [if_pos hc, hc, he]
    · rw [if_neg hc]
  · exact Memory.read_write s.mem a c b h

/-- The kept tetras are all that keeping them changes. -/
theorem keepTetras_frame (s : State) (pa : Word) (n : Nat) :
    { s.keepTetras pa n with rewritten := s.rewritten } = s := rfl

/-- Every tetra that n bytes are part of is kept (93 U8). -/
theorem keepTetras_keeps (s : State) (pa : Word) (n : Nat) (e : Nat × BitVec 32) (h : e ∈ s.tetrasAt pa n) :
    e ∈ (s.keepTetras pa n).rewritten := by
  show e ∈ (s.tetrasAt pa n).filter _ ++ s.rewritten
  by_cases hr : e ∈ s.rewritten
  · exact List.mem_append.2 (.inr hr)
  · exact List.mem_append.2 (.inl (List.mem_filter.2 ⟨h, by simpa using hr⟩))

/-- Storing bytes does not look at what the key cache may hold. -/
theorem storeBytes_rewritten (s : State) (pa : Word) (bs : List Byte) (r : List (Nat × BitVec 32)) :
    ({ s with rewritten := r } : State).storeBytes pa bs = { s.storeBytes pa bs with rewritten := r } := by
  induction bs generalizing s pa with
  | nil => rfl
  | cons b bs ih =>
    have h : ({ s with rewritten := r } : State).storeByte pa.toNat b =
        { s.storeByte pa.toNat b with rewritten := r } := by
      unfold storeByte; dsimp only; split <;> rfl
    show (({ s with rewritten := r } : State).storeByte pa.toNat b).storeBytes (pa + 1) bs = _
    rw [h, ih]; rfl

/-- Stored bytes change memory and what a fetch may still see, and nothing else. -/
theorem storeBytes_frame (s : State) (pa : Word) (bs : List Byte) :
    { s.storeBytes pa bs with mem := s.mem, stale := s.stale } = s := by
  induction bs generalizing s pa with
  | nil => rfl
  | cons b bs ih =>
    have h1 := ih (s.storeByte pa.toNat b) (pa + 1)
    have h2 : { s.storeByte pa.toNat b with mem := s.mem, stale := s.stale } = s := by
      unfold storeByte; dsimp only; split <;> rfl
    calc { s.storeBytes pa (b :: bs) with mem := s.mem, stale := s.stale }
        = { { (s.storeByte pa.toNat b).storeBytes (pa + 1) bs with
              mem := (s.storeByte pa.toNat b).mem, stale := (s.storeByte pa.toNat b).stale } with
              mem := s.mem, stale := s.stale } := rfl
      _ = { s.storeByte pa.toNat b with mem := s.mem, stale := s.stale } := by rw [h1]
      _ = s := h2

end State

end Sys2Proof.Machine
end

