-- ==== Sys2Proof/Laws/Operands.lean ====
section
/-! SUPPORT. What the wrapper of a computational instruction does, said once: its scalar form, and its vector form by
induction over the element loop. -/

namespace Sys2Proof.Machine

/-! ### Results -/

@[simp] theorem Res.bind_ok {α β : Type} (a : α) (s : State) (f : α → State → Res β) :
    (Res.ok a s).bind f = f a s := rfl
@[simp] theorem Res.bind_trap {α β : Type} (e : Exc) (s : State) (f : α → State → Res β) :
    (Res.trap e s : Res α).bind f = .trap e s := rfl
@[simp] theorem Res.bind_stop {α β : Type} (h : Halt) (f : α → State → Res β) :
    (Res.stop h : Res α).bind f = .stop h := rfl
@[simp] theorem finishSeq_ok (c : Ctx) (s : State) : finishSeq c (.ok () s) = .next (s.advance c.size) := rfl
@[simp] theorem finishSeq_trap (c : Ctx) (e : Exc) (s : State) : finishSeq c (.trap e s) = s.raise c e := rfl
@[simp] theorem finishSeq_stop (c : Ctx) (h : Halt) : finishSeq c (.stop h) = h.outcome := rfl

/-- With no old vector length kept, a use of VL gives the register. -/
theorem State.useVl_settled (s : State) (h : s.pending.vl = []) : s.useVl = (s.vl, s) := by
  unfold State.useVl State.useFrom; rw [h]

/-! ### The scalar form -/

/-- A scalar instruction whose rule answers completes with the target written. -/
theorem run_scalar (c : Ctx) (o : Operands) (f : Rule) (s : State) (a b d t : Word) (s1 : State) (hv : o.v = 0#1)
    (ha : o.a.scalar s = some a) (hb : o.b.scalar s = some b) (hd : o.c.scalar s = some d)
    (hf : f 0 a b d s = .ok t s1) : run c o f s = .next (s1.result c.size o.rt t) := by
  have hne : ¬ o.v = 1#1 := by rw [hv]; decide
  simp only [run, if_neg hne, runScalar, ha, hb, hd, hf, Res.bind_ok, finishSeq_ok, State.result]

/-- A scalar instruction whose rule raises takes the trap. -/
theorem run_scalar_trap (c : Ctx) (o : Operands) (f : Rule) (s : State) (a b d : Word) (e : Exc) (s1 : State)
    (hv : o.v = 0#1) (ha : o.a.scalar s = some a) (hb : o.b.scalar s = some b) (hd : o.c.scalar s = some d)
    (hf : f 0 a b d s = .trap e s1) : run c o f s = s1.raise c e := by
  have hne : ¬ o.v = 1#1 := by rw [hv]; decide
  simp only [run, if_neg hne, runScalar, ha, hb, hd, hf, Res.bind_trap, finishSeq_trap]

/-- A vector register where a scalar is read is refused. -/
theorem run_refused (c : Ctx) (o : Operands) (f : Rule) (s : State) (hv : o.v = 0#1)
    (h : o.a.scalar s = none ∨ o.b.scalar s = none ∨ o.c.scalar s = none) :
    run c o f s = .refused .vectorOperandInScalar := by
  have hne : ¬ o.v = 1#1 := by rw [hv]; decide
  simp only [run, if_neg hne, runScalar]
  split
  · simp_all
  · rfl

/-! ### The vector form -/

/-- `t` is `s` but for U_FSTAT and for elements of vector register rt below x. -/
structure LoopState (s t : State) (rt : RegNum) (x : Nat) : Prop where
  target : ∀ y, x ≤ y → t.vec rt y = s.vec rt y
  others : ∀ r, r ≠ rt → ∀ y, t.vec r y = s.vec r y
  frame : { t with vregs := s.vregs, csr := { t.csr with fstat := s.csr.fstat } } = s

/-- A loop has nothing done at its start. -/
theorem LoopState.refl (s : State) (rt : RegNum) (x : Nat) : LoopState s s rt x := ⟨fun _ _ => rfl, fun _ _ _ => rfl, rfl⟩

/-- What is done below x is done below y. -/
theorem LoopState.mono {s t : State} {rt : RegNum} {x y : Nat} (h : LoopState s t rt x) (hxy : x ≤ y) :
    LoopState s t rt y := ⟨fun z hz => h.target z (by omega), h.others, h.frame⟩

/-- Writing element x of the target and U_FSTAT keeps the loop's state. -/
theorem LoopState.write {s t : State} {rt : RegNum} {x : Nat} (h : LoopState s t rt x) (w f : Word) :
    LoopState s ((t.setFstat f).setVec rt x w) rt (x + 1) := by
  refine ⟨fun y hy => ?_, fun r hr y => ?_, ?_⟩
  · rw [State.setVec_vec, if_neg (by omega)]
    exact h.target y (by omega)
  · rw [State.setVec_vec, if_neg (fun e => hr e.1.symm)]
    exact h.others r hr y
  · have h1 := h.frame
    unfold State.setVec
    split
    · exact h1
    · exact h1

/-- Registers during a loop. -/
theorem LoopState.reg {s t : State} {rt : RegNum} {x : Nat} (h : LoopState s t rt x) (k : RegNum) :
    t.reg k = s.reg k := by
  have h1 := h.frame
  calc t.reg k = State.reg { t with vregs := s.vregs, csr := { t.csr with fstat := s.csr.fstat } } k := rfl
    _ = s.reg k := by rw [h1]

/-- Free values during a loop. -/
theorem LoopState.free {s t : State} {rt : RegNum} {x : Nat} (h : LoopState s t rt x) (k : Nat) :
    t.free k = s.free k := by
  have h1 := h.frame
  calc t.free k = State.free { t with vregs := s.vregs, csr := { t.csr with fstat := s.csr.fstat } } k := rfl
    _ = s.free k := by rw [h1]

/-- An operand of element x during a loop that has not yet written element x. -/
theorem LoopState.element {s t : State} {rt : RegNum} {x : Nat} (h : LoopState s t rt x) (o : Src) :
    o.element t x = o.element s x := by
  cases o with
  | gpr n => exact h.reg n
  | vec n =>
    show t.vec n x = s.vec n x
    by_cases hn : n = rt
    · rw [hn]; exact h.target x (Nat.le_refl x)
    · exact h.others n hn x
  | imm w => rfl

/-- The element loop of a rule that writes element y of rt with `g y` and U_FSTAT with `F y`: it completes, every
element is as the mask says, and U_FSTAT has been through the enabled elements in order. `P` is what `F` keeps of
U_FSTAT. -/
theorem elementLoop_spec (s : State) (mask : Word) (rt : RegNum) (z : BitVec 1) (g : Nat → Word)
    (F : Nat → Word → Word) (P : Word → Prop) (act : Nat → State → Res Unit)
    (hF : ∀ y w, P w → P (F y w)) (n x : Nat) (t : State)
    (hact : ∀ y t, x ≤ y → y < x + n → mask.getLsbD y = true → LoopState s t rt y → P t.csr.fstat →
      act y t = .ok () ((t.setFstat (F y t.csr.fstat)).setVec rt y (g y)))
    (ht : LoopState s t rt x) (hP : P t.csr.fstat) :
    ∃ u, elementLoop mask act (zeroing z rt) n x t = .ok () u ∧ LoopState s u rt (x + n) ∧ P u.csr.fstat ∧
      u.csr.fstat = ((List.range' x n).filter fun y => mask.getLsbD y).foldl (fun w y => F y w) t.csr.fstat ∧
      ∀ y, u.vec rt y = if rt ≠ 0#6 ∧ y < 64 ∧ x ≤ y ∧ y < x + n then
        (if mask.getLsbD y then g y else if z = 1#1 then 0 else s.vec rt y) else t.vec rt y := by
  induction n generalizing x t with
  | zero =>
    refine ⟨t, rfl, ht, hP, rfl, fun y => ?_⟩
    rw [if_neg (by omega)]
  | succ n ih =>
    have hact' : ∀ y t, x + 1 ≤ y → y < x + 1 + n → mask.getLsbD y = true → LoopState s t rt y → P t.csr.fstat →
        act y t = .ok () ((t.setFstat (F y t.csr.fstat)).setVec rt y (g y)) :=
      fun y t h1 h2 => hact y t (by omega) (by omega)
    by_cases hm : mask.getLsbD x
    · have hstep := ih (x + 1) ((t.setFstat (F x t.csr.fstat)).setVec rt x (g x)) hact' (ht.write _ _)
        (by rw [State.setVec_csr, State.setFstat_fstat]; exact hF x _ hP)
      obtain ⟨u, h1, h2, h5, h3, h4⟩ := hstep
      refine ⟨u, ?_, by rw [Nat.add_assoc, Nat.add_comm 1 n] at h2; exact h2, h5, ?_, fun y => ?_⟩
      · simp only [elementLoop, hm, if_true, hact x t (Nat.le_refl x) (by omega) hm ht hP, h1]
      · rw [h3, State.setVec_csr, State.setFstat_fstat, List.range'_succ]
        simp only [List.filter_cons, hm, if_true, List.foldl_cons]
      · rw [h4 y, State.setVec_vec]
        by_cases hc : rt ≠ 0#6 ∧ y < 64 ∧ x ≤ y ∧ y < x + (n + 1)
        · rw [if_pos hc]
          by_cases hxy : x = y
          · subst hxy
            rw [if_neg (by omega), if_pos ⟨rfl, rfl, hc.1, hc.2.1⟩, if_pos hm]
          · rw [if_pos ⟨hc.1, hc.2.1, by omega, by omega⟩]
        · rw [if_neg hc, if_neg (fun h => hc ⟨h.1, h.2.1, by omega, by omega⟩)]
          rw [if_neg (fun h => hc ⟨h.2.2.1, by omega, by omega, by omega⟩)]
          rfl
    · have hz : LoopState s (zeroing z rt x t) rt (x + 1) := by
        unfold zeroing
        split
        · have := ht.write 0 t.csr.fstat
          exact this
        · exact ht.mono (Nat.le_succ x)
      have hzf : (zeroing z rt x t).csr.fstat = t.csr.fstat := by
        unfold zeroing; split
        · rw [State.setVec_csr]
        · rfl
      obtain ⟨u, h1, h2, h5, h3, h4⟩ := ih (x + 1) (zeroing z rt x t) hact' hz (by rw [hzf]; exact hP)
      refine ⟨u, ?_, by rw [Nat.add_assoc, Nat.add_comm 1 n] at h2; exact h2, h5, ?_, fun y => ?_⟩
      · simp only [elementLoop, hm, h1]
        rfl
      · rw [h3, hzf, List.range'_succ]
        simp only [List.filter_cons, hm]
        rfl
      · rw [h4 y]
        have hzv : (zeroing z rt x t).vec rt y =
            if z = 1#1 ∧ x = y ∧ rt ≠ 0#6 ∧ x < 64 then 0 else t.vec rt y := by
          unfold zeroing
          by_cases hz1 : z = 1#1
          · simp only [hz1, if_true, State.setVec_vec, true_and]
          · simp only [hz1, if_false, false_and]
        rw [hzv]
        by_cases hc : rt ≠ 0#6 ∧ y < 64 ∧ x ≤ y ∧ y < x + (n + 1)
        · rw [if_pos hc]
          by_cases hxy : x = y
          · subst hxy
            rw [if_neg (by omega), if_neg hm]
            by_cases hz1 : z = 1#1
            · rw [if_pos ⟨hz1, rfl, hc.1, hc.2.1⟩, if_pos hz1]
            · rw [if_neg (fun h => hz1 h.1), if_neg hz1, ht.target x (Nat.le_refl x)]
          · rw [if_pos ⟨hc.1, hc.2.1, by omega, by omega⟩]
        · rw [if_neg hc, if_neg (fun h => hc ⟨h.1, h.2.1, by omega, by omega⟩)]
          rw [if_neg (fun h => hc ⟨h.2.2.1, by omega, by omega, by omega⟩)]

/-- The enabled elements of a vector instruction. -/
theorem mem_enabledList {s : State} {m : BitVec 3} {x : Nat} : x ∈ s.enabledList m ↔
    s.csr.vstep.toNat ≤ x ∧ x < s.csr.vstep.toNat + (s.vl.toNat - s.csr.vstep.toNat) ∧ (s.mask m).getLsbD x = true := by
  simp only [State.enabledList, State.loopElements, List.mem_filter, List.mem_range'_1, and_assoc]

/-- One element of a loop. -/
theorem elementLoop_succ (mask : Word) (act : Nat → State → Res Unit) (off : Nat → State → State) (n x : Nat)
    (s : State) : elementLoop mask act off (n + 1) x s =
      if mask.getLsbD x then
        match act x s with
        | .ok _ s1 => elementLoop mask act off n (x + 1) s1
        | .trap e s1 => .trap e (s1.setVstep x)
        | .stop h => .stop h
      else elementLoop mask act off n (x + 1) (off x s) := rfl

/-- A loop in two parts. -/
theorem elementLoop_add (mask : Word) (act : Nat → State → Res Unit) (off : Nat → State → State) (a b x : Nat)
    (s : State) : elementLoop mask act off (a + b) x s =
      (elementLoop mask act off a x s).bind fun _ u => elementLoop mask act off b (x + a) u := by
  induction a generalizing x s with
  | zero => simp [elementLoop]
  | succ a ih =>
    rw [show a + 1 + b = (a + b) + 1 by omega, show x + (a + 1) = (x + 1) + a by omega, elementLoop_succ,
      elementLoop_succ]
    split
    · cases act x s with
      | ok _ s1 => exact ih (x + 1) s1
      | trap e s1 => rfl
      | stop h => rfl
    · exact ih (x + 1) _

/-- A vector instruction of such a rule: it completes, and its result is that of 48 R880 and R883. -/
theorem vectorLoop_spec (s : State) (m : BitVec 3) (rt : RegNum) (z : BitVec 1) (n : Nat) (g : Nat → Word)
    (F : Nat → Word → Word) (P : Word → Prop) (act : Nat → State → Res Unit) (hvl : s.pending.vl = [])
    (hF : ∀ y w, P w → P (F y w)) (hP : P s.csr.fstat)
    (hact : ∀ y t, y ∈ s.enabledList m → LoopState s t rt y → P t.csr.fstat →
      act y t = .ok () ((t.setFstat (F y t.csr.fstat)).setVec rt y (g y))) :
    ∃ t, (s.vectorLoop m act (zeroing z rt)).bind (fun _ s1 => .ok () (s1.advance n)) = .ok () t ∧
      VectorResult s (s.looped.setFstat ((s.enabledList m).foldl (fun w y => F y w) s.csr.fstat)) t n rt m z g := by
  obtain ⟨u, h1, h2, _, h3, h4⟩ := elementLoop_spec s (s.mask m) rt z g F P act hF
    (s.vl.toNat - s.csr.vstep.toNat) s.csr.vstep.toNat s
    (fun y t hy1 hy2 hm => hact y t (mem_enabledList.mpr ⟨hy1, hy2, hm⟩)) (LoopState.refl s rt _) hP
  refine ⟨(u.setVstep 0).advance n, ?_, fun x hx => ?_, fun r hr x => ?_, ?_⟩
  · simp only [State.vectorLoop, State.useVl_settled s hvl, h1, Res.bind_ok]
  · rw [State.advance_vec, State.setVstep_vec, h4 x]
    unfold elementAfter
    by_cases h0 : rt = 0#6
    · rw [if_neg (fun h => h.1 h0), if_pos h0]
      unfold State.vec; rw [if_pos h0]
    · rw [if_neg h0]
      by_cases hin : x ∈ s.loopElements
      · rw [if_pos hin]
        simp only [State.loopElements, List.mem_range'_1] at hin
        rw [if_pos ⟨h0, hx, hin.1, hin.2⟩]
      · rw [if_neg hin, if_neg (fun h => hin (by
          simp only [State.loopElements, List.mem_range'_1]; exact h.2.2))]
  · rw [State.advance_vec, State.setVstep_vec]
    exact h2.others r hr x
  · have h5 := h2.frame
    have h6 : { u with vregs := s.vregs } = s.setFstat u.csr.fstat := by
      calc { u with vregs := s.vregs }
          = State.setFstat { u with vregs := s.vregs, csr := { u.csr with fstat := s.csr.fstat } } u.csr.fstat := rfl
        _ = s.setFstat u.csr.fstat := by rw [h5]
    calc { (u.setVstep 0).advance n with vregs := s.vregs }
        = (State.setVstep { u with vregs := s.vregs } 0).advance n := rfl
      _ = ((s.setFstat u.csr.fstat).setVstep 0).advance n := by rw [h6]
      _ = _ := by rw [h3]; rfl

/-- A vector instruction whose element x raises after the elements below it have led to u stops there (48 R884 b). -/
theorem vectorLoop_stop (s u t : State) (m : BitVec 3) (act : Nat → State → Res Unit) (off : Nat → State → State)
    (e : Exc) (x : Nat) (hvl : s.pending.vl = []) (hx : x ∈ s.enabledList m)
    (hu : elementLoop (s.mask m) act off (x - s.csr.vstep.toNat) s.csr.vstep.toNat s = .ok () u)
    (ht : act x u = .trap e t) : s.vectorLoop m act off = .trap e (t.setVstep x) := by
  obtain ⟨hx1, hx2, hxm⟩ := mem_enabledList.mp hx
  obtain ⟨b, hb⟩ : ∃ b, s.vl.toNat - s.csr.vstep.toNat = (x - s.csr.vstep.toNat) + (b + 1) :=
    ⟨s.vl.toNat - x - 1, by omega⟩
  simp only [State.vectorLoop, State.useVl_settled s hvl, hb]
  rw [elementLoop_add, hu, Res.bind_ok, show s.csr.vstep.toNat + (x - s.csr.vstep.toNat) = x by omega,
    elementLoop_succ, if_pos hxm, ht]
  rfl

/-- The enabled elements below an element of the loop. -/
theorem enabledList_below {s : State} {m : BitVec 3} {x : Nat} (hx : x ∈ s.enabledList m) :
    ((s.enabledList m).filter fun y => decide (y < x)) =
      (List.range' s.csr.vstep.toNat (x - s.csr.vstep.toNat)).filter fun y => (s.mask m).getLsbD y := by
  obtain ⟨hx1, hx2, hxm⟩ := mem_enabledList.mp hx
  obtain ⟨k, hk⟩ : ∃ k, x = s.csr.vstep.toNat + k := ⟨x - s.csr.vstep.toNat, by omega⟩
  obtain ⟨b, hb⟩ : ∃ b, s.vl.toNat - s.csr.vstep.toNat = k + b := ⟨s.vl.toNat - s.csr.vstep.toNat - k, by omega⟩
  have hlow : ∀ y ∈ (List.range' s.csr.vstep.toNat k).filter (fun y => (s.mask m).getLsbD y), decide (y < x) = true :=
    fun y hy => by
      have := (List.mem_filter.mp hy).1
      simp only [List.mem_range'_1] at this
      simp; omega
  have hhigh : ∀ y ∈ (List.range' (s.csr.vstep.toNat + k) b).filter (fun y => (s.mask m).getLsbD y),
      ¬ decide (y < x) = true := fun y hy => by
    have := (List.mem_filter.mp hy).1
    simp only [List.mem_range'_1] at this
    simp; omega
  unfold State.enabledList State.loopElements
  rw [hb, ← List.range'_append_1, List.filter_append, List.filter_append, List.filter_eq_self.mpr hlow,
    List.filter_eq_nil_iff.mpr hhigh, List.append_nil, show x - s.csr.vstep.toNat = k by omega]

/-- The elements below x of a vector instruction of such a rule: they complete, and what they leave is that of 48 R884 b. -/
theorem vectorLoop_below (s : State) (m : BitVec 3) (rt : RegNum) (z : BitVec 1) (g : Nat → Word)
    (F : Nat → Word → Word) (P : Word → Prop) (act : Nat → State → Res Unit) (x : Nat)
    (hF : ∀ y w, P w → P (F y w)) (hP : P s.csr.fstat) (hx : x ∈ s.enabledList m)
    (hact : ∀ y t, y ∈ s.enabledList m → y < x → LoopState s t rt y → P t.csr.fstat →
      act y t = .ok () ((t.setFstat (F y t.csr.fstat)).setVec rt y (g y))) :
    ∃ u, elementLoop (s.mask m) act (zeroing z rt) (x - s.csr.vstep.toNat) s.csr.vstep.toNat s = .ok () u ∧
      LoopState s u rt x ∧ P u.csr.fstat ∧ VectorStopped s (s.setFstat
        (((s.enabledList m).filter fun y => decide (y < x)).foldl (fun w y => F y w) s.csr.fstat)) u rt m z g x := by
  obtain ⟨hx1, hx2, hxm⟩ := mem_enabledList.mp hx
  obtain ⟨k, hk⟩ : ∃ k, x = s.csr.vstep.toNat + k := ⟨x - s.csr.vstep.toNat, by omega⟩
  obtain ⟨u, h1, h2, h5, h3, h4⟩ := elementLoop_spec s (s.mask m) rt z g F P act hF k s.csr.vstep.toNat s
    (fun y t hy1 hy2 hm => hact y t (mem_enabledList.mpr ⟨hy1, by omega, hm⟩) (by omega)) (LoopState.refl s rt _) hP
  rw [← hk] at h2
  have hkx : x - s.csr.vstep.toNat = k := by omega
  refine ⟨u, by rw [hkx]; exact h1, h2, h5, fun y hy => ?_, h2.others, ?_⟩
  · rw [h4 y]
    unfold elementAfter
    by_cases h0 : rt = 0#6
    · rw [if_neg (fun h => h.1 h0), if_pos h0]
      unfold State.vec
      simp [h0]
    · rw [if_neg h0]
      by_cases hyx : y < x
      · rw [if_pos hyx]
        by_cases hin : y ∈ s.loopElements
        · rw [if_pos hin]
          simp only [State.loopElements, List.mem_range'_1] at hin
          rw [if_pos ⟨h0, hy, hin.1, by omega⟩]
        · rw [if_neg hin, if_neg (fun h => hin (by
            simp only [State.loopElements, List.mem_range'_1]; omega))]
      · rw [if_neg hyx, if_neg (by omega)]
  · rw [enabledList_below hx, hkx, ← h3]
    have h7 := h2.frame
    calc { u with vregs := s.vregs }
        = State.setFstat { u with vregs := s.vregs, csr := { u.csr with fstat := s.csr.fstat } } u.csr.fstat := rfl
      _ = s.setFstat u.csr.fstat := by rw [h7]

/-- A vector instruction of such a rule that raises at element x: the elements below x are done (48 R884). -/
theorem vectorLoop_trap_spec (s : State) (m : BitVec 3) (rt : RegNum) (z : BitVec 1) (g : Nat → Word)
    (F : Nat → Word → Word) (P : Word → Prop) (act : Nat → State → Res Unit) (e : Exc) (x : Nat)
    (hvl : s.pending.vl = []) (hF : ∀ y w, P w → P (F y w)) (hP : P s.csr.fstat) (hx : x ∈ s.enabledList m)
    (hact : ∀ y t, y ∈ s.enabledList m → y < x → LoopState s t rt y → P t.csr.fstat →
      act y t = .ok () ((t.setFstat (F y t.csr.fstat)).setVec rt y (g y)))
    (htrap : ∀ t, LoopState s t rt x → P t.csr.fstat → act x t = .trap e (t.setFstat (F x t.csr.fstat))) :
    ∃ t, s.vectorLoop m act (zeroing z rt) = .trap e t ∧
      VectorStopped s ((s.setFstat (((s.enabledList m).filter fun y => decide (y ≤ x)).foldl (fun w y => F y w)
        s.csr.fstat)).setVstep x) t rt m z g x := by
  obtain ⟨u, h1, h2, h3, h4, h5, h6⟩ := vectorLoop_below s m rt z g F P act x hF hP hx hact
  have hle : ((s.enabledList m).filter fun y => decide (y ≤ x)) =
      ((s.enabledList m).filter fun y => decide (y < x)) ++ [x] := by
    obtain ⟨hx1, hx2, hxm⟩ := mem_enabledList.mp hx
    have hs : x + 1 - s.csr.vstep.toNat = (x - s.csr.vstep.toNat) + 1 := by omega
    obtain ⟨b, hb⟩ : ∃ b, s.vl.toNat - s.csr.vstep.toNat = (x - s.csr.vstep.toNat) + 1 + b :=
      ⟨s.vl.toNat - x - 1, by omega⟩
    have hlow : ∀ y ∈ (List.range' s.csr.vstep.toNat (x - s.csr.vstep.toNat + 1)).filter
        (fun y => (s.mask m).getLsbD y), decide (y ≤ x) = true := fun y hy => by
      have := (List.mem_filter.mp hy).1
      simp only [List.mem_range'_1] at this
      simp; omega
    have hhigh : ∀ y ∈ (List.range' (s.csr.vstep.toNat + (x - s.csr.vstep.toNat + 1)) b).filter
        (fun y => (s.mask m).getLsbD y), ¬ decide (y ≤ x) = true := fun y hy => by
      have := (List.mem_filter.mp hy).1
      simp only [List.mem_range'_1] at this
      simp; omega
    rw [enabledList_below hx]
    unfold State.enabledList State.loopElements
    rw [hb, ← List.range'_append_1, List.filter_append, List.filter_append, List.filter_eq_self.mpr hlow,
      List.filter_eq_nil_iff.mpr hhigh, List.append_nil, ← List.range'_append_1, List.filter_append,
      show s.csr.vstep.toNat + (x - s.csr.vstep.toNat) = x by omega]
    simp [hxm]
  have hu : u.csr.fstat = ((s.enabledList m).filter fun y => decide (y < x)).foldl (fun w y => F y w) s.csr.fstat :=
    congrArg (fun t : State => t.csr.fstat) h6
  refine ⟨(u.setFstat (F x u.csr.fstat)).setVstep x, vectorLoop_stop s u _ m act _ e x hvl hx h1 (htrap u h2 h3),
    fun y hy => ?_, fun r hr y => ?_, ?_⟩
  · rw [State.setVstep_vec, State.setFstat_vec]; exact h4 y hy
  · rw [State.setVstep_vec, State.setFstat_vec]; exact h5 r hr y
  · rw [hle, List.foldl_append, ← hu]
    exact congrArg (fun t : State => (t.setFstat (F x u.csr.fstat)).setVstep x) h6

/-- What a vector instruction that keeps U_FSTAT leaves. -/
theorem foldl_keep {α β : Type} (l : List β) (w : α) : l.foldl (fun w _ => w) w = w := by
  induction l with
  | nil => rfl
  | cons _ _ ih => exact ih

/-- A computational instruction whose rule answers `g` and changes nothing computes it, in both forms. -/
theorem computes_each (i : Instr) (c : Ctx) (o : Operands) (f : Rule) (g : Nat → State → Word → Word → Word → Word)
    (h : ∀ s, exec i s = run c o f s) (hc : c.size = i.size) (hf : ∀ x a b d s, f x a b d s = .ok (g x s a b d) s)
    (hg : ∀ s t rt x a b d, LoopState s t rt x → g x t a b d = g x s a b d) : ComputesEach i o g := by
  intro s
  rw [← hc]
  refine ⟨fun hv a b d ha hb hd => ?_, fun hv hn => ?_, fun hv hvl => ?_⟩
  · rw [h, run_scalar c o f s a b d _ s hv ha hb hd (hf _ _ _ _ _)]
  · rw [h, run_refused c o _ s hv hn]
  · obtain ⟨t, h1, h2⟩ := vectorLoop_spec s o.m o.rt o.z c.size
      (fun x => g x s (o.a.element s x) (o.b.element s x) (o.c.element s x)) (fun _ w => w) (fun _ => True)
      (fun x s1 => (f x (o.a.element s1 x) (o.b.element s1 x) (o.c.element s1 x) s1).bind fun t s2 =>
        .ok () (s2.setVec o.rt x t)) hvl (fun _ _ _ => trivial) trivial
      (fun y t _ ht _ => by
        simp only [hf, Res.bind_ok, ht.element, hg s t o.rt y _ _ _ ht]
        rfl)
    refine ⟨t, ?_, ?_⟩
    · rw [h, run, if_pos hv, finishSeq, runVector, h1]
      rfl
    · rw [foldl_keep] at h2
      exact h2

/-- A computational instruction with a free value computes its rule, in both forms. -/
theorem computes_free (i : Instr) (c : Ctx) (o : Operands) (g : Word → Word → Word → Word → Word)
    (h : ∀ s, exec i s = computeFree c o g s) (hc : c.size = i.size) : Computes i o g :=
  computes_each i c o (freeRule g) _ h hc (fun _ _ _ _ _ => rfl) (fun s t rt x a b d ht => by
    simp only [ht.free])

/-- A computational instruction computes its rule, in both forms. -/
theorem computes_pure (i : Instr) (c : Ctx) (o : Operands) (g : Word → Word → Word → Word)
    (h : ∀ s, exec i s = compute c o g s) (hc : c.size = i.size) : Computes i o (fun _ => g) :=
  computes_free i c o (fun _ => g) (fun s => by rw [h]; rfl) hc

/-- The status update keeps the rounding mode. -/
theorem fpRm_fstatAfter (w : Word) (r : FpResult) : fpRm (fstatAfter w r) = fpRm w := by
  unfold fpRm fstatAfter
  generalize r.conds.bits = f
  dsimp only
  ext i hi
  simp only [BitVec.getElem_extractLsb', BitVec.getLsbD_append, BitVec.getLsbD_extractLsb']
  have : i = 0 ∨ i = 1 ∨ i = 2 := by omega
  rcases this with rfl | rfl | rfl <;> simp

/-- The status update keeps the enables. -/
theorem fpEnables_fstatAfter (w : Word) (r : FpResult) : fpEnables (fstatAfter w r) = fpEnables w := by
  unfold fpEnables fstatAfter
  generalize r.conds.bits = f
  dsimp only
  ext i hi
  simp only [BitVec.getElem_extractLsb', BitVec.getLsbD_append, BitVec.getLsbD_extractLsb']
  have : i = 0 ∨ i = 1 ∨ i = 2 ∨ i = 3 ∨ i = 4 := by omega
  rcases this with rfl | rfl | rfl | rfl | rfl <;> simp

/-- With nothing enabled, nothing raises. -/
theorem fpRaises_disabled (w : Word) (f : BitVec 5) (h : fpEnables w = 0#5) : fpRaises w f = false := by
  unfold fpRaises; rw [h, BitVec.and_zero]; rfl

/-- Whether a condition is enabled does not change with the status update. -/
theorem fpRaises_enables (w w' : Word) (f : BitVec 5) (h : fpEnables w = fpEnables w') : fpRaises w f = fpRaises w' f := by
  unfold fpRaises; rw [h]

/-- A floating-point instruction computes and commits its operation, in both forms. -/
theorem computes_fp (i : Instr) (c : Ctx) (o : Operands) (rm : Option (BitVec 3))
    (g : BitVec 3 → Word → Word → Word → Word → FpResult) (h : ∀ s, exec i s = run c o (fpRule rm g) s)
    (hc : c = Instr.ctx i) : ComputesFp i o rm g := by
  intro s
  have hs : i.size = c.size := by rw [hc]; rfl
  rw [hs, ← hc]
  have hF : ∀ (y : Nat) (w : Word), fpRm w = fpRm s.csr.fstat ∧ fpEnables w = fpEnables s.csr.fstat →
      ∀ r, fpRm (fstatAfter w r) = fpRm s.csr.fstat ∧ fpEnables (fstatAfter w r) = fpEnables s.csr.fstat :=
    fun y w hw r => ⟨by rw [fpRm_fstatAfter]; exact hw.1, by rw [fpEnables_fstatAfter]; exact hw.2⟩
  refine ⟨fun hv x y z hx hy hz => ⟨fun hr => ?_, fun hr => ?_⟩, fun hv hn => ?_, fun hv hvl he => ?_,
    fun hv hvl x hx hr hb => ?_⟩
  · rw [h]
    exact run_scalar c o _ s x y z _ _ hv hx hy hz (by simp only [fpRule, State.fpCommit, hr]; rfl)
  · rw [h]
    exact run_scalar_trap c o _ s x y z _ _ hv hx hy hz (by simp only [fpRule, State.fpCommit, hr, if_true])
  · rw [h, run_refused c o _ s hv hn]
  · obtain ⟨t, h1, h2⟩ := vectorLoop_spec s o.m o.rt o.z c.size
      (fun x => (g (rm.getD (fpRm s.csr.fstat)) (s.free x) (o.a.element s x) (o.b.element s x) (o.c.element s x)).value)
      (fun x w => fstatAfter w
        (g (rm.getD (fpRm s.csr.fstat)) (s.free x) (o.a.element s x) (o.b.element s x) (o.c.element s x)))
      (fun w => fpRm w = fpRm s.csr.fstat ∧ fpEnables w = fpEnables s.csr.fstat)
      (fun x s1 => (fpRule rm g x (o.a.element s1 x) (o.b.element s1 x) (o.c.element s1 x) s1).bind fun t s2 =>
        .ok () (s2.setVec o.rt x t)) hvl (fun y w hw => hF y w hw _) ⟨rfl, rfl⟩
      (fun y t hy ht hw => by
        simp only [fpRule, State.fpCommit, ht.element, ht.free, hw.1, fpRaises_enables _ _ _ hw.2, he y hy]
        rfl)
    refine ⟨t, ?_, ?_⟩
    · rw [h, run, if_pos hv, finishSeq, runVector, h1]
      rfl
    · simp only [fstatFold, List.foldl_map]
      exact h2
  · obtain ⟨t, h1, h2⟩ := vectorLoop_trap_spec s o.m o.rt o.z
      (fun x => (g (rm.getD (fpRm s.csr.fstat)) (s.free x) (o.a.element s x) (o.b.element s x) (o.c.element s x)).value)
      (fun x w => fstatAfter w
        (g (rm.getD (fpRm s.csr.fstat)) (s.free x) (o.a.element s x) (o.b.element s x) (o.c.element s x)))
      (fun w => fpRm w = fpRm s.csr.fstat ∧ fpEnables w = fpEnables s.csr.fstat)
      (fun x s1 => (fpRule rm g x (o.a.element s1 x) (o.b.element s1 x) (o.c.element s1 x) s1).bind fun t s2 =>
        .ok () (s2.setVec o.rt x t)) (.plain causeFLT) x hvl (fun y w hw => hF y w hw _) ⟨rfl, rfl⟩ hx
      (fun y t hy hyx ht hw => by
        simp only [fpRule, State.fpCommit, ht.element, ht.free, hw.1, fpRaises_enables _ _ _ hw.2, hb y hy hyx]
        rfl)
      (fun t ht hw => by
        simp only [fpRule, State.fpCommit, ht.element, ht.free, hw.1, fpRaises_enables _ _ _ hw.2, hr, if_true,
          Res.bind_trap])
    refine ⟨t, ?_, ?_⟩
    · rw [h, run, if_pos hv, finishSeq, runVector, h1]
      rfl
    · simp only [fstatFold, List.foldl_map]
      exact h2

end Sys2Proof.Machine
end

