-- ==== Sys2Proof/Laws/Access.lean ====
section
/-! SUPPORT. What a plain access does, said once: a load answers the bytes and changes nothing, a store writes them and
nothing else. -/

namespace Sys2Proof.Machine

/-! ### Addresses -/

/-- The base addition in numbers: pages are added, offsets pass. -/
theorem base_arith (V B : Nat) (hV : V < 2 ^ 64) (hB : B < 2 ^ 64) :
    (V / 2 ^ 12 % 2 ^ 52 + B / 2 ^ 12 % 2 ^ 52) % 2 ^ 52 * 2 ^ 12 + V % 2 ^ 12 =
      (V + B / 2 ^ 12 % 2 ^ 52 * 2 ^ 12) % 2 ^ 64 := by
  rw [Nat.mod_eq_of_lt (show V / 2 ^ 12 < 2 ^ 52 by omega), Nat.mod_eq_of_lt (show B / 2 ^ 12 < 2 ^ 52 by omega)]
  generalize B / 2 ^ 12 = b
  obtain ⟨a, l, rfl, hl⟩ : ∃ a l, V = 2 ^ 12 * a + l ∧ l < 2 ^ 12 := ⟨V / 2 ^ 12, V % 2 ^ 12, by omega, by omega⟩
  rw [show (2 ^ 12 * a + l) / 2 ^ 12 = a by omega, show (2 ^ 12 * a + l) % 2 ^ 12 = l by omega]
  omega

/-- The base addition passes an offset through (20_memory R161). -/
theorem linearAddress_add (base va j : Word) : linearAddress base (va + j) = linearAddress base va + j := by
  have key : ∀ v : Word, linearAddress base v = v + (base.extractLsb' 12 52 ++ 0#12) := by
    intro v
    apply BitVec.eq_of_toNat_eq
    simp only [linearAddress, BitVec.toNat_append, BitVec.toNat_add, BitVec.extractLsb'_toNat, Nat.shiftRight_eq_div_pow,
      BitVec.toNat_ofNat, Nat.zero_mod, Nat.or_zero]
    rw [← Nat.shiftLeft_add_eq_or_of_lt (Nat.mod_lt _ (by decide)), Nat.shiftLeft_eq, Nat.shiftLeft_eq,
      Nat.pow_zero, Nat.div_one]
    exact base_arith v.toNat base.toNat v.isLt base.isLt
  rw [key, key, BitVec.add_assoc, BitVec.add_assoc, BitVec.add_comm j]

/-- The addresses of n at most 2^64 consecutive bytes are different. -/
theorem address_ne (pa : Word) (i j : Nat) (hi : i < 2 ^ 64) (hj : j < 2 ^ 64) (h : i ≠ j) :
    (pa + BitVec.ofNat 64 i).toNat ≠ (pa + BitVec.ofNat 64 j).toNat := by
  simp only [BitVec.toNat_add, BitVec.toNat_ofNat]
  omega

namespace State

/-! ### The steps of a plain access -/

/-- With no old selector kept, a use of one gives the register. -/
theorem useSelector_settled (s : State) (n : Nat) (h : s.pending.sel = []) : s.useSelector n = (s.selector n, s) := by
  unfold useSelector useFrom pendingFor; rw [h]; rfl

/-- With no old selector kept, a fetch begins with CS as it stands. -/
theorem beginFetch_eq (s : State) (h : s.pending.sel = []) :
    s.beginFetch = { s with fetching := ⟨s.selector 7, []⟩ } := by
  unfold beginFetch
  rw [useSelector_settled s 7 h]

/-- A fetch that begins with nothing to note changes nothing. -/
theorem beginFetch_settled (s : State) (h1 : s.pending.sel = []) (h2 : s.fetching = ⟨s.selector 7, []⟩) :
    s.beginFetch = s := by
  rw [beginFetch_eq s h1]
  exact congrArg (fun f => { s with fetching := f }) h2.symm

/-- Steps 2 to 5 of 20_memory R190 in plain circumstances. -/
theorem physical_plain (s : State) (k : Access) (seg : Nat) (base va : Word) (n j : Nat) (hk : k ≠ .fetch)
    (h : s.Plain k seg base va n) (hj : j < n) :
    s.physical k seg (va + BitVec.ofNat 64 j) = .ok (linearAddress base va + BitVec.ofNat 64 j) s := by
  obtain ⟨d, hd, hb, hp⟩ := h.loaded
  obtain ⟨a, ha, hr⟩ := h.attributes j hj
  have h1 : s.segment k seg (va + BitVec.ofNat 64 j) = .ok (linearAddress base va + BitVec.ofNat 64 j) s := by
    unfold segment segmentDescriptor
    rw [if_neg (fun e => hk e.1), accessSelector, if_neg hk, useSelector_settled s seg h.settled]
    simp only [if_neg hk]
    by_cases hpe : s.pe = true
    · simp only [hd, hpe, if_true, (hp hpe).1, (hp hpe).2 j hj, hb, linearAddress_add]
    · simp only [hd, hpe, if_false, hb, linearAddress_add, Bool.false_eq_true]
  have h2 : s.translate k (va + BitVec.ofNat 64 j) (linearAddress base va + BitVec.ofNat 64 j) =
      .ok (linearAddress base va + BitVec.ofNat 64 j) s := by
    unfold translate
    rw [h.untranslated j hj]; rfl
  have h3 : ∀ va pa, s.checkKey va pa = .ok () s := by
    intro va pa
    unfold checkKey
    rw [h.unkeyed]; rfl
  have h4 : s.checkPma k (va + BitVec.ofNat 64 j) (linearAddress base va + BitVec.ofNat 64 j) = .ok () s := by
    unfold checkPma
    rw [ha]
    simp only [hr, if_true]
  unfold physical
  rw [h1, Res.bind_ok, h2, Res.bind_ok, h3, Res.bind_ok, h4, Res.bind_ok]

/-- A list of numbers in which nothing is found. -/
theorem find_range_none {α : Type} (n : Nat) (f : Nat → Option α) (h : ∀ j < n, f j = none) :
    (List.range n).findSome? f = none := by
  rw [List.findSome?_eq_none_iff]
  intro j hj
  exact h j (List.mem_range.1 hj)

/-- The debug match of an access that no register matches. -/
theorem debugData_plain (s : State) (st : Bool) (va : Word) (n : Nat)
    (h : ∀ j < n, ∀ r < 4, debugMatchesData s st (va + BitVec.ofNat 64 j) r = false) : s.debugData st va n = .ok () s := by
  have hm : ∀ j < n, matchBits (debugMatchesData s st (va + BitVec.ofNat 64 j)) = 0#4 := by
    intro j hj
    unfold matchBits
    rw [h j hj 3 (by omega), h j hj 2 (by omega), h j hj 1 (by omega), h j hj 0 (by omega)]
    rfl
  have hall : ∀ (l : List Nat) (m : BitVec 4), (∀ j ∈ l, j < n) → m = 0#4 →
      l.foldl (fun m k => m ||| matchBits (debugMatchesData s st (va + BitVec.ofNat 64 k))) m = 0#4 := by
    intro l
    induction l with
    | nil => intro m _ hm0; exact hm0
    | cons a l ih =>
      intro m hl hm0
      rw [List.foldl_cons]
      exact ih _ (fun j hj => hl j (List.mem_cons_of_mem _ hj)) (by rw [hm0, hm a (hl a List.mem_cons_self)]; rfl)
  unfold debugData
  dsimp only
  rw [if_pos (hall _ _ (fun j hj => List.mem_range.1 hj) rfl)]

/-- The bus answers where there is memory. -/
theorem busAnswers_plain (s : State) (k : Access) (va pa : Word) (n : Nat)
    (h : ∀ j < n, platformKind s.config.platformMap (pa + BitVec.ofNat 64 j).toNat = .memory) :
    s.busAnswers k va pa n = .ok () s := by
  have : firstNonMemory s.config.platformMap pa n = none := by
    unfold firstNonMemory
    apply find_range_none
    intro j hj
    dsimp only
    rw [h j hj]
  unfold busAnswers
  rw [this]

/-! ### Loads -/

/-- A part of a plain range is plain. -/
theorem Plain.sub {s : State} {k : Access} {seg : Nat} {base va : Word} {n : Nat} (h : s.Plain k seg base va n)
    (i m : Nat) (hi : i + m ≤ n) : s.Plain k seg base (va + BitVec.ofNat 64 i) m := by
  have ha : ∀ (v : Word) (j : Nat), v + BitVec.ofNat 64 i + BitVec.ofNat 64 j = v + BitVec.ofNat 64 (i + j) := by
    intro v j; rw [BitVec.add_assoc, BitVec.ofNat_add]
  obtain ⟨d, hd, hb, hp⟩ := h.loaded
  refine ⟨h.settled, ⟨d, hd, hb, fun hpe => ⟨(hp hpe).1, fun j hj => ?_⟩⟩, fun j hj => ?_, h.unkeyed,
    fun j hj r hr => ?_, fun j hj => ?_, fun j hj => ?_⟩
  · rw [ha]; exact (hp hpe).2 (i + j) (by omega)
  · rw [linearAddress_add, ha]; exact h.untranslated (i + j) (by omega)
  · rw [ha]; exact h.undebugged (i + j) (by omega) r hr
  · rw [linearAddress_add, ha]; exact h.attributes (i + j) (by omega)
  · rw [linearAddress_add, ha]; exact h.memory (i + j) (by omega)

/-- A plain load of n bytes made as a whole. -/
theorem loadOne_plain (s : State) (seg : Nat) (base va : Word) (n : Nat) (h : s.Plain .load seg base va n) (hn : 0 < n) :
    s.loadOne seg va n = .ok (s.bytesAt (linearAddress base va) n) s := by
  have h0 := physical_plain s .load seg base va n 0 (by decide) h hn
  simp only [BitVec.add_zero] at h0
  unfold loadOne
  rw [debugData_plain s false va n (fun j hj r hr => h.undebugged j hj r hr), Res.bind_ok, h0, Res.bind_ok,
    busAnswers_plain s .load va _ n h.memory, Res.bind_ok]

/-- A plain load byte by byte. -/
theorem loadEach_plain (s : State) (seg : Nat) (base va : Word) (n : Nat) (h : s.Plain .load seg base va n) :
    s.loadEach seg va n = .ok (s.bytesAt (linearAddress base va) n) s := by
  induction n generalizing va with
  | zero => rfl
  | succ n ih =>
    have h1 := h.sub 0 1 (by omega)
    simp only [BitVec.add_zero] at h1
    have h2 := h.sub 1 n (by omega)
    have h3 := ih (va + 1) h2
    unfold loadEach
    rw [loadOne_plain s seg base va 1 h1 (by omega), Res.bind_ok, h3, Res.bind_ok]
    refine congrArg (fun l => Res.ok l s) ?_
    have hs : (List.range (n + 1)) = 0 :: (List.range n).map Nat.succ := List.range_succ_eq_map
    unfold bytesAt
    rw [hs, List.map_cons, List.map_map]
    show [_] ++ _ = _
    rw [List.singleton_append]
    refine congrArg (List.cons _) ?_
    apply List.map_congr_left
    intro j _
    simp only [Function.comp_apply]
    rw [show va + 1 = va + BitVec.ofNat 64 1 from rfl, linearAddress_add, BitVec.add_assoc, ← BitVec.ofNat_add,
      Nat.add_comm 1 j]

/-- A plain load answers the little-endian value and changes nothing, aligned or not (20_memory R143). -/
theorem memRead_plain (s : State) (seg : Nat) (base va : Word) (n : Nat) (h : s.Plain .load seg base va n)
    (hn : 0 < n) : s.memRead seg va n = .ok (s.valueAt (linearAddress base va) n) s := by
  unfold memRead
  by_cases ha : naturallyAligned va n
  · rw [if_pos ha, loadOne_plain s seg base va n h hn]; rfl
  · rw [if_neg ha, loadEach_plain s seg base va n h]; rfl

end State

/-! ### What stores keep of what they replace -/

/-- Byte b is stored to address a by a store of these bytes at pa. -/
def WroteBytes (pa : Word) (bs : List Byte) (a : Nat) (b : Byte) : Prop :=
  ∃ j, a = (pa + BitVec.ofNat 64 j).toNat ∧ bs[j]? = some b

theorem wroteBytes_iff (pa : Word) (n : Nat) (v : Word) (a : Nat) (b : Byte) :
    WroteBytes pa (bytesOf n v) a b ↔ WroteAt pa n v a b := by
  have hg : ∀ j < n, (bytesOf n v)[j]? = some (v.extractLsb' (8 * j) 8) := fun j hj => by simp [bytesOf, hj]
  refine ⟨fun ⟨j, ha, hj⟩ => ?_, fun ⟨j, hn, ha, hb⟩ => ⟨j, ha, by rw [hg j hn, hb]⟩⟩
  have hn : j < n := by simpa [bytesOf] using (List.getElem?_eq_some_iff.1 hj).1
  rw [hg j hn] at hj
  exact ⟨j, hn, ha, (Option.some.inj hj).symm⟩

/-- The first byte of a store and the others. -/
theorem wroteBytes_cons (pa : Word) (b : Byte) (bs : List Byte) (a : Nat) (c : Byte) :
    WroteBytes pa (b :: bs) a c ↔ WroteBytes pa [b] a c ∨ WroteBytes (pa + 1) bs a c := by
  have ha : ∀ j, pa + 1 + BitVec.ofNat 64 j = pa + BitVec.ofNat 64 (j + 1) := fun j => by
    rw [BitVec.ofNat_add, BitVec.add_comm (BitVec.ofNat 64 j), ← BitVec.add_assoc]; rfl
  constructor
  · rintro ⟨j, h1, h2⟩
    cases j with
    | zero => exact .inl ⟨0, h1, h2⟩
    | succ j => exact .inr ⟨j, by rw [h1, ha], h2⟩
  · rintro (⟨j, h1, h2⟩ | ⟨j, h1, h2⟩)
    · cases j with
      | zero => exact ⟨0, h1, h2⟩
      | succ j => simp at h2
    · exact ⟨j + 1, by rw [h1, ha], h2⟩

namespace StaleKept

variable {s t u : State} {w w' : Nat → Byte → Prop}

theorem refl (s : State) (w : Nat → Byte → Prop) : StaleKept s s w :=
  ⟨fun _ => .inl rfl, fun _ => id, fun _ h => absurd rfl h, fun _ => .inl⟩

theorem mono (h : StaleKept s t w) (hw : ∀ a b, w a b → w' a b) : StaleKept s t w' :=
  ⟨fun a => (h.values a).imp id (hw a _), h.keeps, h.replaced, fun e he => (h.others e he).imp id
    fun ⟨h1, ⟨b, h2⟩, h3⟩ => ⟨h1, ⟨b, hw _ b h2⟩, h3.imp id (hw _ _)⟩⟩

/-- What the key cache may hold is no part of it. -/
theorem rewritten (h : StaleKept s t w) (r : List (Nat × BitVec 32)) : StaleKept s { t with rewritten := r } w :=
  ⟨h.values, h.keeps, h.replaced, h.others⟩

/-- Nor are ip and D_VSTEP. -/
theorem advance (h : StaleKept s t w) (n : Nat) : StaleKept s (t.advance n) w :=
  ⟨h.values, h.keeps, h.replaced, h.others⟩

theorem looped (h : StaleKept s t w) : StaleKept s t.looped w := ⟨h.values, h.keeps, h.replaced, h.others⟩

/-- Stores one after the other. -/
theorem trans (h : StaleKept s t w) (k : StaleKept t u w') : StaleKept s u fun a b => w a b ∨ w' a b := by
  refine ⟨fun a => ?_, fun e he => k.keeps e (h.keeps e he), fun a ha => ?_, fun e he => ?_⟩
  · rcases k.values a with h1 | h1
    · rw [h1]; exact (h.values a).imp id .inl
    · exact .inr (.inr h1)
  · by_cases h1 : Memory.read t.mem a = Memory.read s.mem a
    · rw [← h1] at ha ⊢
      exact k.replaced a ha
    · exact k.keeps _ (h.replaced a h1)
  · rcases k.others e he with h1 | ⟨h1, ⟨b, h2⟩, h3⟩
    · exact (h.others e h1).imp id fun ⟨h4, ⟨b, h5⟩, h6⟩ => ⟨h4, ⟨b, .inl h5⟩, h6.imp id .inl⟩
    · refine .inr ⟨h1, ⟨b, .inr h2⟩, ?_⟩
      rcases h3 with h3 | h3
      · rw [h3]; exact (h.values e.addr).imp id .inl
      · exact .inr (.inr h3)

end StaleKept

namespace TetrasKept

variable {s t u : State} {w w' : Nat → Byte → Prop}

theorem mono (h : TetrasKept s t w) (hw : ∀ a b, w a b ↔ w' a b) : TetrasKept s t w' := by
  have : w = w' := funext fun a => funext fun b => propext (hw a b)
  exact this ▸ h

/-- What the ip and D_VSTEP hold is no part of it. -/
theorem advance (h : TetrasKept s t w) (n : Nat) : TetrasKept s (t.advance n) w := ⟨h.keeps, h.replaced, h.others⟩

theorem looped (h : TetrasKept s t w) : TetrasKept s t.looped w := ⟨h.keeps, h.replaced, h.others⟩

/-- No store of a list of none. -/
theorem nil {w : Nat → Nat → Byte → Prop} (s : State) : TetrasKept s s fun a b => ∃ x ∈ [], w x a b :=
  ⟨fun _ => id, fun _ ⟨_, _, _, _, h, _⟩ => (by cases h), fun _ => .inl⟩

/-- A tetra with no stored byte is as before. -/
theorem tetra_eq (hv : ∀ a, Memory.read t.mem a = Memory.read s.mem a ∨ w a (Memory.read t.mem a)) (a : Word)
    (h : ¬ ∃ i < 4, ∃ b, w (a + BitVec.ofNat 64 i).toNat b) : Memory.tetra t.mem a = Memory.tetra s.mem a := by
  unfold Memory.tetra
  refine congrArg (fun l => (wordOf l).setWidth 32) (List.map_congr_left fun i hi => ?_)
  rcases hv (a + BitVec.ofNat 64 i).toNat with h1 | h1
  · exact h1
  · exact absurd ⟨i, List.mem_range.1 hi, _, h1⟩ h

/-- Stores one after the other. -/
theorem trans (h : TetrasKept s t w)
    (hv : ∀ a, Memory.read t.mem a = Memory.read s.mem a ∨ w a (Memory.read t.mem a)) (k : TetrasKept t u w') :
    TetrasKept s u fun a b => w a b ∨ w' a b := by
  refine ⟨fun e he => k.keeps e (h.keeps e he), fun a ha => ?_, fun e he => ?_⟩
  · by_cases h1 : ∃ i < 4, ∃ b, w (a + BitVec.ofNat 64 i).toNat b
    · exact k.keeps _ (h.replaced a h1)
    · rw [← tetra_eq hv a h1]
      obtain ⟨i, hi, b, hb⟩ := ha
      exact k.replaced a ⟨i, hi, b, hb.resolve_left fun hb => h1 ⟨i, hi, b, hb⟩⟩
  · rcases k.others e he with h1 | ⟨a, h1, i, hi, b, hb⟩
    · exact (h.others e h1).imp id fun ⟨a, h2, i, hi, b, hb⟩ => ⟨a, h2, i, hi, b, .inl hb⟩
    · exact .inr ⟨a, h1, i, hi, b, .inr hb⟩

end TetrasKept

namespace State

/-- A stored byte keeps the old one where it changes. -/
theorem storeByte_staleKept (s : State) (a : Nat) (b : Byte) (hw : Memory.wf s.mem = true) :
    StaleKept s (s.storeByte a b) fun c d => c = a ∧ d = b := by
  have hr := fun c => s.storeByte_read a c b hw
  by_cases h : Memory.read s.mem a = b
  · have : s.storeByte a b = s := by unfold storeByte; exact if_pos h
    rw [this]; exact .refl s _
  · have hs : (s.storeByte a b).stale = ⟨a, Memory.read s.mem a, false⟩ :: s.stale := by
      unfold storeByte; dsimp only; rw [if_neg h]
    refine ⟨fun c => ?_, fun e he => ?_, fun c hc => ?_, fun e he => ?_⟩
    · rw [hr]
      by_cases hc : c = a
      · rw [if_pos hc]; exact .inr ⟨hc, rfl⟩
      · rw [if_neg hc]; exact .inl rfl
    · rw [hs]; exact List.mem_cons_of_mem _ he
    · rw [hr] at hc
      by_cases hca : c = a
      · rw [hs, hca]; exact List.mem_cons_self
      · rw [if_neg hca] at hc; exact absurd rfl hc
    · rw [hs] at he
      rcases List.mem_cons.1 he with he | he
      · rw [he]; exact .inr ⟨rfl, ⟨b, rfl, rfl⟩, .inl rfl⟩
      · exact .inl he

/-- Stored bytes keep the old ones where they change. -/
theorem storeBytes_staleKept (s : State) (pa : Word) (bs : List Byte) (hw : Memory.wf s.mem = true) :
    StaleKept s (s.storeBytes pa bs) (WroteBytes pa bs) := by
  induction bs generalizing s pa with
  | nil => exact .refl s _
  | cons b bs ih =>
    exact ((s.storeByte_staleKept pa.toNat b hw).trans (ih _ (pa + 1) (s.storeByte_wf _ _ hw))).mono fun a c h =>
      (wroteBytes_cons pa b bs a c).2 (h.imp_left fun ⟨ha, hc⟩ => ⟨0, by rw [ha, BitVec.add_zero], by rw [hc]; rfl⟩)

/-- The tetras that a store keeps are those that have one of its bytes. -/
theorem tetrasKept_keepTetras (s t : State) (pa : Word) (bs : List Byte) (hn : 0 < bs.length)
    (h : t.rewritten = (s.keepTetras pa bs.length).rewritten) : TetrasKept s t (WroteBytes pa bs) := by
  have hm : ∀ e, e ∈ t.rewritten ↔ e ∈ s.tetrasAt pa bs.length ∨ e ∈ s.rewritten := by
    intro e
    rw [h]
    refine ⟨fun he => ?_, fun he => ?_⟩
    · exact (List.mem_append.1 he).imp (fun h => (List.mem_filter.1 h).1) id
    · rcases he with he | he
      · exact s.keepTetras_keeps pa _ e he
      · exact List.mem_append.2 (.inr he)
  refine ⟨fun e he => (hm e).2 (.inr he), fun a ⟨i, hi, b, j, ha, hb⟩ => (hm _).2 (.inl ?_), fun e he => ?_⟩
  · have hj := (List.getElem?_eq_some_iff.1 hb).1
    have h1 : a = pa - 3 + BitVec.ofNat 64 (j + 3 - i) := by
      have h2 : a + BitVec.ofNat 64 i = pa + BitVec.ofNat 64 j := BitVec.eq_of_toNat_eq ha
      have h3 : BitVec.ofNat 64 (j + 3 - i) + BitVec.ofNat 64 i = BitVec.ofNat 64 j + 3 := by
        rw [show (3 : Word) = BitVec.ofNat 64 3 from rfl, ← BitVec.ofNat_add, ← BitVec.ofNat_add]
        congr 1; omega
      generalize BitVec.ofNat 64 (j + 3 - i) = x at *
      generalize BitVec.ofNat 64 i = y at *
      generalize BitVec.ofNat 64 j = z at *
      bv_omega
    rw [h1]
    exact List.mem_map.2 ⟨j + 3 - i, List.mem_range.2 (by omega), rfl⟩
  · rcases (hm e).1 he with he | he
    · obtain ⟨k, hk, rfl⟩ := List.mem_map.1 he
      have hk := List.mem_range.1 hk
      refine .inr ⟨_, rfl, ?_⟩
      by_cases h3 : k < 3
      · refine ⟨3 - k, by omega, bs[0], 0, ?_, by simp⟩
        rw [BitVec.add_assoc, ← BitVec.ofNat_add, show k + (3 - k) = 3 by omega]
        congr 1
        bv_omega
      · refine ⟨0, by omega, bs[k - 3]'(by omega), k - 3, ?_, by simp⟩
        obtain ⟨m, rfl⟩ : ∃ m, k = m + 3 := ⟨k - 3, by omega⟩
        rw [BitVec.ofNat_add, show m + 3 - 3 = m by omega]
        congr 1
        generalize BitVec.ofNat 64 m = x
        bv_omega
    · exact .inl he

/-! ### Stores -/

/-- Storing a byte leaves plain circumstances plain. -/
theorem Plain.storeByte {s : State} {k : Access} {seg : Nat} {base va : Word} {n : Nat} (h : s.Plain k seg base va n)
    (a : Nat) (b : Byte) : (s.storeByte a b).Plain k seg base va n := by
  unfold State.storeByte
  dsimp only
  split
  · exact h
  · exact ⟨h.settled, h.loaded, h.untranslated, h.unkeyed, h.undebugged, h.attributes, h.memory⟩

/-- What the key cache may hold is no part of plain circumstances. -/
theorem Plain.rewritten {s : State} {k : Access} {seg : Nat} {base va : Word} {n : Nat} (h : s.Plain k seg base va n)
    (r : List (Nat × BitVec 32)) : ({ s with rewritten := r } : State).Plain k seg base va n :=
  ⟨h.settled, h.loaded, h.untranslated, h.unkeyed, h.undebugged, h.attributes, h.memory⟩

/-- A plain store of bytes made as a whole. -/
theorem storeOne_plain (s : State) (seg : Nat) (base va : Word) (bs : List Byte)
    (h : s.Plain .store seg base va bs.length) (hn : 0 < bs.length) :
    ∃ r, s.storeOne seg va bs = .ok () { s.storeBytes (linearAddress base va) bs with rewritten := r } ∧
      TetrasKept s { s.storeBytes (linearAddress base va) bs with rewritten := r }
        (WroteBytes (linearAddress base va) bs) := by
  have h0 := physical_plain s .store seg base va bs.length 0 (by decide) h hn
  simp only [BitVec.add_zero] at h0
  unfold storeOne
  rw [debugData_plain s true va _ (fun j hj r hr => h.undebugged j hj r hr), Res.bind_ok, h0, Res.bind_ok,
    busAnswers_plain s .store va _ _ h.memory, Res.bind_ok]
  exact ⟨_, congrArg (Res.ok ()) (storeBytes_rewritten s _ bs _), tetrasKept_keepTetras s _ _ bs hn rfl⟩

/-- A plain store byte by byte. -/
theorem storeEach_plain (s : State) (seg : Nat) (base va : Word) (bs : List Byte)
    (h : s.Plain .store seg base va bs.length) (hw : Memory.wf s.mem = true) :
    ∃ r, s.storeEach seg va bs = .ok () { s.storeBytes (linearAddress base va) bs with rewritten := r } ∧
      TetrasKept s { s.storeBytes (linearAddress base va) bs with rewritten := r }
        (WroteBytes (linearAddress base va) bs) := by
  induction bs generalizing s va with
  | nil => exact ⟨s.rewritten, rfl, ⟨fun _ => id, fun a ⟨_, _, _, _, _, hj⟩ => (by cases hj), fun _ => .inl⟩⟩
  | cons b bs ih =>
    have h1 := h.sub 0 1 (by simp)
    simp only [BitVec.add_zero] at h1
    have h2 := h.sub 1 bs.length (by simp; omega)
    obtain ⟨r, hr, hk⟩ := storeOne_plain s seg base va [b] h1 (by simp)
    obtain ⟨q, hq, hk'⟩ := ih { s.storeByte (linearAddress base va).toNat b with rewritten := r } (va + 1)
      ((h2.storeByte _ _).rewritten r) (s.storeByte_wf _ _ hw)
    rw [storeBytes_rewritten] at hq hk'
    rw [linearAddress_add] at hq hk'
    refine ⟨q, ?_, ?_⟩
    · unfold storeEach
      rw [hr, Res.bind_ok]
      exact hq
    · refine (hk.trans (storeBytes_staleKept s _ [b] hw).values hk').mono fun a c => (wroteBytes_cons _ b bs a c).symm

/-- A plain store writes the bytes, aligned or not (20_memory R143). -/
theorem memWrite_plain (s : State) (seg : Nat) (base va : Word) (n : Nat) (v : Word)
    (h : s.Plain .store seg base va n) (hn : 0 < n) (hw : Memory.wf s.mem = true) :
    ∃ r, s.memWrite seg va n v =
      .ok () { s.storeBytes (linearAddress base va) (bytesOf n v) with rewritten := r } ∧
      TetrasKept s { s.storeBytes (linearAddress base va) (bytesOf n v) with rewritten := r }
        (WroteAt (linearAddress base va) n v) := by
  have hl : (bytesOf n v).length = n := by simp [bytesOf]
  unfold memWrite
  by_cases ha : naturallyAligned va n
  · obtain ⟨r, hr, hk⟩ := storeOne_plain s seg base va _ (by rw [hl]; exact h) (by omega)
    exact ⟨r, by rw [if_pos ha, hr]; rfl, hk.mono (wroteBytes_iff _ _ _)⟩
  · obtain ⟨r, hr, hk⟩ := storeEach_plain s seg base va _ (by rw [hl]; exact h) hw
    exact ⟨r, by rw [if_neg ha, hr]; rfl, hk.mono (wroteBytes_iff _ _ _)⟩

/-- A byte outside the stored ones reads as before. -/
theorem storeBytes_read_other (s : State) (pa : Word) (bs : List Byte) (a : Nat) (hw : Memory.wf s.mem = true)
    (h : ∀ j < bs.length, a ≠ (pa + BitVec.ofNat 64 j).toNat) :
    Memory.read (s.storeBytes pa bs).mem a = Memory.read s.mem a := by
  induction bs generalizing s pa with
  | nil => rfl
  | cons b bs ih =>
    have h0 := h 0 (by simp)
    simp only [BitVec.add_zero] at h0
    show Memory.read ((s.storeByte pa.toNat b).storeBytes (pa + 1) bs).mem a = _
    rw [ih _ _ (s.storeByte_wf _ _ hw) (fun j hj => ?_), s.storeByte_read _ _ _ hw, if_neg h0]
    have h1 := h (j + 1) (by simp; omega)
    rw [BitVec.ofNat_add, BitVec.add_comm (BitVec.ofNat 64 j), ← BitVec.add_assoc] at h1
    exact h1

/-- A stored byte reads as stored. -/
theorem storeBytes_read_same (s : State) (pa : Word) (bs : List Byte) (j : Nat) (hw : Memory.wf s.mem = true)
    (hl : bs.length < 2 ^ 64) (hj : j < bs.length) :
    Memory.read (s.storeBytes pa bs).mem (pa + BitVec.ofNat 64 j).toNat = bs[j] := by
  induction bs generalizing s pa j with
  | nil => simp at hj
  | cons b bs ih =>
    simp only [List.length_cons] at hl hj
    show Memory.read ((s.storeByte pa.toNat b).storeBytes (pa + 1) bs).mem _ = _
    cases j with
    | zero =>
      rw [storeBytes_read_other _ _ _ _ (s.storeByte_wf _ _ hw) (fun i hi => ?_), s.storeByte_read _ _ _ hw]
      · simp
      · have := address_ne pa 0 (i + 1) (by omega) (by omega) (by omega)
        rw [BitVec.ofNat_add, BitVec.add_comm (BitVec.ofNat 64 i), ← BitVec.add_assoc] at this
        exact this
    | succ j =>
      have := ih (s.storeByte pa.toNat b) (pa + 1) j (s.storeByte_wf _ _ hw) (by omega) (by omega)
      rw [BitVec.ofNat_add, BitVec.add_comm (BitVec.ofNat 64 j), ← BitVec.add_assoc]
      exact this

/-- A plain store of n bytes, as `StoredAt` says it. -/
theorem storedAt_storeBytes (s : State) (pa : Word) (n : Nat) (v : Word) (hw : Memory.wf s.mem = true)
    (hn : n < 2 ^ 64) (r : List (Nat × BitVec 32))
    (hk : TetrasKept s { s.storeBytes pa (bytesOf n v) with rewritten := r } (WroteAt pa n v)) :
    StoredAt s s { s.storeBytes pa (bytesOf n v) with rewritten := r } pa n v := by
  have hl : (bytesOf n v).length = n := by simp [bytesOf]
  refine ⟨fun j hj => ?_, fun a ha => ?_, ?_, ((storeBytes_staleKept s pa _ hw).mono fun a b => (wroteBytes_iff pa n v a b).1).rewritten r, hk⟩
  · show Memory.read (s.storeBytes pa (bytesOf n v)).mem _ = _
    rw [storeBytes_read_same s pa _ j hw (by omega) (by omega)]
    simp [bytesOf]
  rotate_left
  · have hf := s.storeBytes_frame pa (bytesOf n v)
    exact congrArg (fun t : State => { t with rewritten := s.rewritten }) hf
  · exact s.storeBytes_read_other pa _ a hw (by rw [hl]; exact ha)

end State

end Sys2Proof.Machine
end

