-- ==== Sys2Proof/Laws/Decimal.lean ====
section
/-! SUPPORT. The decimal format: what the encodings that the arithmetic builds stand for (44 R600, D54). -/

namespace Sys2Proof.Config

/-- The sign of an encoding built of a sign and a magnitude. -/
@[simp] theorem msb_ofBool_append (n : Bool) (b : BitVec 63) : (BitVec.ofBool n ++ b).msb = n := by
  rw [BitVec.msb_eq_getLsbD_last, BitVec.getLsbD_append, if_neg (by decide)]
  cases n <;> rfl

/-- The magnitude of an encoding built of a sign and a magnitude. -/
@[simp] theorem extractLsb'_ofBool_append (n : Bool) (b : BitVec 63) :
    (BitVec.ofBool n ++ b).extractLsb' 0 63 = b := by
  ext i h
  rw [BitVec.getElem_extractLsb', BitVec.getLsbD_append, if_pos (by omega), Nat.zero_add, BitVec.getLsbD_eq_getElem h]

/-- The value of an encoding built of a sign and a magnitude. -/
theorem dval_append (n : Bool) (b : BitVec 63) : dval (BitVec.ofBool n ++ b) =
    match dfp.magnitude b with
    | .zero => .zero n
    | .num q => .num (if n then -q else q)
    | .inf => .inf n
    | .qnan => .qnan
    | .snan => .snan := by
  unfold dval
  cases h : dfp.magnitude b <;> simp only [extractLsb'_ofBool_append, msb_ofBool_append, h]

/-- The value of an encoding with a finite magnitude other than zero. -/
theorem dval_num {b : BitVec 63} {q : Rat} (n : Bool) (h : dfp.magnitude b = .num q) :
    dval (BitVec.ofBool n ++ b) = .num (if n then -q else q) := by
  rw [dval_append, h]

/-- A zero of either sign. -/
theorem dval_dzero (n : Bool) : dval (dzero n) = .zero n := by rw [dzero, dval_append, dfp.magnitude_zero]

/-- An infinity of either sign. -/
theorem dval_dinf (n : Bool) : dval (dinf n) = .inf n := by rw [dinf, dval_append, dfp.magnitude_inf]

/-- DF(1). -/
theorem dval_dfOne : dval dfOne = .num 1 := dval_num false dfp.magnitude_one

/-- DF(-1). -/
theorem dval_dfMinusOne : dval dfMinusOne = .num (-1) := dval_num true dfp.magnitude_minusOne

/-- DF(2). -/
theorem dval_dfTwo : dval dfTwo = .num 2 := dval_num false dfp.magnitude_two

/-- The quiet NaN of an invalid operation. -/
theorem dval_dqnan : dval dqnan = .qnan := by rw [dval, dqnan, dfp.magnitude_qnan]

end Sys2Proof.Config
end

