-- ==== Sys2Proof/Laws/Encoding.lean ====
section
/-! SUPPORT. The fields of every format: what is put into a word by the encoder is what the decoder cuts out of it
(30 R240 to R261). -/

namespace Sys2Proof

/-! ### Cutting joined fields apart -/

/-- A field inside the low part. -/
theorem field_low {a b : Nat} (x : BitVec a) (y : BitVec b) (lo n : Nat) (h : lo + n ≤ b) :
    (x ++ y).extractLsb' lo n = y.extractLsb' lo n := by
  apply BitVec.eq_of_getLsbD_eq
  intro i hi
  simp only [BitVec.getLsbD_extractLsb', BitVec.getLsbD_append]
  rw [if_pos (by omega)]

/-- A field inside the high part. -/
theorem field_high {a b : Nat} (x : BitVec a) (y : BitVec b) (lo n : Nat) (h : b ≤ lo) :
    (x ++ y).extractLsb' lo n = x.extractLsb' (lo - b) n := by
  apply BitVec.eq_of_getLsbD_eq
  intro i hi
  simp only [BitVec.getLsbD_extractLsb', BitVec.getLsbD_append]
  rw [if_neg (by omega), show lo + i - b = lo - b + i by omega]

/-- A field of a zero-extended word. -/
theorem field_wide {a : Nat} (x : BitVec a) (lo n : Nat) (h : lo + n ≤ 64) :
    (x.setWidth 64).extractLsb' lo n = x.extractLsb' lo n := by
  apply BitVec.eq_of_getLsbD_eq
  intro i hi
  simp only [BitVec.getLsbD_extractLsb', BitVec.getLsbD_setWidth]
  simp [hi, show lo + i < 64 by omega]

/-- The field that is everything. -/
theorem field_whole {a : Nat} (x : BitVec a) : x.extractLsb' 0 a = x := by
  apply BitVec.eq_of_getLsbD_eq
  intro i hi
  simp [hi]

/-! ### The formats -/

namespace Fmt

/-- The fields of R1. -/
@[simp] theorem R1.ofWord_word (op : BitVec 8) (fn : BitVec 7) (f : R1) : R1.ofWord (f.word op fn) = f := by
  cases f
  simp (disch := decide) only [R1.ofWord, R1.word, R1.bits, fieldAt, field_wide, field_low, field_high, Nat.reduceSub,
    field_whole]

/-- The root opcode of R1. -/
@[simp] theorem R1.rootOf_word (op : BitVec 8) (fn : BitVec 7) (f : R1) : rootOf (f.word op fn) = op := by
  simp (disch := decide) only [R1.word, R1.bits, field_wide, field_low, field_whole]

/-- The function code of R1. -/
@[simp] theorem R1.func_word (op : BitVec 8) (fn : BitVec 7) (f : R1) : fieldAt (f.word op fn) 25 7 = fn := by
  simp (disch := decide) only [R1.word, R1.bits, field_wide, field_high, Nat.reduceSub,
    field_whole]

/-- Bit 8 of R1. -/
@[simp] theorem R1.vectorBitOf_word (op : BitVec 8) (fn : BitVec 7) (f : R1) : vectorBitOf (f.word op fn) = f.v := by
  simp (disch := decide) only [R1.word, R1.bits, field_wide, field_low, field_high, Nat.reduceSub,
    field_whole]

/-- The fields of R2. -/
@[simp] theorem R2.ofWord_word (op : BitVec 8) (f : R2) : R2.ofWord (f.word op) = f := by
  cases f
  simp (disch := decide) only [R2.ofWord, R2.word, R2.bits, fieldAt, field_wide, field_low, field_high, Nat.reduceSub,
    field_whole]

/-- The root opcode of R2. -/
@[simp] theorem R2.rootOf_word (op : BitVec 8) (f : R2) : rootOf (f.word op) = op := by
  simp (disch := decide) only [R2.word, R2.bits, field_wide, field_low, field_whole]

/-- Bit 8 of R2. -/
@[simp] theorem R2.vectorBitOf_word (op : BitVec 8) (f : R2) : vectorBitOf (f.word op) = f.v := by
  simp (disch := decide) only [R2.word, R2.bits, field_wide, field_low, field_high, Nat.reduceSub,
    field_whole]

/-- The fields of R3. -/
@[simp] theorem R3.ofWord_word (op : BitVec 8) (fn : BitVec 7) (f : R3) : R3.ofWord (f.word op fn) = f := by
  cases f
  simp (disch := decide) only [R3.ofWord, R3.word, R3.bits, fieldAt, field_wide, field_low, field_high, Nat.reduceSub,
    field_whole]

/-- The root opcode of R3. -/
@[simp] theorem R3.rootOf_word (op : BitVec 8) (fn : BitVec 7) (f : R3) : rootOf (f.word op fn) = op := by
  simp (disch := decide) only [R3.word, R3.bits, field_wide, field_low, field_whole]

/-- The function code of R3. -/
@[simp] theorem R3.func_word (op : BitVec 8) (fn : BitVec 7) (f : R3) : fieldAt (f.word op fn) 41 7 = fn := by
  simp (disch := decide) only [R3.word, R3.bits, field_wide, field_high, Nat.reduceSub,
    field_whole]

/-- Bit 8 of R3. -/
@[simp] theorem R3.vectorBitOf_word (op : BitVec 8) (fn : BitVec 7) (f : R3) : vectorBitOf (f.word op fn) = f.v := by
  simp (disch := decide) only [R3.word, R3.bits, field_wide, field_low, field_high, Nat.reduceSub,
    field_whole]

/-- The fields of R3P. -/
@[simp] theorem R3P.ofWord_word (op : BitVec 8) (f : R3P) : R3P.ofWord (f.word op) = f := by
  cases f
  simp (disch := decide) only [R3P.ofWord, R3P.word, R3P.bits, fieldAt, field_wide, field_low, field_high, Nat.reduceSub,
    field_whole]

/-- The root opcode of R3P. -/
@[simp] theorem R3P.rootOf_word (op : BitVec 8) (f : R3P) : rootOf (f.word op) = op := by
  simp (disch := decide) only [R3P.word, R3P.bits, field_wide, field_low, field_whole]

/-- Bit 8 of R3P. -/
@[simp] theorem R3P.vectorBitOf_word (op : BitVec 8) (f : R3P) : vectorBitOf (f.word op) = f.v := by
  simp (disch := decide) only [R3P.word, R3P.bits, field_wide, field_low, field_high, Nat.reduceSub,
    field_whole]

/-- The fields of RI. -/
@[simp] theorem RI.ofWord_word (op : BitVec 8) (f : RI) : RI.ofWord (f.word op) = f := by
  cases f
  simp (disch := decide) only [RI.ofWord, RI.word, RI.bits, fieldAt, field_wide, field_low, field_high, Nat.reduceSub,
    field_whole]

/-- The root opcode of RI. -/
@[simp] theorem RI.rootOf_word (op : BitVec 8) (f : RI) : rootOf (f.word op) = op := by
  simp (disch := decide) only [RI.word, RI.bits, field_wide, field_low, field_whole]

/-- Bit 8 of RI. -/
@[simp] theorem RI.vectorBitOf_word (op : BitVec 8) (f : RI) : vectorBitOf (f.word op) = f.v := by
  simp (disch := decide) only [RI.word, RI.bits, field_wide, field_low, field_high, Nat.reduceSub,
    field_whole]

/-- The fields of RIL. -/
@[simp] theorem RIL.ofWord_word (op : BitVec 8) (f : RIL) : RIL.ofWord (f.word op) = f := by
  cases f
  simp (disch := decide) only [RIL.ofWord, RIL.word, RIL.bits, fieldAt, field_wide, field_low, field_high, Nat.reduceSub,
    field_whole]

/-- The root opcode of RIL. -/
@[simp] theorem RIL.rootOf_word (op : BitVec 8) (f : RIL) : rootOf (f.word op) = op := by
  simp (disch := decide) only [RIL.word, RIL.bits, field_wide, field_low, field_whole]

/-- Bit 8 of RIL. -/
@[simp] theorem RIL.vectorBitOf_word (op : BitVec 8) (f : RIL) : vectorBitOf (f.word op) = f.v := by
  simp (disch := decide) only [RIL.word, RIL.bits, field_wide, field_low, field_high, Nat.reduceSub,
    field_whole]

/-- The fields of CHKI. -/
@[simp] theorem CHKI.ofWord_word (op : BitVec 8) (f : CHKI) : CHKI.ofWord (f.word op) = f := by
  cases f
  simp (disch := decide) only [CHKI.ofWord, CHKI.word, CHKI.bits, fieldAt, field_wide, field_low, field_high, Nat.reduceSub,
    field_whole]

/-- The root opcode of CHKI. -/
@[simp] theorem CHKI.rootOf_word (op : BitVec 8) (f : CHKI) : rootOf (f.word op) = op := by
  simp (disch := decide) only [CHKI.word, CHKI.bits, field_wide, field_low, field_whole]

/-- Bit 8 of CHKI. -/
@[simp] theorem CHKI.vectorBitOf_word (op : BitVec 8) (f : CHKI) : vectorBitOf (f.word op) = f.v := by
  simp (disch := decide) only [CHKI.word, CHKI.bits, field_wide, field_low, field_high, Nat.reduceSub,
    field_whole]

/-- The fields of F1. -/
@[simp] theorem F1.ofWord_word (op : BitVec 8) (fn : BitVec 7) (f : F1) : F1.ofWord (f.word op fn) = f := by
  cases f
  simp (disch := decide) only [F1.ofWord, F1.word, F1.bits, fieldAt, field_wide, field_low, field_high, Nat.reduceSub,
    field_whole]

/-- The root opcode of F1. -/
@[simp] theorem F1.rootOf_word (op : BitVec 8) (fn : BitVec 7) (f : F1) : rootOf (f.word op fn) = op := by
  simp (disch := decide) only [F1.word, F1.bits, field_wide, field_low, field_whole]

/-- The function code of F1. -/
@[simp] theorem F1.func_word (op : BitVec 8) (fn : BitVec 7) (f : F1) : fieldAt (f.word op fn) 25 7 = fn := by
  simp (disch := decide) only [F1.word, F1.bits, field_wide, field_high, Nat.reduceSub,
    field_whole]

/-- Bit 8 of F1. -/
@[simp] theorem F1.vectorBitOf_word (op : BitVec 8) (fn : BitVec 7) (f : F1) : vectorBitOf (f.word op fn) = 0#1 := by
  simp (disch := decide) only [F1.word, F1.bits, field_wide, field_low, field_high, Nat.reduceSub,
    field_whole]

/-- The fields of FR2. -/
@[simp] theorem FR2.ofWord_word (op : BitVec 8) (fn : BitVec 7) (f : FR2) : FR2.ofWord (f.word op fn) = f := by
  cases f
  simp (disch := decide) only [FR2.ofWord, FR2.word, FR2.bits, fieldAt, field_wide, field_low, field_high, Nat.reduceSub,
    field_whole]

/-- The root opcode of FR2. -/
@[simp] theorem FR2.rootOf_word (op : BitVec 8) (fn : BitVec 7) (f : FR2) : rootOf (f.word op fn) = op := by
  simp (disch := decide) only [FR2.word, FR2.bits, field_wide, field_low, field_whole]

/-- The function code of FR2. -/
@[simp] theorem FR2.func_word (op : BitVec 8) (fn : BitVec 7) (f : FR2) : fieldAt (f.word op fn) 33 7 = fn := by
  simp (disch := decide) only [FR2.word, FR2.bits, field_wide, field_low, field_high, Nat.reduceSub,
    field_whole]

/-- Bit 8 of FR2. -/
@[simp] theorem FR2.vectorBitOf_word (op : BitVec 8) (fn : BitVec 7) (f : FR2) : vectorBitOf (f.word op fn) = f.v := by
  simp (disch := decide) only [FR2.word, FR2.bits, field_wide, field_low, field_high, Nat.reduceSub,
    field_whole]

/-- The fields of FR2L. -/
@[simp] theorem FR2L.ofWord_word (op : BitVec 8) (fn : BitVec 7) (f : FR2L) : FR2L.ofWord (f.word op fn) = f := by
  cases f
  simp (disch := decide) only [FR2L.ofWord, FR2L.word, FR2L.bits, fieldAt, field_wide, field_low, field_high, Nat.reduceSub,
    field_whole]

/-- The root opcode of FR2L. -/
@[simp] theorem FR2L.rootOf_word (op : BitVec 8) (fn : BitVec 7) (f : FR2L) : rootOf (f.word op fn) = op := by
  simp (disch := decide) only [FR2L.word, FR2L.bits, field_wide, field_low, field_whole]

/-- The function code of FR2L. -/
@[simp] theorem FR2L.func_word (op : BitVec 8) (fn : BitVec 7) (f : FR2L) : fieldAt (f.word op fn) 41 7 = fn := by
  simp (disch := decide) only [FR2L.word, FR2L.bits, field_wide, field_high, Nat.reduceSub,
    field_whole]

/-- Bit 8 of FR2L. -/
@[simp] theorem FR2L.vectorBitOf_word (op : BitVec 8) (fn : BitVec 7) (f : FR2L) : vectorBitOf (f.word op fn) = f.v := by
  simp (disch := decide) only [FR2L.word, FR2L.bits, field_wide, field_low, field_high, Nat.reduceSub,
    field_whole]

/-- The fields of FR3. -/
@[simp] theorem FR3.ofWord_word (op : BitVec 8) (fn : BitVec 4) (f : FR3) : FR3.ofWord (f.word op fn) = f := by
  cases f
  simp (disch := decide) only [FR3.ofWord, FR3.word, FR3.bits, fieldAt, field_wide, field_low, field_high, Nat.reduceSub,
    field_whole]

/-- The root opcode of FR3. -/
@[simp] theorem FR3.rootOf_word (op : BitVec 8) (fn : BitVec 4) (f : FR3) : rootOf (f.word op fn) = op := by
  simp (disch := decide) only [FR3.word, FR3.bits, field_wide, field_low, field_whole]

/-- The function code of FR3. -/
@[simp] theorem FR3.func_word (op : BitVec 8) (fn : BitVec 4) (f : FR3) : fieldAt (f.word op fn) 44 4 = fn := by
  simp (disch := decide) only [FR3.word, FR3.bits, field_wide, field_high, Nat.reduceSub,
    field_whole]

/-- Bit 8 of FR3. -/
@[simp] theorem FR3.vectorBitOf_word (op : BitVec 8) (fn : BitVec 4) (f : FR3) : vectorBitOf (f.word op fn) = f.v := by
  simp (disch := decide) only [FR3.word, FR3.bits, field_wide, field_low, field_high, Nat.reduceSub,
    field_whole]

/-- The fields of FR3L. -/
@[simp] theorem FR3L.ofWord_word (op : BitVec 8) (fn : BitVec 7) (f : FR3L) : FR3L.ofWord (f.word op fn) = f := by
  cases f
  simp (disch := decide) only [FR3L.ofWord, FR3L.word, FR3L.bits, fieldAt, field_low, field_high, Nat.reduceSub,
    field_whole]

/-- The root opcode of FR3L. -/
@[simp] theorem FR3L.rootOf_word (op : BitVec 8) (fn : BitVec 7) (f : FR3L) : rootOf (f.word op fn) = op := by
  simp (disch := decide) only [FR3L.word, FR3L.bits, field_low, field_whole]

/-- The function code of FR3L. -/
@[simp] theorem FR3L.func_word (op : BitVec 8) (fn : BitVec 7) (f : FR3L) : fieldAt (f.word op fn) 49 7 = fn := by
  simp (disch := decide) only [FR3L.word, FR3L.bits, field_low, field_high, Nat.reduceSub,
    field_whole]

/-- Bit 8 of FR3L. -/
@[simp] theorem FR3L.vectorBitOf_word (op : BitVec 8) (fn : BitVec 7) (f : FR3L) : vectorBitOf (f.word op fn) = f.v := by
  simp (disch := decide) only [FR3L.word, FR3L.bits, field_low, field_high, Nat.reduceSub,
    field_whole]

/-- The fields of LSD. -/
@[simp] theorem LSD.ofWord_word (op : BitVec 8) (f : LSD) : LSD.ofWord (f.word op) = f := by
  cases f
  simp (disch := decide) only [LSD.ofWord, LSD.word, LSD.bits, fieldAt, field_wide, field_low, field_high, Nat.reduceSub,
    field_whole]

/-- The root opcode of LSD. -/
@[simp] theorem LSD.rootOf_word (op : BitVec 8) (f : LSD) : rootOf (f.word op) = op := by
  simp (disch := decide) only [LSD.word, LSD.bits, field_wide, field_low, field_whole]

/-- Bit 8 of LSD. -/
@[simp] theorem LSD.vectorBitOf_word (op : BitVec 8) (f : LSD) : vectorBitOf (f.word op) = 0#1 := by
  simp (disch := decide) only [LSD.word, LSD.bits, field_wide, field_low, field_high, Nat.reduceSub,
    field_whole]

/-- The fields of LSDS. -/
@[simp] theorem LSDS.ofWord_word (op : BitVec 8) (f : LSDS) : LSDS.ofWord (f.word op) = f := by
  cases f
  simp (disch := decide) only [LSDS.ofWord, LSDS.word, LSDS.bits, fieldAt, field_wide, field_low, field_high, Nat.reduceSub,
    field_whole]

/-- The root opcode of LSDS. -/
@[simp] theorem LSDS.rootOf_word (op : BitVec 8) (f : LSDS) : rootOf (f.word op) = op := by
  simp (disch := decide) only [LSDS.word, LSDS.bits, field_wide, field_low, field_whole]

/-- Bit 8 of LSDS. -/
@[simp] theorem LSDS.vectorBitOf_word (op : BitVec 8) (f : LSDS) : vectorBitOf (f.word op) = 0#1 := by
  simp (disch := decide) only [LSDS.word, LSDS.bits, field_wide, field_low, field_high, Nat.reduceSub,
    field_whole]

/-- The fields of LSX. -/
@[simp] theorem LSX.ofWord_word (op : BitVec 8) (f : LSX) : LSX.ofWord (f.word op) = f := by
  cases f
  simp (disch := decide) only [LSX.ofWord, LSX.word, LSX.bits, fieldAt, field_wide, field_low, field_high, Nat.reduceSub,
    field_whole]

/-- The root opcode of LSX. -/
@[simp] theorem LSX.rootOf_word (op : BitVec 8) (f : LSX) : rootOf (f.word op) = op := by
  simp (disch := decide) only [LSX.word, LSX.bits, field_wide, field_low, field_whole]

/-- Bit 8 of LSX. -/
@[simp] theorem LSX.vectorBitOf_word (op : BitVec 8) (f : LSX) : vectorBitOf (f.word op) = f.v := by
  simp (disch := decide) only [LSX.word, LSX.bits, field_wide, field_low, field_high, Nat.reduceSub,
    field_whole]

/-- The fields of LSR. -/
@[simp] theorem LSR.ofWord_word (op : BitVec 8) (f : LSR) : LSR.ofWord (f.word op) = f := by
  cases f
  simp (disch := decide) only [LSR.ofWord, LSR.word, LSR.bits, fieldAt, field_wide, field_low, field_high, Nat.reduceSub,
    field_whole]

/-- The root opcode of LSR. -/
@[simp] theorem LSR.rootOf_word (op : BitVec 8) (f : LSR) : rootOf (f.word op) = op := by
  simp (disch := decide) only [LSR.word, LSR.bits, field_wide, field_low, field_whole]

/-- Bit 8 of LSR. -/
@[simp] theorem LSR.vectorBitOf_word (op : BitVec 8) (f : LSR) : vectorBitOf (f.word op) = 0#1 := by
  simp (disch := decide) only [LSR.word, LSR.bits, field_wide, field_low, field_high, Nat.reduceSub,
    field_whole]

/-- The fields of BR. -/
@[simp] theorem BR.ofWord_word (op : BitVec 8) (f : BR) : BR.ofWord (f.word op) = f := by
  cases f
  simp (disch := decide) only [BR.ofWord, BR.word, BR.bits, fieldAt, field_wide, field_low, field_high, Nat.reduceSub,
    field_whole]

/-- The root opcode of BR. -/
@[simp] theorem BR.rootOf_word (op : BitVec 8) (f : BR) : rootOf (f.word op) = op := by
  simp (disch := decide) only [BR.word, BR.bits, field_wide, field_low, field_whole]

/-- Bit 8 of BR. -/
@[simp] theorem BR.vectorBitOf_word (op : BitVec 8) (f : BR) : vectorBitOf (f.word op) = 0#1 := by
  simp (disch := decide) only [BR.word, BR.bits, field_wide, field_low, field_high, Nat.reduceSub,
    field_whole]

/-- The fields of BZ. -/
@[simp] theorem BZ.ofWord_word (op : BitVec 8) (f : BZ) : BZ.ofWord (f.word op) = f := by
  cases f
  simp (disch := decide) only [BZ.ofWord, BZ.word, BZ.bits, fieldAt, field_wide, field_low, field_high, Nat.reduceSub,
    field_whole]

/-- The root opcode of BZ. -/
@[simp] theorem BZ.rootOf_word (op : BitVec 8) (f : BZ) : rootOf (f.word op) = op := by
  simp (disch := decide) only [BZ.word, BZ.bits, field_wide, field_low, field_whole]

/-- Bit 8 of BZ. -/
@[simp] theorem BZ.vectorBitOf_word (op : BitVec 8) (f : BZ) : vectorBitOf (f.word op) = 0#1 := by
  simp (disch := decide) only [BZ.word, BZ.bits, field_wide, field_low, field_high, Nat.reduceSub,
    field_whole]

/-- The fields of JMP. -/
@[simp] theorem JMP.ofWord_word (op : BitVec 8) (f : JMP) : JMP.ofWord (f.word op) = f := by
  cases f
  simp (disch := decide) only [JMP.ofWord, JMP.word, JMP.bits, fieldAt, field_wide, field_low, field_high, Nat.reduceSub,
    field_whole]

/-- The root opcode of JMP. -/
@[simp] theorem JMP.rootOf_word (op : BitVec 8) (f : JMP) : rootOf (f.word op) = op := by
  simp (disch := decide) only [JMP.word, JMP.bits, field_wide, field_low, field_whole]

/-- Bit 8 of JMP. -/
@[simp] theorem JMP.vectorBitOf_word (op : BitVec 8) (f : JMP) : vectorBitOf (f.word op) = 0#1 := by
  simp (disch := decide) only [JMP.word, JMP.bits, field_wide, field_low, field_high, Nat.reduceSub,
    field_whole]

/-- The fields of JGATE. -/
@[simp] theorem JGATE.ofWord_word (op : BitVec 8) (f : JGATE) : JGATE.ofWord (f.word op) = f := by
  cases f
  simp (disch := decide) only [JGATE.ofWord, JGATE.word, JGATE.bits, fieldAt, field_wide, field_low, field_high, Nat.reduceSub,
    field_whole]

/-- The root opcode of JGATE. -/
@[simp] theorem JGATE.rootOf_word (op : BitVec 8) (f : JGATE) : rootOf (f.word op) = op := by
  simp (disch := decide) only [JGATE.word, JGATE.bits, field_wide, field_low, field_whole]

/-- Bit 8 of JGATE. -/
@[simp] theorem JGATE.vectorBitOf_word (op : BitVec 8) (f : JGATE) : vectorBitOf (f.word op) = 0#1 := by
  simp (disch := decide) only [JGATE.word, JGATE.bits, field_wide, field_low, field_high, Nat.reduceSub,
    field_whole]

/-- The fields of RTS. -/
@[simp] theorem RTS.ofWord_word (op : BitVec 8) (f : RTS) : RTS.ofWord (f.word op) = f := by
  cases f
  simp (disch := decide) only [RTS.ofWord, RTS.word, RTS.bits, fieldAt, field_wide, field_low, field_high, Nat.reduceSub,
    field_whole]

/-- The root opcode of RTS. -/
@[simp] theorem RTS.rootOf_word (op : BitVec 8) (f : RTS) : rootOf (f.word op) = op := by
  simp (disch := decide) only [RTS.word, RTS.bits, field_wide, field_low, field_whole]

/-- Bit 8 of RTS. -/
@[simp] theorem RTS.vectorBitOf_word (op : BitVec 8) (f : RTS) : vectorBitOf (f.word op) = 0#1 := by
  simp (disch := decide) only [RTS.word, RTS.bits, field_wide, field_low, field_high, Nat.reduceSub,
    field_whole]

/-- The fields of NOP. -/
@[simp] theorem NOP.ofWord_word (op : BitVec 8) (f : NOP) : NOP.ofWord (f.word op) = f := by
  cases f
  simp (disch := decide) only [NOP.ofWord, NOP.word, NOP.bits, fieldAt, field_wide, field_low, field_high, Nat.reduceSub,
    field_whole]

/-- The root opcode of NOP. -/
@[simp] theorem NOP.rootOf_word (op : BitVec 8) (f : NOP) : rootOf (f.word op) = op := by
  simp (disch := decide) only [NOP.word, NOP.bits, field_wide, field_low, field_whole]

/-- Bit 8 of NOP. -/
@[simp] theorem NOP.vectorBitOf_word (op : BitVec 8) (f : NOP) : vectorBitOf (f.word op) = f.v := by
  simp (disch := decide) only [NOP.word, NOP.bits, field_wide, field_low, field_high, Nat.reduceSub,
    field_whole]

/-- The fields of CSR. -/
@[simp] theorem CSR.ofWord_word (op : BitVec 8) (fn : BitVec 3) (f : CSR) : CSR.ofWord (f.word op fn) = f := by
  cases f
  simp (disch := decide) only [CSR.ofWord, CSR.word, CSR.bits, fieldAt, field_wide, field_low, field_high, Nat.reduceSub,
    field_whole]

/-- The root opcode of CSR. -/
@[simp] theorem CSR.rootOf_word (op : BitVec 8) (fn : BitVec 3) (f : CSR) : rootOf (f.word op fn) = op := by
  simp (disch := decide) only [CSR.word, CSR.bits, field_wide, field_low, field_whole]

/-- The function code of CSR. -/
@[simp] theorem CSR.func_word (op : BitVec 8) (fn : BitVec 3) (f : CSR) : fieldAt (f.word op fn) 41 3 = fn := by
  simp (disch := decide) only [CSR.word, CSR.bits, field_wide, field_low, field_high, Nat.reduceSub,
    field_whole]

/-- Bit 8 of CSR. -/
@[simp] theorem CSR.vectorBitOf_word (op : BitVec 8) (fn : BitVec 3) (f : CSR) : vectorBitOf (f.word op fn) = 0#1 := by
  simp (disch := decide) only [CSR.word, CSR.bits, field_wide, field_low, field_high, Nat.reduceSub,
    field_whole]

/-- The fields of S16. -/
@[simp] theorem S16.ofWord_word (op : BitVec 8) (f : S16) : S16.ofWord (f.word op) = f := by
  cases f
  simp (disch := decide) only [S16.ofWord, S16.word, S16.bits, fieldAt, field_wide, field_high, Nat.reduceSub,
    field_whole]

/-- The root opcode of S16. -/
@[simp] theorem S16.rootOf_word (op : BitVec 8) (f : S16) : rootOf (f.word op) = op := by
  simp (disch := decide) only [S16.word, S16.bits, field_wide, field_low, field_whole]

/-- Bit 8 of S16. -/
@[simp] theorem S16.vectorBitOf_word (op : BitVec 8) (f : S16) : vectorBitOf (f.word op) = 0#1 := by
  simp (disch := decide) only [S16.word, S16.bits, field_wide, field_low, field_high, Nat.reduceSub,
    field_whole]

/-- The fields of SYS. -/
@[simp] theorem SYS.ofWord_word (op : BitVec 8) (f : SYS) : SYS.ofWord (f.word op) = f := by
  cases f
  simp (disch := decide) only [SYS.ofWord, SYS.word, SYS.bits, fieldAt, field_wide, field_low, field_high, Nat.reduceSub,
    field_whole]

/-- The root opcode of SYS. -/
@[simp] theorem SYS.rootOf_word (op : BitVec 8) (f : SYS) : rootOf (f.word op) = op := by
  simp (disch := decide) only [SYS.word, SYS.bits, field_wide, field_low, field_whole]

/-- Bit 8 of SYS. -/
@[simp] theorem SYS.vectorBitOf_word (op : BitVec 8) (f : SYS) : vectorBitOf (f.word op) = 0#1 := by
  simp (disch := decide) only [SYS.word, SYS.bits, field_wide, field_low, field_high, Nat.reduceSub,
    field_whole]

/-- The fields of INT. -/
@[simp] theorem INT.ofWord_word (op : BitVec 8) (f : INT) : INT.ofWord (f.word op) = f := by
  cases f
  simp (disch := decide) only [INT.ofWord, INT.word, INT.bits, fieldAt, field_wide, field_low, field_high, Nat.reduceSub,
    field_whole]

/-- The root opcode of INT. -/
@[simp] theorem INT.rootOf_word (op : BitVec 8) (f : INT) : rootOf (f.word op) = op := by
  simp (disch := decide) only [INT.word, INT.bits, field_wide, field_low, field_whole]

/-- Bit 8 of INT. -/
@[simp] theorem INT.vectorBitOf_word (op : BitVec 8) (f : INT) : vectorBitOf (f.word op) = 0#1 := by
  simp (disch := decide) only [INT.word, INT.bits, field_wide, field_low, field_high, Nat.reduceSub,
    field_whole]

/-- The fields of OSR2. -/
@[simp] theorem OSR2.ofWord_word (op : BitVec 8) (fn : BitVec 7) (f : OSR2) : OSR2.ofWord (f.word op fn) = f := by
  cases f
  simp (disch := decide) only [OSR2.ofWord, OSR2.word, OSR2.bits, fieldAt, field_wide, field_low, field_high, Nat.reduceSub,
    field_whole]

/-- The root opcode of OSR2. -/
@[simp] theorem OSR2.rootOf_word (op : BitVec 8) (fn : BitVec 7) (f : OSR2) : rootOf (f.word op fn) = op := by
  simp (disch := decide) only [OSR2.word, OSR2.bits, field_wide, field_low, field_whole]

/-- The function code of OSR2. -/
@[simp] theorem OSR2.func_word (op : BitVec 8) (fn : BitVec 7) (f : OSR2) : fieldAt (f.word op fn) 41 7 = fn := by
  simp (disch := decide) only [OSR2.word, OSR2.bits, field_wide, field_high, Nat.reduceSub,
    field_whole]

/-- Bit 8 of OSR2. -/
@[simp] theorem OSR2.vectorBitOf_word (op : BitVec 8) (fn : BitVec 7) (f : OSR2) : vectorBitOf (f.word op fn) = 0#1 := by
  simp (disch := decide) only [OSR2.word, OSR2.bits, field_wide, field_low, field_high, Nat.reduceSub,
    field_whole]

/-- The fields of VM. -/
@[simp] theorem VM.ofWord_word (op : BitVec 8) (fn : BitVec 5) (f : VM) : VM.ofWord (f.word op fn) = f := by
  cases f
  simp (disch := decide) only [VM.ofWord, VM.word, VM.bits, fieldAt, field_wide, field_low, field_high, Nat.reduceSub,
    field_whole]

/-- The root opcode of VM. -/
@[simp] theorem VM.rootOf_word (op : BitVec 8) (fn : BitVec 5) (f : VM) : rootOf (f.word op fn) = op := by
  simp (disch := decide) only [VM.word, VM.bits, field_wide, field_low, field_whole]

/-- The function code of VM. -/
@[simp] theorem VM.func_word (op : BitVec 8) (fn : BitVec 5) (f : VM) : fieldAt (f.word op fn) 19 5 = fn := by
  simp (disch := decide) only [VM.word, VM.bits, field_wide, field_low, field_high, Nat.reduceSub,
    field_whole]

/-- Bit 8 of VM. -/
@[simp] theorem VM.vectorBitOf_word (op : BitVec 8) (fn : BitVec 5) (f : VM) : vectorBitOf (f.word op fn) = 0#1 := by
  simp (disch := decide) only [VM.word, VM.bits, field_wide, field_low, field_high, Nat.reduceSub,
    field_whole]

/-- The fields of VMS. -/
@[simp] theorem VMS.ofWord_word (op : BitVec 8) (fn : BitVec 4) (f : VMS) : VMS.ofWord (f.word op fn) = f := by
  cases f
  simp (disch := decide) only [VMS.ofWord, VMS.word, VMS.bits, fieldAt, field_wide, field_low, field_high, Nat.reduceSub,
    field_whole]

/-- The root opcode of VMS. -/
@[simp] theorem VMS.rootOf_word (op : BitVec 8) (fn : BitVec 4) (f : VMS) : rootOf (f.word op fn) = op := by
  simp (disch := decide) only [VMS.word, VMS.bits, field_wide, field_low, field_whole]

/-- The function code of VMS. -/
@[simp] theorem VMS.func_word (op : BitVec 8) (fn : BitVec 4) (f : VMS) : fieldAt (f.word op fn) 20 4 = fn := by
  simp (disch := decide) only [VMS.word, VMS.bits, field_wide, field_low, field_high, Nat.reduceSub,
    field_whole]

/-- Bit 8 of VMS. -/
@[simp] theorem VMS.vectorBitOf_word (op : BitVec 8) (fn : BitVec 4) (f : VMS) : vectorBitOf (f.word op fn) = 0#1 := by
  simp (disch := decide) only [VMS.word, VMS.bits, field_wide, field_low, field_high, Nat.reduceSub,
    field_whole]

/-- The fields of VMF. -/
@[simp] theorem VMF.ofWord_word (op : BitVec 8) (f : VMF) : VMF.ofWord (f.word op) = f := by
  cases f
  simp (disch := decide) only [VMF.ofWord, VMF.word, VMF.bits, fieldAt, field_wide, field_low, field_high, Nat.reduceSub,
    field_whole]

/-- The root opcode of VMF. -/
@[simp] theorem VMF.rootOf_word (op : BitVec 8) (f : VMF) : rootOf (f.word op) = op := by
  simp (disch := decide) only [VMF.word, VMF.bits, field_wide, field_low, field_whole]

/-- Bit 8 of VMF. -/
@[simp] theorem VMF.vectorBitOf_word (op : BitVec 8) (f : VMF) : vectorBitOf (f.word op) = 0#1 := by
  simp (disch := decide) only [VMF.word, VMF.bits, field_wide, field_low, field_high, Nat.reduceSub,
    field_whole]

/-- The fields of EXI7. -/
@[simp] theorem EXI7.ofWord_word (op : BitVec 8) (f : EXI7) : EXI7.ofWord (f.word op) = f := by
  cases f
  simp (disch := decide) only [EXI7.ofWord, EXI7.word, EXI7.bits, fieldAt, field_wide, field_low, field_high, Nat.reduceSub,
    field_whole]

/-- The root opcode of EXI7. -/
@[simp] theorem EXI7.rootOf_word (op : BitVec 8) (f : EXI7) : rootOf (f.word op) = op := by
  simp (disch := decide) only [EXI7.word, EXI7.bits, field_wide, field_low, field_whole]

/-- Bit 8 of EXI7. -/
@[simp] theorem EXI7.vectorBitOf_word (op : BitVec 8) (f : EXI7) : vectorBitOf (f.word op) = f.v := by
  simp (disch := decide) only [EXI7.word, EXI7.bits, field_wide, field_low, field_high, Nat.reduceSub,
    field_whole]

/-- The fields of EXI23. -/
@[simp] theorem EXI23.ofWord_word (op : BitVec 8) (f : EXI23) : EXI23.ofWord (f.word op) = f := by
  cases f
  simp (disch := decide) only [EXI23.ofWord, EXI23.word, EXI23.bits, fieldAt, field_wide, field_low, field_high, Nat.reduceSub,
    field_whole]

/-- The root opcode of EXI23. -/
@[simp] theorem EXI23.rootOf_word (op : BitVec 8) (f : EXI23) : rootOf (f.word op) = op := by
  simp (disch := decide) only [EXI23.word, EXI23.bits, field_wide, field_low, field_whole]

/-- Bit 8 of EXI23. -/
@[simp] theorem EXI23.vectorBitOf_word (op : BitVec 8) (f : EXI23) : vectorBitOf (f.word op) = f.v := by
  simp (disch := decide) only [EXI23.word, EXI23.bits, field_wide, field_low, field_high, Nat.reduceSub,
    field_whole]

/-- The fields of EXI41. -/
@[simp] theorem EXI41.ofWord_word (f : EXI41) : EXI41.ofWord f.word = f := by
  cases f
  simp (disch := decide) only [EXI41.ofWord, EXI41.word, EXI41.bits, fieldAt, field_wide, field_low, field_high, Nat.reduceSub,
    field_whole]

/-- Bit 8 of EXI41. -/
@[simp] theorem EXI41.vectorBitOf_word (f : EXI41) : vectorBitOf f.word = f.v := by
  simp (disch := decide) only [EXI41.word, EXI41.bits, field_wide, field_low, field_high, Nat.reduceSub,
    field_whole]

/-- The fields of EXI55. -/
@[simp] theorem EXI55.ofWord_word (op : BitVec 8) (f : EXI55) : EXI55.ofWord (f.word op) = f := by
  cases f
  simp (disch := decide) only [EXI55.ofWord, EXI55.word, EXI55.bits, fieldAt, field_low, field_high, Nat.reduceSub,
    field_whole]

/-- The root opcode of EXI55. -/
@[simp] theorem EXI55.rootOf_word (op : BitVec 8) (f : EXI55) : rootOf (f.word op) = op := by
  simp (disch := decide) only [EXI55.word, EXI55.bits, field_low, field_whole]

/-- Bit 8 of EXI55. -/
@[simp] theorem EXI55.vectorBitOf_word (op : BitVec 8) (f : EXI55) : vectorBitOf (f.word op) = f.v := by
  simp (disch := decide) only [EXI55.word, EXI55.bits, field_low, field_high, Nat.reduceSub,
    field_whole]

end Fmt

/-! ### Bytes -/

/-- The number of bytes written out. -/
@[simp] theorem bytesOf_length (n : Nat) (w : Word) : (bytesOf n w).length = n := by
  simp [bytesOf]

end Sys2Proof
end

