-- ==== Sys2Proof/Laws/Float.lean ====
section
/-! SUPPORT. What the estimates of binary floating point answer where the spec leaves them open. -/

namespace Sys2Proof.Machine

open Sys2Proof

/-- FRSQRTE gives a negative operand a NaN, whatever the implementation's function answers (43 R546). -/
theorem rsqrtNaN_isNaN (a : Word) : (fpUnpack (rsqrtNaN a)).isNaN = true := by
  unfold rsqrtNaN
  dsimp only
  split
  · next h => exact (Bool.and_eq_true _ _ ▸ h).1
  · decide

/-- Where FRSQRTE counts a negative operand as invalid, its NaN is the default one (43 R520). -/
theorem rsqrtNaN_of_invalid (a : Word) (h : (Config.frsqrteConds a).getLsbD 0 = true) :
    rsqrtNaN a = fpDefaultNaN := by
  unfold rsqrtNaN
  dsimp only
  rw [h, Bool.not_true, Bool.and_false, if_neg Bool.false_ne_true]

end Sys2Proof.Machine
end

