-- ==== Sys2Proof/Laws/Frame.lean ====
section
/-! SUPPORT. What an access can change, said once: a load, a store, an instruction fetch and every part of one leave
everything but the TLB, the marks of the fetch in progress, the key cache, the draw counter, the debug status, tracing,
and (a store) memory. -/

namespace Sys2Proof.Machine

/-! ### What an operation leaves, answer or exception -/

/-- `P` holds of the state that an operation leaves, with an answer or with an exception. -/
def Res.Leaves {α : Type} (P : State → Prop) : Res α → Prop
  | .ok _ t => P t
  | .trap _ t => P t
  | .stop _ => True

/-- Two operations in sequence: the second starts where the first answered. -/
theorem Res.leaves_bind {α β : Type} {P Q : State → Prop} {r : Res α} {f : α → State → Res β} (h : r.Leaves P)
    (hPQ : ∀ t, P t → Q t) (hf : ∀ a t, P t → (f a t).Leaves Q) : (r.bind f).Leaves Q := by
  cases r with
  | ok a t => exact hf a t h
  | trap e t => exact hPQ t h
  | stop => trivial

/-! ### The frame of an access -/

/-- `t` is `s` but for what an access may change, and the TLB keeps its form. -/
structure Touched (s t : State) : Prop where
  frame : { t with tlb := s.tlb, fetching := { t.fetching with marks := s.fetching.marks },
                   keyCache := s.keyCache, draw := s.draw,
                   csr := { t.csr with dbsr := s.csr.dbsr },
                   mode := { t.mode with tracing := s.mode.tracing } } = s
  tlb : sparseWf 0 s.tlb = true → sparseWf 0 t.tlb = true
  ways : (∀ e ∈ s.tlb, e.1 < 4096) → ∀ e ∈ t.tlb, e.1 < 4096

namespace Touched

variable {s t u : State}

theorem refl (s : State) : Touched s s := ⟨rfl, id, id⟩

theorem trans (h : Touched s t) (k : Touched t u) : Touched s u := by
  refine ⟨?_, fun hs => k.tlb (h.tlb hs), fun hs => k.ways (h.ways hs)⟩
  have h1 := h.frame
  have h2 := k.frame
  rw [← h2] at h1
  exact h1

/-- What a field outside the frame reads. -/
theorem keeps {α : Type} (h : Touched s t) (p : State → α)
    (hp : ∀ (x : State) tlb marks keys draw dbsr tracing,
      p { x with tlb := tlb, fetching := { x.fetching with marks := marks }, keyCache := keys, draw := draw, csr := { x.csr with dbsr := dbsr },
                 mode := { x.mode with tracing := tracing } } = p x) : p t = p s := by
  have := congrArg p h.frame
  rw [hp] at this
  exact this

/-- A changed draw counter, key cache, debug status or tracing is within the frame. -/
theorem of_draw (s : State) (k : Nat) : Touched s { s with draw := k } := ⟨rfl, id, id⟩

end Touched

/-- What a choice among old values and the new one leaves. -/
theorem State.useFrom_touched {α : Type} (s : State) (olds : List α) (new : α) : Touched s (s.useFrom olds new).2 := by
  unfold State.useFrom
  split
  · exact .refl s
  · exact .of_draw s _

/-- What a debug match leaves (60 R1050). -/
theorem State.debugData_touched (s : State) (st : Bool) (va : Word) (n : Nat) :
    (s.debugData st va n).Leaves (Touched s) := by
  unfold State.debugData
  dsimp only
  split
  · exact .refl s
  · split <;> exact ⟨rfl, id, id⟩

/-- What the choice of the register of an access leaves (70_reset R1093). -/
theorem State.accessSelector_touched (s : State) (k : Access) (seg : Nat) : Touched s (s.accessSelector k seg).2 := by
  unfold State.accessSelector
  split
  · exact .refl s
  · exact State.useFrom_touched s _ _

/-- What segmentation leaves (20_memory R160 to R172). -/
theorem State.segment_touched (s : State) (k : Access) (seg : Nat) (va : Word) :
    (s.segment k seg va).Leaves (Touched s) := by
  have hu := s.accessSelector_touched k seg
  unfold State.segment
  split
  · exact .refl s
  · dsimp only
    split
    · trivial
    · split
      · split
        · exact hu
        · split <;> exact hu
      · exact hu

/-- What a TLB lookup leaves (20_memory R182). -/
theorem State.tlbLookup_touched (s : State) (la : Word) : Touched s (s.tlbLookup la).2 := by
  unfold State.tlbLookup
  split
  · exact .refl s
  · exact .refl s
  · exact .of_draw s _

/-- The way a lookup finds is one of the four. -/
theorem State.tlbLookup_way (s : State) (la : Word) (w : Nat) (h : (s.tlbLookup la).1 = some w) : w < 4 := by
  have hm : ∀ x ∈ s.tlbWays la, x < 4 := fun x hx => by
    simpa using (List.mem_filter.mp hx).1
  unfold State.tlbLookup at h
  split at h
  · cases h
  · rename_i x hx
    cases h
    exact hm w (by rw [hx]; exact List.mem_cons_self)
  · rename_i x xs _ _
    injection h with h
    rw [← h]
    apply hm
    rw [‹s.tlbWays la = _›]
    unfold chooseFrom
    cases hg : xs[Config.freeChoice s.draw 0 % (xs.length + 1)]? with
    | none => exact List.mem_cons_self
    | some y => exact List.mem_cons_of_mem _ (List.mem_of_getElem? hg)

/-- A permitted access to a TLB entry is within the frame. -/
theorem State.touchTlb_touched (s : State) (k : Access) (w e : Nat) (hw : w < 4) (he : e < 1024) :
    Touched s (s.touchTlb k w e) := by
  refine ⟨rfl, fun h => sparseSet_wf _ _ _ _ h, fun h x hx => ?_⟩
  rcases mem_sparseSet _ _ _ _ _ hx with rfl | hx
  · show 1024 * w + e < 4096
    omega
  · exact h x hx

/-- What translation leaves (20_memory R181 to R184). -/
theorem State.translate_touched (s : State) (k : Access) (va la : Word) :
    (s.translate k va la).Leaves (Touched s) := by
  unfold State.translate
  split
  · have hl := s.tlbLookup_touched la
    have hw := s.tlbLookup_way la
    cases hq : s.tlbLookup la with
    | mk w s1 =>
      rw [hq] at hl hw
      cases w with
      | none => exact hl
      | some w =>
        dsimp only
        split
        · exact hl.trans (s1.touchTlb_touched k w _ (hw w rfl) (BitVec.isLt _))
        · exact hl
  · exact .refl s

/-- What filling the key cache leaves (20_memory R196). -/
theorem State.fillKeys_touched (s : State) (page : Nat) : Touched s (s.fillKeys page) := by
  have hu := State.useFrom_touched s (pendingFor s.pending.sel 18) (s.selector 18)
  unfold State.fillKeys
  exact hu.trans ⟨rfl, id, id⟩

/-- What a key check leaves (20_memory R195, R196). -/
theorem State.checkKey_touched (s : State) (va pa : Word) : (s.checkKey va pa).Leaves (Touched s) := by
  have hf := s.fillKeys_touched (pa.toNat / 4096)
  unfold State.checkKey
  split
  · dsimp only
    split
    · exact hf
    · split <;> exact hf.trans (State.useFrom_touched _ _ _)
  · exact .refl s

/-- What an attribute check leaves (20_memory R200 to R202). -/
theorem State.checkPma_touched (s : State) (k : Access) (va pa : Word) : (s.checkPma k va pa).Leaves (Touched s) := by
  unfold State.checkPma
  split
  · split <;> exact .refl s
  · exact .refl s

/-- What finding a physical address leaves (20_memory R190). -/
theorem State.physical_touched (s : State) (k : Access) (seg : Nat) (va : Word) :
    (s.physical k seg va).Leaves (Touched s) := by
  unfold State.physical
  refine Res.leaves_bind (s.segment_touched k seg va) (fun _ h => h) fun la s1 h1 => ?_
  refine Res.leaves_bind (P := Touched s) ?_ (fun _ h => h) fun pa s2 h2 => ?_
  · exact match s1.translate k va la, s1.translate_touched k va la with
      | .ok _ _, h => h1.trans h
      | .trap _ _, h => h1.trans h
      | .stop _, _ => trivial
  refine Res.leaves_bind (P := Touched s) ?_ (fun _ h => h) fun _ s3 h3 => ?_
  · exact match s2.checkKey va pa, s2.checkKey_touched va pa with
      | .ok _ _, h => h2.trans h
      | .trap _ _, h => h2.trans h
      | .stop _, _ => trivial
  refine Res.leaves_bind (P := Touched s) ?_ (fun _ h => h) fun _ s4 h4 => h4
  exact match s3.checkPma k va pa, s3.checkPma_touched k va pa with
    | .ok _ _, h => h3.trans h
    | .trap _ _, h => h3.trans h
    | .stop _, _ => trivial

/-- What the answer of the bus leaves. -/
theorem State.busAnswers_touched (s : State) (k : Access) (va pa : Word) (n : Nat) :
    (s.busAnswers k va pa n).Leaves (Touched s) := by
  unfold State.busAnswers
  split
  · exact .refl s
  · trivial
  · exact .refl s

/-- The frame of an operation that starts inside another's frame. -/
theorem Res.leaves_trans {α : Type} {s t : State} {r : Res α} (h : Touched s t) (hr : r.Leaves (Touched t)) :
    r.Leaves (Touched s) := by
  cases r with
  | ok _ u => exact h.trans hr
  | trap _ u => exact h.trans hr
  | stop => trivial

/-- What one load leaves. -/
theorem State.loadOne_touched (s : State) (seg : Nat) (va : Word) (n : Nat) :
    (s.loadOne seg va n).Leaves (Touched s) :=
  Res.leaves_bind (s.debugData_touched false va n) (fun _ h => h) fun _ s1 h1 =>
    Res.leaves_bind (Res.leaves_trans h1 (s1.physical_touched .load seg va)) (fun _ h => h) fun pa s2 h2 =>
      Res.leaves_bind (Res.leaves_trans h2 (s2.busAnswers_touched .load va pa n)) (fun _ h => h) fun _ _ h3 => h3

/-- What byte loads leave. -/
theorem State.loadEach_touched (s : State) (seg : Nat) (va : Word) (n : Nat) :
    (s.loadEach seg va n).Leaves (Touched s) := by
  induction n generalizing s va with
  | zero => exact .refl s
  | succ n ih =>
    exact Res.leaves_bind (s.loadOne_touched seg va 1) (fun _ h => h) fun _ s1 h1 =>
      Res.leaves_bind (Res.leaves_trans h1 (ih s1 (va + 1))) (fun _ h => h) fun _ _ h2 => h2

/-- An abandoned operation is within the frame. -/
theorem Res.restore_touched {α : Type} {s : State} {r : Res α} (h : r.Leaves (Touched s)) :
    (r.restore s).Leaves (Touched s) := by
  cases r with
  | ok _ u => exact h
  | trap _ u => exact ⟨rfl, id, id⟩
  | stop => trivial

/-- What a load leaves, with its value or with its exception (20_memory R190). -/
theorem State.memRead_touched (s : State) (seg : Nat) (va : Word) (n : Nat) :
    (s.memRead seg va n).Leaves (Touched s) := by
  unfold State.memRead
  refine Res.leaves_bind (Res.restore_touched ?_) (fun _ h => h) fun _ _ h => h
  split
  · exact s.loadOne_touched seg va n
  · exact s.loadEach_touched seg va n

/-- An abandoned operation leaves what `Abandoned` says. -/
theorem Res.restore_abandoned {α : Type} (s : State) (r : Res α) (e : Exc) (t : State) (h : r.restore s = .trap e t) :
    Abandoned s t := by
  cases r with
  | ok => cases h
  | trap e' u => cases h; rfl
  | stop => cases h

/-- A load that raises leaves what `Abandoned` says (60 R1004). -/
theorem State.memRead_trap (s : State) (seg : Nat) (va : Word) (n : Nat) (e : Exc) (t : State)
    (h : s.memRead seg va n = .trap e t) : Abandoned s t := by
  unfold State.memRead at h
  revert h
  cases hr : (if naturallyAligned va n then s.loadOne seg va n else s.loadEach seg va n).restore s with
  | ok bs u => intro h; cases h
  | trap e' u => intro h; cases h; exact Res.restore_abandoned s _ e t hr
  | stop => intro h; cases h

/-- What the fetch of one byte leaves. -/
theorem State.fetchByte_touched (s : State) (va : Word) : (s.fetchByte va).Leaves (Touched s) :=
  Res.leaves_bind (s.physical_touched .fetch 7 va) (fun _ h => h) fun pa s1 h1 =>
    Res.leaves_bind (Res.leaves_trans h1 (s1.busAnswers_touched .fetch va pa 1)) (fun _ h => h) fun _ s2 h2 =>
      h2.trans (s2.useFrom_touched _ _)

/-- What the fetch of some bytes leaves. -/
theorem State.fetchBytes_touched (s : State) (va : Word) (n : Nat) : (s.fetchBytes va n).Leaves (Touched s) := by
  induction n generalizing s va with
  | zero => exact .refl s
  | succ n ih =>
    exact Res.leaves_bind (s.fetchByte_touched va) (fun _ h => h) fun _ s1 h1 =>
      Res.leaves_bind (Res.leaves_trans h1 (ih s1 (nextIp va 1))) (fun _ h => h) fun _ _ h2 => h2

/-- What the fetch of an instruction leaves (30 R242). -/
theorem State.fetchInstruction_touched (s : State) (va : Word) : (s.fetchInstruction va).Leaves (Touched s) := by
  unfold State.fetchInstruction
  refine Res.restore_touched (Res.leaves_bind (s.fetchBytes_touched va 2) (fun _ h => h) fun parcel s1 h1 => ?_)
  split
  · exact h1
  · exact Res.leaves_bind (Res.leaves_trans h1 (s1.fetchBytes_touched _ _)) (fun _ h => h) fun _ _ h2 => h2

/-- What the fetch of a prefix and its instruction leaves (30 R262). -/
theorem State.fetchPair_touched (s : State) (size : Nat) : (s.fetchPair size).Leaves (Touched s) :=
  Res.restore_touched (Res.leaves_bind (s.fetchBytes_touched s.ip size) (fun _ h => h) fun _ s1 h1 =>
    Res.leaves_trans h1 (s1.fetchInstruction_touched (nextIp s.ip size)))

/-! ### The fetch in progress -/

/-- The start of a fetch draws at most once and notes CS (70_reset R1093). -/
theorem State.beginFetch_frame (s : State) :
    ∃ k, s.beginFetch = { s with draw := k, fetching := ⟨(s.useSelector 7).1, []⟩ } := by
  unfold State.beginFetch State.useSelector State.useFrom
  split <;> exact ⟨_, rfl⟩

/-- Clearing A bits keeps the form of the TLB. -/
theorem clearAccessed_wf (marks : List Nat) (tlb : List (Nat × Word)) (h : sparseWf 0 tlb = true) :
    sparseWf 0 (marks.foldl clearAccessed tlb) = true := by
  induction marks generalizing tlb with
  | nil => exact h
  | cons k marks ih => exact ih _ (sparseSet_wf _ _ _ _ h)

/-- Clearing A bits lists no new entry of the TLB. -/
theorem clearAccessed_keys (marks : List Nat) (tlb : List (Nat × Word)) :
    ∀ e ∈ marks.foldl clearAccessed tlb, ∃ f ∈ tlb, f.1 = e.1 := by
  induction marks generalizing tlb with
  | nil => exact fun e he => ⟨e, he, rfl⟩
  | cons k marks ih =>
    intro e he
    obtain ⟨f, hf, hk⟩ := ih _ e he
    rcases mem_sparseSet_ne _ _ _ _ _ hf with ⟨hf', hx⟩ | hf'
    · obtain ⟨g, hg, hgk⟩ := exists_of_sparseGet_ne 0 tlb k fun h0 => hx (by rw [h0]; rfl)
      exact ⟨g, hg, by rw [hgk, ← hk, hf']⟩
    · exact ⟨f, hf', hk⟩

/-- What an exception takes back of the fetch is within the frame of the fetch (60 R1004). -/
theorem State.abandonFetch_touched (s : State) : Touched s s.abandonFetch :=
  ⟨rfl, clearAccessed_wf _ _, fun h e he => by
    obtain ⟨f, hf, hk⟩ := clearAccessed_keys _ _ e he
    rw [← hk]; exact h f hf⟩

/-! ### Stores -/

/-- `t` is `s` but for what an access may change and for memory, which keeps its form. -/
structure Stored (s t : State) : Prop where
  frame : Touched s { t with mem := s.mem, stale := s.stale, rewritten := s.rewritten }
  memory : Memory.wf s.mem = true → Memory.wf t.mem = true
  addresses : (∀ c ∈ s.mem, c.1 < 2 ^ 64) → ∀ c ∈ t.mem, c.1 < 2 ^ 64

namespace Stored

variable {s t u : State}

theorem of_touched (h : Touched s t) : Stored s t := by
  have hm : t.mem = s.mem := h.keeps (fun x => x.mem) (fun _ _ _ _ _ _ _ => rfl)
  have hs : t.stale = s.stale := h.keeps (fun x => x.stale) (fun _ _ _ _ _ _ _ => rfl)
  have hr : t.rewritten = s.rewritten := h.keeps (fun x => x.rewritten) (fun _ _ _ _ _ _ _ => rfl)
  refine ⟨?_, fun hw => by rw [hm]; exact hw, fun ha => by rw [hm]; exact ha⟩
  rw [← hm, ← hs, ← hr]
  exact h

theorem trans (h : Stored s t) (k : Stored t u) : Stored s u := by
  refine ⟨⟨?_, fun hs => k.frame.tlb (h.frame.tlb hs), fun hs => k.frame.ways (h.frame.ways hs)⟩,
    fun hw => k.memory (h.memory hw), fun ha => k.addresses (h.addresses ha)⟩
  have h1 := h.frame.frame
  have h2 := k.frame.frame
  rw [← h2] at h1
  exact h1

end Stored

/-- Stored bytes are within the frame of a store. -/
theorem State.storeBytes_stored (s : State) (pa : Word) (bs : List Byte) : Stored s (s.storeBytes pa bs) := by
  induction bs generalizing s pa with
  | nil => exact .of_touched (.refl s)
  | cons b bs ih =>
    refine Stored.trans ⟨?_, s.storeByte_wf pa.toNat b, fun ha c hc => ?_⟩ (ih (s.storeByte pa.toNat b) (pa + 1))
    · unfold State.storeByte
      dsimp only
      split <;> exact .refl s
    · rcases s.storeByte_mem pa.toNat b c hc with rfl | hc
      · exact pa.isLt
      · exact ha c hc

/-- Kept tetras are within the frame of a store. -/
theorem State.keepTetras_stored (s : State) (pa : Word) (n : Nat) : Stored s (s.keepTetras pa n) :=
  ⟨.refl s, id, id⟩

/-- An operation of a load's frame, seen as one of a store's. -/
theorem Res.leaves_stored {α : Type} {s t : State} {r : Res α} (h : Stored s t) (hr : r.Leaves (Touched t)) :
    r.Leaves (Stored s) := by
  cases r with
  | ok _ u => exact h.trans (.of_touched hr)
  | trap _ u => exact h.trans (.of_touched hr)
  | stop => trivial

/-- What one store leaves. -/
theorem State.storeOne_stored (s : State) (seg : Nat) (va : Word) (bs : List Byte) :
    (s.storeOne seg va bs).Leaves (Stored s) :=
  Res.leaves_bind (Res.leaves_stored (.of_touched (.refl s)) (s.debugData_touched true va bs.length)) (fun _ h => h)
    fun _ s1 h1 =>
      Res.leaves_bind (Res.leaves_stored h1 (s1.physical_touched .store seg va)) (fun _ h => h) fun pa s2 h2 =>
        Res.leaves_bind (Res.leaves_stored h2 (s2.busAnswers_touched .store va pa bs.length)) (fun _ h => h)
          fun _ s3 h3 => h3.trans ((s3.keepTetras_stored pa _).trans (State.storeBytes_stored _ pa bs))

/-- What byte stores leave. -/
theorem State.storeEach_stored (s : State) (seg : Nat) (va : Word) (bs : List Byte) :
    (s.storeEach seg va bs).Leaves (Stored s) := by
  induction bs generalizing s va with
  | nil => exact .of_touched (.refl s)
  | cons b bs ih =>
    refine Res.leaves_bind (s.storeOne_stored seg va [b]) (fun _ h => h) fun _ s1 h1 => ?_
    exact match s1.storeEach seg (va + 1) bs, ih s1 (va + 1) with
      | .ok _ _, h => h1.trans h
      | .trap _ _, h => h1.trans h
      | .stop _, _ => trivial

/-- What a store leaves, with its exception or without (20_memory R190, 60 R1004). -/
theorem State.memWrite_stored (s : State) (seg : Nat) (va : Word) (n : Nat) (v : Word) :
    (s.memWrite seg va n v).Leaves (Stored s) := by
  unfold State.memWrite
  have h : (if naturallyAligned va n then s.storeOne seg va (bytesOf n v) else s.storeEach seg va (bytesOf n v)).Leaves
      (Stored s) := by
    split
    · exact s.storeOne_stored seg va _
    · exact s.storeEach_stored seg va _
  revert h
  generalize (if naturallyAligned va n then s.storeOne seg va (bytesOf n v) else s.storeEach seg va (bytesOf n v)) = r
  intro h
  cases r with
  | ok _ u => exact h
  | trap _ u => exact .of_touched ⟨rfl, id, id⟩
  | stop => trivial

/-- A store that raises has changed no byte of memory: it leaves what `Abandoned` says (60 R1004). -/
theorem State.memWrite_trap (s : State) (seg : Nat) (va : Word) (n : Nat) (v : Word) (e : Exc) (t : State)
    (h : s.memWrite seg va n v = .trap e t) : Abandoned s t := Res.restore_abandoned s _ e t h

end Sys2Proof.Machine
end

