-- ==== Sys2Proof/Laws/Trap.lean ====
section
/-! SUPPORT. Code addresses, descriptor loads, far jumps, trap entries and returns: what each can do, said once. -/

namespace Sys2Proof.Machine

/-! ### Code addresses -/

/-- The low 24 bits of the sequential address (10_state R41). -/
theorem nextIp_low (ip : Word) (n : Nat) :
    (nextIp ip n).extractLsb' 0 24 = ip.extractLsb' 0 24 + BitVec.ofNat 24 n := by
  unfold nextIp
  generalize ip.extractLsb' 0 24 + BitVec.ofNat 24 n = x
  ext i hi
  rw [BitVec.getElem_extractLsb', BitVec.getLsbD_append, if_pos (by omega), Nat.zero_add, BitVec.getLsbD_eq_getElem hi]

/-- The upper 40 bits of the sequential address (10_state R41). -/
theorem nextIp_high (ip : Word) (n : Nat) : (nextIp ip n).extractLsb' 24 40 = ip.extractLsb' 24 40 := by
  unfold nextIp
  generalize ip.extractLsb' 0 24 + BitVec.ofNat 24 n = x
  ext i hi
  rw [BitVec.getElem_extractLsb', BitVec.getLsbD_append, if_neg (by omega), Nat.add_sub_cancel_left,
    BitVec.getLsbD_eq_getElem hi]

namespace State

variable (s : State)

@[simp] theorem abandonFetch_ip : s.abandonFetch.ip = s.ip := rfl
@[simp] theorem abandonFetch_cs : s.abandonFetch.cs = s.cs := rfl
@[simp] theorem abandonFetch_om : s.abandonFetch.om = s.om := rfl
@[simp] theorem abandonFetch_codeAddr (n : BitVec 3) : s.abandonFetch.codeAddr n = s.codeAddr n := rfl
@[simp] theorem abandonFetch_reg (n : RegNum) : s.abandonFetch.reg n = s.reg n := rfl
@[simp] theorem abandonFetch_saveForTrap (t : TrapInfo) :
    s.abandonFetch.saveForTrap t = (s.saveForTrap t).abandonFetch := rfl

/-- c[k] after c[n] is written. -/
theorem setCodeAddr_codeAddr (n k : BitVec 3) (c : CodeAddr) :
    (s.setCodeAddr n c).codeAddr k = if n = k then c else s.codeAddr k := by
  show ((s.creg).set n.toNat c n.isLt).get k.toFin = _
  rw [vector_get_set]
  by_cases h : n = k
  · rw [if_pos h, if_pos (by rw [h]; rfl)]
  · rw [if_neg h, if_neg (fun e : n.toNat = k.toFin.val => h (BitVec.eq_of_toNat_eq e))]; rfl

@[simp] theorem setIp_codeAddr (a : Word) (k : BitVec 3) :
    (s.setIp a).codeAddr k = if k = 7#3 then ⟨a, s.cs⟩ else s.codeAddr k := by
  unfold setIp
  rw [setCodeAddr_codeAddr]
  by_cases h : k = 7#3
  · rw [if_pos h, if_pos (show (7 : BitVec 3) = k from h.symm)]
  · rw [if_neg h, if_neg (fun e : (7 : BitVec 3) = k => h e.symm)]

@[simp] theorem setIp_cs (a : Word) : (s.setIp a).cs = s.cs := by
  show ((s.setIp a).codeAddr 7).sel = _
  rw [setIp_codeAddr, if_pos (show (7 : BitVec 3) = 7#3 from rfl)]

@[simp] theorem advance_cs (n : Nat) : (s.advance n).cs = s.cs := setIp_cs s _

/-! ### Descriptor loads -/

/-- A descriptor load that answers has at most drawn a free value. -/
theorem descriptorTable_frame (sel : Selector) : ∃ k, (s.descriptorTable sel).2 = { s with draw := k } := by
  unfold descriptorTable
  split
  · dsimp only
    unfold useSelector useFrom
    split <;> exact ⟨_, rfl⟩
  · exact ⟨_, rfl⟩

/-- A descriptor load that answers has at most drawn a free value. -/
theorem readDescriptor_frame (sel : Selector) (d : Descriptor × Bool) (u : State)
    (h : s.readDescriptor sel = .ok d u) : ∃ k, u = { s with draw := k } := by
  unfold readDescriptor at h
  dsimp only at h
  split at h
  · cases h
  · cases h
  · obtain ⟨k, hk⟩ := descriptorTable_frame s sel
    cases h
    exact ⟨k, hk⟩

/-- A descriptor load that answers has at most drawn a free value. -/
theorem loadDescriptor_frame (sel : Selector) (system : Bool) (d : Descriptor) (u : State)
    (h : s.loadDescriptor sel system = .ok d u) : ∃ k, u = { s with draw := k } := by
  unfold loadDescriptor at h
  cases hr : s.readDescriptor sel with
  | ok e v =>
    rw [hr, Res.bind_ok] at h
    split at h
    · cases h
    · cases h
      exact readDescriptor_frame s sel e _ hr
  | trap e v => rw [hr] at h; cases h
  | stop e => rw [hr] at h; cases h

/-- A descriptor read never raises. -/
theorem readDescriptor_trap (sel : Selector) (e : Exc) (u : State) : s.readDescriptor sel ≠ .trap e u := by
  unfold readDescriptor
  dsimp only
  split <;> (intro h; cases h)

/-- A descriptor load never raises. -/
theorem loadDescriptor_trap (sel : Selector) (system : Bool) (e : Exc) (u : State) :
    s.loadDescriptor sel system ≠ .trap e u := by
  unfold loadDescriptor
  cases hr : s.readDescriptor sel with
  | ok d v => rw [Res.bind_ok]; split <;> (intro h; cases h)
  | trap d v => exact absurd hr (readDescriptor_trap s sel d v)
  | stop h => intro h; cases h

/-! ### Far jumps -/

/-- `t` is `s` after a jump to c with descriptor d for CS. -/
structure Jumped (s t : State) (c : CodeAddr) (d : Descriptor) : Prop where
  target : t.codeAddr 7 = c
  others : ∀ n, n ≠ 7#3 → t.codeAddr n = s.codeAddr n
  descriptor : t.csDesc = some d
  frame : { t with creg := s.creg, csDesc := s.csDesc, pending := s.pending, draw := s.draw } = s
  lengths : t.pending.vl = s.pending.vl
  vectors : t.pending.tvec = s.pending.tvec

/-- The state of a far jump. -/
theorem jumped_of_load (c : CodeAddr) (d : Descriptor) (u : State) (h : s.loadDescriptor c.sel false = .ok d u) :
    Jumped s ((u.putSelector 7 ⟨c.sel, some d⟩).setIp c.off) c d := by
  obtain ⟨k, rfl⟩ := loadDescriptor_frame s c.sel false d u h
  refine ⟨?_, fun n hn => ?_, rfl, rfl, rfl, rfl⟩
  · rw [setIp_codeAddr, if_pos (show (7 : BitVec 3) = 7#3 from rfl)]
    show CodeAddr.mk c.off ((setCodeAddr { s with draw := k } 7 _).codeAddr 7).sel = c
    rw [setCodeAddr_codeAddr, if_pos (show (7 : BitVec 3) = 7 from rfl)]
  · rw [setIp_codeAddr, if_neg hn]
    show (setCodeAddr { s with draw := k } 7 _).codeAddr n = _
    rw [setCodeAddr_codeAddr, if_neg (fun e : (7 : BitVec 3) = n => hn e.symm)]
    rfl

/-- A far jump whose descriptor loads answers. -/
theorem jumpFar_ok (c : CodeAddr) (d : Descriptor) (u : State) (h : s.loadDescriptor c.sel false = .ok d u) :
    s.jumpFar c = .ok () ((u.putSelector 7 ⟨c.sel, some d⟩).setIp c.off) := by
  unfold jumpFar; rw [h]; rfl

/-- What a far jump that answers has done. -/
theorem jumpFar_inv (c : CodeAddr) (t : State) (h : s.jumpFar c = .ok () t) :
    ∃ d u, s.loadDescriptor c.sel false = .ok d u ∧ Jumped s t c d := by
  unfold jumpFar at h
  cases hl : s.loadDescriptor c.sel false with
  | ok d u =>
    rw [hl] at h; cases h
    exact ⟨d, u, rfl, jumped_of_load s c d u hl⟩
  | trap e u => rw [hl] at h; cases h
  | stop e => rw [hl] at h; cases h

/-- A far jump never raises. -/
theorem jumpFar_trap (c : CodeAddr) (e : Exc) (u : State) : s.jumpFar c ≠ .trap e u := by
  unfold jumpFar
  cases hl : s.loadDescriptor c.sel false with
  | ok d u => rw [Res.bind_ok]; intro h; cases h
  | trap e u => exact absurd hl (loadDescriptor_trap s _ _ e u)
  | stop e => intro h; cases h

/-! ### Trap entries and returns -/

/-- With no old TVEC kept, a use of one gives the register. -/
theorem useTvec_settled (n : BitVec 2) (h : s.pending.tvec = []) : s.useTvec n = (s.csr.tvec.get n.toFin, s) := by
  have hl : s.useTvecLow n = ((s.csr.tvec.get n.toFin).off, s) := by
    unfold useTvecLow useFrom pendingFor; rw [h]; rfl
  have hh : s.useTvecHigh n = ((s.csr.tvec.get n.toFin).sel.setWidth 64, s) := by
    unfold useTvecHigh useFrom pendingFor; rw [h]; rfl
  unfold useTvec
  dsimp only
  rw [hl, hh]
  refine congrArg (fun x => (CodeAddr.mk (s.csr.tvec.get n.toFin).off x, s)) ?_
  rw [BitVec.setWidth_setWidth_of_le _ (by decide), BitVec.setWidth_eq]
  rfl

/-- A dependent use has at most drawn a free choice (70_reset R1090). -/
theorem useFrom_frame {α : Type} (olds : List α) (new : α) : ∃ k, (s.useFrom olds new).2 = { s with draw := k } := by
  unfold useFrom
  split <;> exact ⟨_, rfl⟩

/-- A use of a TVEC has at most drawn free choices. -/
theorem useTvec_frame (n : BitVec 2) : ∃ k, (s.useTvec n).2 = { s with draw := k } := by
  obtain ⟨k, hk⟩ := s.useFrom_frame (pendingFor s.pending.tvec (n ++ 0#1)) (s.csr.tvec.get n.toFin).off
  have hl : (s.useTvecLow n).2 = { s with draw := k } := hk
  unfold useTvec
  dsimp only
  rw [hl]
  exact useFrom_frame _ _ _

/-- A use of a selector has at most drawn a free choice. -/
theorem useSelector_frame (n : Nat) : ∃ k, (s.useSelector n).2 = { s with draw := k } := s.useFrom_frame _ _

/-- c[k] after the saving of a trap entry. -/
theorem saveForTrap_codeAddr (t : TrapInfo) (k : BitVec 3) :
    (s.saveForTrap t).codeAddr k = if k = 6#3 then ⟨t.epc, s.cs⟩ else s.codeAddr k := by
  have h := setCodeAddr_codeAddr s 6 k ⟨t.epc, s.cs⟩
  rw [show (s.saveForTrap t).codeAddr k = (s.setCodeAddr 6 ⟨t.epc, s.cs⟩).codeAddr k from rfl, h]
  by_cases hk : k = 6#3
  · rw [if_pos hk, if_pos (show (6 : BitVec 3) = k from hk.symm)]
  · rw [if_neg hk, if_neg (fun e : (6 : BitVec 3) = k => hk e.symm)]

/-- What a trap entry that answers has done: some vector of TVEC[3], new or old, and a draw of free values apart, it
has saved and switched, and jumped to the vector (60 R1020, R1021). -/
theorem takeTrap_inv (t : TrapInfo) (v : State) (h : s.takeTrap t = .ok () v) :
    ∃ k d, Jumped ({ s with draw := k }.saveForTrap t) v (vectorOf (s.useTvec 3).1 s.om) d := by
  obtain ⟨k, hk⟩ := useTvec_frame s 3
  unfold takeTrap at h
  dsimp only at h
  rw [hk] at h
  obtain ⟨d, u, _, hj⟩ := jumpFar_inv _ _ _ h
  exact ⟨k, d, hj⟩

/-- A trap entry never raises. -/
theorem takeTrap_trap (t : TrapInfo) (e : Exc) (u : State) : s.takeTrap t ≠ .trap e u := jumpFar_trap _ _ e u

/-- A return that answers has restored and jumped (47 R844). -/
theorem returnFromTrap_inv (offset : BitVec 12) (k : BitVec 6) (v : State)
    (h : s.returnFromTrap offset k = .ok () v) :
    ∃ d, Jumped (s.restoreFromTrap k) v ⟨(s.codeAddr 6).off + offset.setWidth 64, (s.codeAddr 6).sel⟩ d := by
  unfold returnFromTrap at h
  obtain ⟨d, u, _, hj⟩ := jumpFar_inv _ _ _ h
  exact ⟨d, hj⟩

/-- The outcome of a trap entry is a next state only where the entry answers. -/
theorem outcome_next (r : Res Unit) (t : State) (hr : ∀ e u, r ≠ .trap e u) (h : r.outcome = .next t) : r = .ok () t := by
  cases r with
  | ok a u => cases h; rfl
  | trap e u => exact absurd rfl (hr e u)
  | stop e => cases e <;> cases h

/-- With no A bit set by the fetch, an exception has nothing to take back. -/
theorem abandonFetch_settled (h : s.fetching.marks = []) : s.abandonFetch = s := by
  have hf : (⟨s.fetching.cs, []⟩ : Fetching) = s.fetching := by rw [← h]
  unfold abandonFetch
  rw [h]
  exact congrArg (fun f => { s with fetching := f }) hf

/-- A raise that answers has taken the trap, the fetch taken back (60 R1004, R1011). -/
theorem raise_inv (c : Ctx) (e : Exc) (t : State) (h : s.raise c e = .next t) :
    s.abandonFetch.takeTrap ⟨e.cause, s.ip, none, e.badAddr, c.bits, e.debug, false⟩ = .ok () t :=
  outcome_next _ _ (fun _ _ => takeTrap_trap s.abandonFetch _ _ _) h

end State

end Sys2Proof.Machine
end

