-- ==== Sys2Proof/Laws/Moves.lean ====
section
/-! SUPPORT. What a load and a store instruction does, said once for its displacement form, its scalar indexed
form and its vector form. -/

namespace Sys2Proof.Machine

/-- A loop leaves the mask registers. -/
theorem LoopState.masks {s t : State} {rt x} (h : LoopState s t rt x) (m) : t.mask m = s.mask m := by
  have : t.masks = s.masks := congrArg (fun s => s.masks) h.frame
  unfold State.mask; rw [this]

/-- A loop leaves the plain circumstances of an access. -/
theorem LoopState.plain {s t : State} {rt x} (h : LoopState s t rt x) {k seg base va n} (hp : s.Plain k seg base va n) :
    t.Plain k seg base va n := by
  have f : ∀ {α : Type} (p : State → α),
      p { t with vregs := s.vregs, csr := { t.csr with fstat := s.csr.fstat } } = p s := fun p => congrArg p h.frame
  refine ⟨?_, ?_, ?_, ?_, ?_, ?_, ?_⟩
  · exact (f (fun s => s.pending.sel)).trans hp.settled
  · obtain ⟨d, h1, h2, h3⟩ := hp.loaded
    refine ⟨d, (f (fun s => (s.selector seg).desc)).trans h1, h2, fun hpe => h3 ((f (fun s => s.pe)).symm.trans hpe)⟩
  · intro j hj
    exact (f (fun s => s.translates (linearAddress base va + BitVec.ofNat 64 j))).trans (hp.untranslated j hj)
  · exact (f (fun s => s.checksKeys)).trans hp.unkeyed
  · intro j hj r hr
    exact (f (fun s => debugMatchesData s (decide (k = .store)) (va + BitVec.ofNat 64 j) r)).trans
      (hp.undebugged j hj r hr)
  · intro j hj
    obtain ⟨a, h1, h2⟩ := hp.attributes j hj
    exact ⟨a, (f (fun s => pmaAttributes s.config.pmaTable
      (linearAddress base va + BitVec.ofNat 64 j).toNat)).trans h1, h2⟩
  · intro j hj
    exact (f (fun s => platformKind s.config.platformMap
      (linearAddress base va + BitVec.ofNat 64 j).toNat)).trans (hp.memory j hj)

/-- A loop of loads reads the same index for an element. -/
theorem LoopState.index {s t : State} {rt x} (h : LoopState s t rt x) (f : Fmt.LSX) (m) :
    elementIndexValue f m x t = elementIndexValue f m x s := by
  unfold elementIndexValue
  have := h.element (opnd f.tb f.rb)
  cases ho : opnd f.tb f.rb with
  | gpr n => rw [ho] at this; simp only [this]
  | vec n => rw [ho] at this; exact this
  | imm w => rfl

/-- What a load does, in one of its forms (45 R665). -/
theorem loadsAt_of_finishSeq (i : Instr) (c : Ctx) (s : State) (seg : BitVec 3) (rt : RegNum) (va : Word) (n : Nat)
    (ext : Word → Word) (hn : 0 < n) (hc : c = Instr.ctx i)
    (h : exec i s = finishSeq c (loadMove n ext none rt seg va s)) : LoadsAt i s seg rt va n ext := by
  have hz : i.size = c.size := by rw [hc]; rfl
  refine ⟨fun base hp => ?_, fun w t hr => ?_, fun e t hr => ?_⟩
  · rw [h, loadMove, State.memRead_plain s _ base va n hp hn, Res.bind_ok, finishSeq_ok, hz]; rfl
  · rw [h, loadMove, hr, Res.bind_ok, finishSeq_ok, hz]; rfl
  · rw [h, loadMove, hr, Res.bind_trap, finishSeq_trap, hc]

/-- What a store does, in one of its forms (45 R665). -/
theorem storesAt_of_finishSeq (i : Instr) (c : Ctx) (s : State) (seg : BitVec 3) (va : Word) (n : Nat) (v : Word)
    (hn : 0 < n) (hn2 : n < 2 ^ 64) (hc : c = Instr.ctx i)
    (h : exec i s = finishSeq c (s.memWrite seg.toNat va n v)) : StoresAt i s seg va n v := by
  have hz : i.size = c.size := by rw [hc]; rfl
  refine ⟨fun base hw hp => ?_, fun t hr => ?_, fun e t hr => ?_⟩
  · obtain ⟨r, hr, hk⟩ := State.memWrite_plain s seg.toNat base va n v hp hn hw
    rw [h, hr, finishSeq_ok, hz]
    refine ⟨_, rfl, ?_⟩
    obtain ⟨h1, h2, h3, h4, h5⟩ := State.storedAt_storeBytes s (linearAddress base va) n v hw hn2 r hk
    exact ⟨h1, h2, congrArg (fun s => State.advance s c.size) h3, h4.advance c.size, h5.advance c.size⟩
  · rw [h, hr, finishSeq_ok, hz]
  · rw [h, hr, finishSeq_trap, hc]

/-- A vector access that raises with D_VSTEP at its element stops the instruction there (48 R884 b, 60 R1020). -/
theorem stopsAt_of_raise {i : Instr} {s u t : State} {e : Exc} {x : Nat} (ha : Abandoned u t) (hu : u.creg = s.creg)
    (h : exec i s = (t.setVstep x).raise (Instr.ctx i) e) : StopsAt i s u t e x := by
  refine ⟨ha, h, fun v hv => ?_⟩
  rw [h] at hv
  obtain ⟨k, d, hj⟩ := State.takeTrap_inv _ _ _ (State.raise_inv _ _ _ _ hv)
  have hf := hj.frame
  unfold Abandoned at ha
  have hc := (congrArg (fun q : State => q.creg) ha).trans hu
  have hs : (t.setVstep x).codeAddr 7 = s.codeAddr 7 := congrArg (fun r => Vector.get r (7 : BitVec 3).toFin) hc
  have h1 := congrArg (fun q : State => q.csr.vstep) hf
  have h2 := congrArg (fun q : State => (q.vregs, q.regs, q.masks, q.mem)) hf
  have h3 := congrArg (fun q : State => (q.vregs, q.regs, q.masks, q.mem)) ha
  have h4 := h2.trans h3
  simp only [Prod.mk.injEq] at h4
  refine ⟨h1, ?_, h4.1, h4.2.1, h4.2.2.1, h4.2.2.2⟩
  rw [hj.others 6 (by decide), State.saveForTrap_codeAddr, if_pos (show (6 : BitVec 3) = 6#3 from rfl)]
  exact hs

/-- What an indexed load does, in both forms (45 R663, R667, 48 R884). -/
theorem loadsIndexed_of_loadLSX (i : Instr) (c : Ctx) (f : Fmt.LSX) (n : Nat) (ext : Word → Word) (hn : 0 < n)
    (hc : c = Instr.ctx i) (h : ∀ s, exec i s = loadLSX c f (loadMove n ext) s) : LoadsIndexed i f n ext := by
  intro s
  have hz : i.size = c.size := by rw [hc]; rfl
  have hload : ∀ base y t, s.Plain .load f.sel.toNat base (s.elementAddress f y) n → LoopState s t f.rt y →
      loadMove n ext (some y) f.rt f.sel (addressLSX f t (elementIndexValue f (s.mask f.m) y t)) t =
        .ok () (t.setVec f.rt y (ext (s.valueAt (linearAddress base (s.elementAddress f y)) n))) := by
    intro base y t hp ht
    have ha : addressLSX f t (elementIndexValue f (s.mask f.m) y t) = s.elementAddress f y := by
      unfold State.elementAddress addressLSX; rw [LoopState.index ht, ht.reg]
    have hm := State.memRead_plain t _ base _ n (LoopState.plain ht hp) hn
    have hv : t.valueAt (linearAddress base (s.elementAddress f y)) n = s.valueAt (linearAddress base
        (s.elementAddress f y)) n := by
      have hmem : t.mem = s.mem := congrArg (fun s => s.mem) ht.frame
      unfold State.valueAt State.bytesAt; rw [hmem]
    rw [hv] at hm
    simp only [loadMove, ha, hm, Res.bind_ok]; rfl
  refine ⟨fun hv b hb => ?_, fun hv hb => ?_, fun hv hvl base hp => ?_, fun hv hvl base x hx hp => ?_⟩
  · refine loadsAt_of_finishSeq _ c _ _ _ _ _ _ hn hc ?_
    rw [h, loadLSX, indexedMove, if_neg (by rw [hv]; decide), hb]
  · rw [h, loadLSX, indexedMove, if_neg (by rw [hv]; decide), hb]; rfl
  · obtain ⟨t, h1, h2⟩ := vectorLoop_spec s f.m f.rt f.z c.size (fun x => ext (s.valueAt (linearAddress base
        (s.elementAddress f x)) n))
      (fun _ w => w) (fun _ => True) (fun x s1 => loadMove n ext (some x) f.rt f.sel (addressLSX f s1
          (elementIndexValue f (s.mask f.m) x s1)) s1) hvl
      (fun _ _ _ => trivial) trivial (fun y t hy ht _ => hload base y t (hp y hy) ht)
    refine ⟨t, ?_, ?_⟩
    · rw [h, loadLSX, indexedMove, if_pos hv, finishSeq, h1]; rfl
    · rw [hz]
      have : (s.enabledList f.m).foldl (fun w _ => w) s.csr.fstat = s.csr.fstat := foldl_keep _ _
      rw [this] at h2
      exact h2
  · obtain ⟨u, h1, h2, _, h3⟩ := vectorLoop_below s f.m f.rt f.z (fun y => ext (s.valueAt (linearAddress base
        (s.elementAddress f y)) n)) (fun _ w => w) (fun _ => True) (fun x s1 => loadMove n ext (some x) f.rt f.sel
          (addressLSX f s1 (elementIndexValue f (s.mask f.m) x s1)) s1) x (fun _ _ _ => trivial) trivial hx
      (fun y t hy hyx ht _ => hload base y t (hp y hy hyx) ht)
    rw [foldl_keep] at h3
    refine ⟨u, h3, fun e t hr => ?_⟩
    have ha : addressLSX f u (elementIndexValue f (s.mask f.m) x u) = s.elementAddress f x := by
      unfold State.elementAddress addressLSX; rw [LoopState.index h2, h2.reg]
    have hcr := congrArg (fun q : State => q.creg) h2.frame
    refine stopsAt_of_raise (State.memRead_trap _ _ _ _ _ _ hr) hcr ?_
    rw [h, loadLSX, indexedMove, if_pos hv, vectorLoop_stop s u t f.m _ _ e x hvl hx h1
      (by simp only [loadMove, ha, hr, Res.bind_trap]), finishSeq_trap, hc]

/-- What the first element of a list stores and what the others do. -/
theorem wrote_cons (at_ val : Nat → Word) (n x : Nat) (l : List Nat) (a : Nat) (b : Byte) :
    (∃ y ∈ x :: l, WroteAt (at_ y) n (val y) a b) ↔
      WroteAt (at_ x) n (val x) a b ∨ ∃ y ∈ l, WroteAt (at_ y) n (val y) a b := by
  simp only [List.mem_cons, exists_eq_or_imp]

/-- Stores one after the other change memory only. -/
theorem foldl_storeBytes_frame (s : State) (at_ : Nat → Word) (bs : Nat → List Byte) (l : List Nat) :
   { l.foldl (fun u x => u.storeBytes (at_ x) (bs x)) s with mem := s.mem, stale := s.stale } = s := by
  induction l generalizing s with
  | nil => rfl
  | cons x l ih =>
    rw [List.foldl_cons]
    have h1 := ih (s.storeBytes (at_ x) (bs x))
    have h2 := s.storeBytes_frame (at_ x) (bs x)
    rw [← h1] at h2
    exact h2

/-- Stores one after the other do not look at what the key cache may hold. -/
theorem foldl_storeBytes_rewritten (s : State) (at_ : Nat → Word) (bs : Nat → List Byte) (l : List Nat)
    (r : List (Nat × BitVec 32)) :
    l.foldl (fun u x => u.storeBytes (at_ x) (bs x)) { s with rewritten := r } =
      { l.foldl (fun u x => u.storeBytes (at_ x) (bs x)) s with rewritten := r } := by
  induction l generalizing s with
  | nil => rfl
  | cons x l ih => rw [List.foldl_cons, List.foldl_cons, State.storeBytes_rewritten, ih]

/-- Stores one after the other keep the form of memory. -/
theorem foldl_storeBytes_wf (s : State) (at_ : Nat → Word) (bs : Nat → List Byte) (l : List Nat)
    (hw : Memory.wf s.mem = true) :
    Memory.wf (l.foldl (fun u x => u.storeBytes (at_ x) (bs x)) s).mem = true := by
  induction l generalizing s with
  | nil => exact hw
  | cons x l ih => exact ih _ (State.storeBytes_wf s _ _ hw)

/-- A byte that none of the stores reaches reads as before. -/
theorem foldl_storeBytes_read_other (s : State) (at_ : Nat → Word) (bs : Nat → List Byte) (l : List Nat)
    (hw : Memory.wf s.mem = true) (a : Nat)
    (ha : ∀ x ∈ l, ∀ j < (bs x).length, a ≠ (at_ x + BitVec.ofNat 64 j).toNat) :
    Memory.read (l.foldl (fun u x => u.storeBytes (at_ x) (bs x)) s).mem a = Memory.read s.mem a := by
  induction l generalizing s with
  | nil => rfl
  | cons x l ih =>
    rw [List.foldl_cons, ih _ (State.storeBytes_wf s _ _ hw) (fun y hy => ha y (List.mem_cons_of_mem _ hy)),
        State.storeBytes_read_other s _ _ _ hw (ha x List.mem_cons_self)]

/-- A byte that no later store reaches reads as stored. -/
theorem foldl_storeBytes_read_same (s : State) (at_ : Nat → Word) (bs : Nat → List Byte) (l : List Nat)
    (hs : l.Pairwise (· < ·)) (hw : Memory.wf s.mem = true) (x : Nat) (hx : x ∈ l)
    (ha : ∀ y ∈ l, x < y → ∀ j < (bs x).length, ∀ k < (bs y).length,
      (at_ x + BitVec.ofNat 64 j).toNat ≠ (at_ y + BitVec.ofNat 64 k).toNat)
    (j : Nat) (hj : j < (bs x).length) (hl : (bs x).length < 2 ^ 64) :
    Memory.read (l.foldl (fun u x => u.storeBytes (at_ x) (bs x)) s).mem (at_ x + BitVec.ofNat 64 j).toNat =
      (bs x)[j] := by
  induction l generalizing s with
  | nil => cases hx
  | cons z l ih =>
    rw [List.pairwise_cons] at hs
    rw [List.foldl_cons]
    by_cases hxl : x ∈ l
    · exact ih _ hs.2 (State.storeBytes_wf s _ _ hw) hxl (fun y hy => ha y (List.mem_cons_of_mem _ hy))
    · have : x = z := by rcases List.mem_cons.mp hx with h | h; exact h; exact absurd h hxl
      subst this
      rw [foldl_storeBytes_read_other _ _ _ _ (State.storeBytes_wf s _ _ hw), State.storeBytes_read_same s _ _ _ hw
          hl hj]
      intro y hy k hk
      exact ha y (List.mem_cons_of_mem _ hy) (hs.1 y hy) j hj k hk

/-- What memory holds is no part of the plain circumstances. -/
theorem plain_of_memory {s t : State} (ht : { t with mem := s.mem, stale := s.stale, rewritten := s.rewritten } = s)
    {k seg base va n}
    (h : s.Plain k seg base va n) : t.Plain k seg base va n := by
  rw [← ht] at h
  exact ⟨h.settled, h.loaded, h.untranslated, h.unkeyed, h.undebugged, h.attributes, h.memory⟩

/-- Stores one after the other keep the bytes that they replace. -/
theorem foldl_storeBytes_staleKept (s : State) (at_ val : Nat → Word) (n : Nat) (l : List Nat)
    (hw : Memory.wf s.mem = true) :
    StaleKept s (l.foldl (fun u x => u.storeBytes (at_ x) (bytesOf n (val x))) s)
      (fun a b => ∃ x ∈ l, WroteAt (at_ x) n (val x) a b) := by
  induction l generalizing s with
  | nil => exact .refl s _
  | cons x l ih =>
    exact (((State.storeBytes_staleKept s (at_ x) _ hw).mono fun a b => (wroteBytes_iff _ n (val x) a b).1).trans
      (ih _ (State.storeBytes_wf s _ _ hw))).mono fun a b => (wrote_cons at_ val n x l a b).2

/-- Stores of the elements of an ascending list, one after the other, are what `ElementsStored` says. -/
theorem elementsStored_foldl (s : State) (at_ val : Nat → Word) (n : Nat) (hn : n < 2 ^ 64) (l : List Nat)
    (hs : l.Pairwise (· < ·)) (hw : Memory.wf s.mem = true) (r : List (Nat × BitVec 32))
    (hk : TetrasKept s { l.foldl (fun u x => u.storeBytes (at_ x) (bytesOf n (val x))) s with rewritten := r }
      (fun a b => ∃ x ∈ l, WroteAt (at_ x) n (val x) a b)) :
    ElementsStored s s { l.foldl (fun u x => u.storeBytes (at_ x) (bytesOf n (val x))) s with rewritten := r }
      at_ val n l := by
  have hbl : ∀ w, (bytesOf n w).length = n := fun w => by simp [bytesOf]
  refine ⟨congrArg (fun u : State => { u with rewritten := s.rewritten }) (foldl_storeBytes_frame s _ _ _),
    fun a ha => foldl_storeBytes_read_other s _ _ _ hw a (fun x hx j hj => ha x hx j (by rw [hbl] at hj; exact hj)),
    fun x hx hy j hj => ?_, (foldl_storeBytes_staleKept s at_ val n l hw).rewritten r, hk⟩
  refine (foldl_storeBytes_read_same s _ (fun x => bytesOf n (val x)) _ hs hw x hx (fun y hy' hxy j hj k
      hk => hy y hy' hxy j ((hbl _) ▸ hj) k ((hbl _) ▸ hk)) j ((hbl _).symm ▸ hj) ((hbl _).symm ▸ hn)).trans ?_
  simp [bytesOf]

/-- What an indexed store does, in both forms (45 R663, R667, 48 R884). -/
theorem storesIndexed_of_storeLSX (i : Instr) (c : Ctx) (f : Fmt.LSX) (n : Nat) (hn : 0 < n) (hn2 : n < 2 ^ 64)
    (hc : c = Instr.ctx i) (h : ∀ s, exec i s = storeLSX c f (storeMove n) s) : StoresIndexed i f n := by
  intro s
  have hz : i.size = c.size := by rw [hc]; rfl
  have hs : (s.enabledList f.m).Pairwise (· < ·) := by
    unfold State.enabledList State.loopElements
    exact (List.pairwise_lt_range').filter _
  have same : ∀ (x : Nat) (t : State), { t with mem := s.mem, stale := s.stale, rewritten := s.rewritten } = s →
      addressLSX f t (elementIndexValue f (s.mask f.m) x t) = s.elementAddress f x ∧
        t.readLane (some x) f.rt = s.vec f.rt x := fun x t ht => by
    have h1 := congrArg (fun t => addressLSX f t (elementIndexValue f (s.mask f.m) x t)) ht
    have h2 := congrArg (fun t : State => t.vec f.rt x) ht
    exact ⟨h1, h2⟩
  have key : ∀ (base : Word) (k x : Nat) (t : State), (∀ y, x ≤ y → y < x + k → (s.mask f.m).getLsbD y = true →
        s.Plain .store f.sel.toNat base (s.elementAddress f y) n) →
      { t with mem := s.mem, stale := s.stale, rewritten := s.rewritten } = s → Memory.wf t.mem = true →
      let l := (List.range' x k).filter fun x => (s.mask f.m).getLsbD x
      ∃ r, elementLoop (s.mask f.m) (fun x s1 => storeMove n (some x) f.rt f.sel
        (addressLSX f s1 (elementIndexValue f (s.mask f.m) x s1)) s1) (fun _ s1 => s1) k x t =
      .ok () { l.foldl (fun u x =>
        u.storeBytes (linearAddress base (s.elementAddress f x)) (bytesOf n (s.vec f.rt x))) t with
        rewritten := r } ∧ (l = [] → r = t.rewritten) ∧
      TetrasKept t { l.foldl (fun u x =>
        u.storeBytes (linearAddress base (s.elementAddress f x)) (bytesOf n (s.vec f.rt x))) t with rewritten := r }
        (fun a b => ∃ x ∈ l, WroteAt (linearAddress base (s.elementAddress f x)) n (s.vec f.rt x) a b) := by
    intro base k
    induction k with
    | zero => intro x t _ _ _; exact ⟨t.rewritten, rfl, fun _ => rfl, .nil t⟩
    | succ k ih =>
      intro x t hpl ht htw
      rw [elementLoop_succ, List.range'_succ, List.filter_cons]
      by_cases hm : (s.mask f.m).getLsbD x
      · rw [if_pos hm, if_pos hm]
        dsimp only
        rw [List.foldl_cons]
        obtain ⟨ha, hv⟩ := same x t ht
        have hpt : t.Plain .store f.sel.toNat base (s.elementAddress f x) n := by
          exact plain_of_memory ht (hpl x (by omega) (by omega) hm)
        obtain ⟨r, hr, hk⟩ := State.memWrite_plain t _ base _ n (s.vec f.rt x) hpt hn htw
        have h3 := t.storeBytes_frame (linearAddress base (s.elementAddress f x)) (bytesOf n (s.vec f.rt x))
        obtain ⟨q, hq, _, hk'⟩ := ih (x+1) { t.storeBytes (linearAddress base (s.elementAddress f x))
          (bytesOf n (s.vec f.rt x)) with rewritten := r } (fun y h1 h2 => hpl y (by omega) (by omega))
          (by rw [← h3] at ht; exact ht) (State.storeBytes_wf t _ _ htw)
        rw [foldl_storeBytes_rewritten] at hq hk'
        simp only [storeMove, ha, hv, hr]
        refine ⟨q, hq, fun hl => (by cases hl), (hk.trans (fun a => ?_) hk').mono fun a b =>
          (wrote_cons (fun x => linearAddress base (s.elementAddress f x)) (s.vec f.rt) n x _ a b).symm⟩
        exact (((State.storeBytes_staleKept t _ _ htw).values a).imp id (wroteBytes_iff _ n _ a _).1)
      · rw [if_neg hm, if_neg hm]
        exact ih (x+1) _ (fun y h1 h2 => hpl y (by omega) (by omega)) ht htw
  refine ⟨fun hv b hb => ?_, fun hv hb => ?_, fun hv hvl base hw hp => ?_, fun hv hvl base hw x hx => ?_⟩
  · refine storesAt_of_finishSeq _ c _ _ _ _ _ hn hn2 hc ?_
    rw [h, storeLSX, indexedMove, if_neg (by rw [hv]; decide), hb]; rfl
  · rw [h, storeLSX, indexedMove, if_neg (by rw [hv]; decide), hb]; rfl
  · obtain ⟨r, hr, _, hk⟩ := key base (s.vl.toNat - s.csr.vstep.toNat) s.csr.vstep.toNat s
      (fun y h1 h2 h3 => hp y (mem_enabledList.mpr ⟨h1, h2, h3⟩)) rfl hw
    obtain ⟨u, hu, h1, h2, h3, h5, h6⟩ : ∃ u, u = _ ∧ ElementsStored s s u _ _ n _ := ⟨_, rfl, elementsStored_foldl s
      (fun x => linearAddress base (s.elementAddress f x)) (s.vec f.rt) n hn2 (s.enabledList f.m) hs hw r hk⟩
    have h4 := congrArg (fun q : State => q.looped.advance i.size) h1
    refine ⟨u.looped.advance i.size, ?_, h4, h2, h3, h5.looped.advance _, h6.looped.advance _⟩
    rw [h, storeLSX, indexedMove, if_pos hv, State.vectorLoop, State.useVl_settled s hvl, hz, hu]
    simp only [hr, Res.bind_ok, finishSeq_ok]
    rfl
  · intro below hp
    obtain ⟨hx1, hx2, _⟩ := mem_enabledList.mp hx
    have hb : below = _ := enabledList_below hx
    obtain ⟨r, hr, hr0, hk⟩ := key base (x - s.csr.vstep.toNat) s.csr.vstep.toNat s
      (fun y h1 h2 h3 => hp y (List.mem_filter.mpr ⟨mem_enabledList.mpr ⟨h1, by omega, h3⟩, by simp; omega⟩)) rfl hw
    rw [← hb] at hr hr0 hk
    have hst := elementsStored_foldl s (fun x => linearAddress base (s.elementAddress f x)) (s.vec f.rt) n hn2
      below (hs.filter _) hw r hk
    refine ⟨_, hst, fun h0 => ?_, fun e t ht => ?_⟩
    · rw [h0, hr0 h0]; rfl
    · obtain ⟨ha, hv'⟩ := same x _ hst.1
      have hcr := congrArg (fun q : State => q.creg) hst.1
      refine stopsAt_of_raise (State.memWrite_trap _ _ _ _ _ _ _ ht) hcr ?_
      rw [h, storeLSX, indexedMove, if_pos hv, vectorLoop_stop s _ t f.m _ _ e x hvl hx hr
        (by simp only [storeMove, ha, hv', ht]), finishSeq_trap, hc]

end Sys2Proof.Machine
end

