-- ==== Sys2Proof/Laws/Path.lean ====
section
/-! SUPPORT. An access as the steps of 20_memory R190: where they all pass it answers, where one fails it fails with that,
and what is made byte by byte is its byte accesses one after the other. -/

namespace Sys2Proof.Machine

/-! ### Failures -/

theorem Res.failure_bind {α β : Type} {r : Res α} {f : Exc ⊕ Halt} (h : r.failure = some f)
    (g : α → State → Res β) : (r.bind g).failure = some f := by
  cases r with
  | ok => cases h
  | trap => exact h
  | stop => exact h

theorem Res.failure_restore {α : Type} (s : State) (r : Res α) : (r.restore s).failure = r.failure := by
  cases r <;> rfl

/-- A failed step fails what begins with it; a passed one leaves it to the rest. -/
theorem Res.FailsOr.bind {α β : Type} {r : Res α} {f : Exc ⊕ Halt} {rest : α → State → Prop}
    {g : α → State → Res β} (h : r.FailsOr f rest) (hg : ∀ a s, rest a s → (g a s).failure = some f) :
    (r.bind g).failure = some f := by
  rcases h with h | ⟨a, s, rfl, h⟩
  · exact Res.failure_bind h g
  · exact hg a s h

/-- What follows a step follows what begins with it. -/
theorem Res.FailsOr.through {α β : Type} {r : Res α} {f : Exc ⊕ Halt} {rest : α → State → Prop}
    {g : α → State → Res β} {rest' : β → State → Prop} (h : r.FailsOr f rest)
    (hg : ∀ a s, rest a s → (g a s).FailsOr f rest') : (r.bind g).FailsOr f rest' := by
  rcases h with h | ⟨a, s, rfl, h⟩
  · exact .inl (Res.failure_bind h g)
  · exact hg a s h

namespace State

/-! ### An access made as a whole -/

/-- The bus changes nothing. -/
theorem busAnswers_ok {s t : State} {k : Access} {va pa : Word} {n : Nat} {a : Unit}
    (h : s.busAnswers k va pa n = .ok a t) : t = s := by
  unfold busAnswers at h
  split at h <;> cases h
  rfl

/-- Steps 2 to 5 of a path, and the bus. -/
theorem PathTo.physical {s t : State} {k : Access} {seg : Nat} {va pa : Word} {n : Nat}
    (h : s.PathTo k seg va n pa t) : ∃ s1, s.debugStep k va n = .ok () s1 ∧ s1.physical k seg va = .ok pa t ∧
      t.busAnswers k va pa n = .ok () t := by
  obtain ⟨⟨⟩, s1, h1, la, s2, h2, p, s3, h3, ⟨⟩, s4, h4, ⟨⟩, s5, h5, ⟨⟩, s6, h6, rfl, rfl⟩ := h
  cases busAnswers_ok h6
  refine ⟨s1, h1, ?_, h6⟩
  unfold State.physical
  rw [h2, Res.bind_ok, h3, Res.bind_ok, h4, Res.bind_ok, h5]
  rfl

/-- Steps 2 to 5 of a path that fails, and the bus. -/
theorem PathFails.physical {s : State} {k : Access} {seg : Nat} {va : Word} {n : Nat} {f : Exc ⊕ Halt}
    (h : s.PathFails k seg va n f) : (s.debugStep k va n).FailsOr f fun _ s1 =>
      (s1.physical k seg va).FailsOr f fun pa s5 => (s5.busAnswers k va pa n).failure = some f := by
  refine h.imp_right fun ⟨_, s1, h1, h⟩ => ⟨_, s1, h1, ?_⟩
  exact Res.FailsOr.through h fun la s2 h => Res.FailsOr.through h fun pa s3 h => Res.FailsOr.through h fun _ s4 h =>
    Res.FailsOr.through h fun _ s5 h => .inr ⟨pa, s5, rfl, h⟩

theorem loadOne_path {s t : State} {seg : Nat} {va pa : Word} {n : Nat} (h : s.PathTo .load seg va n pa t) :
    s.loadOne seg va n = .ok (t.bytesAt pa n) t := by
  obtain ⟨s1, h1, h2, h3⟩ := h.physical
  have h1 : s.debugData false va n = .ok () s1 := h1
  unfold loadOne
  rw [h1, Res.bind_ok, h2, Res.bind_ok, h3, Res.bind_ok]

theorem loadOne_fails {s : State} {seg : Nat} {va : Word} {n : Nat} {f : Exc ⊕ Halt}
    (h : s.PathFails .load seg va n f) : (s.loadOne seg va n).failure = some f :=
  Res.FailsOr.bind h.physical fun _ _ h => Res.FailsOr.bind h fun _ _ h => Res.failure_bind h _

theorem storeOne_path {s t : State} {seg : Nat} {va pa : Word} {bs : List Byte}
    (h : s.PathTo .store seg va bs.length pa t) :
    s.storeOne seg va bs = .ok () ((t.keepTetras pa bs.length).storeBytes pa bs) := by
  obtain ⟨s1, h1, h2, h3⟩ := h.physical
  have h1 : s.debugData true va bs.length = .ok () s1 := h1
  unfold storeOne
  rw [h1, Res.bind_ok, h2, Res.bind_ok, h3, Res.bind_ok]

theorem storeOne_fails {s : State} {seg : Nat} {va : Word} {bs : List Byte} {f : Exc ⊕ Halt}
    (h : s.PathFails .store seg va bs.length f) : (s.storeOne seg va bs).failure = some f :=
  Res.FailsOr.bind h.physical fun _ _ h => Res.FailsOr.bind h fun _ _ h => Res.failure_bind h _

theorem fetchByte_path {s t : State} {va pa : Word} (h : s.PathTo .fetch 7 va 1 pa t) :
    s.fetchByte va = .ok (t.fetchPhysical pa).1 (t.fetchPhysical pa).2 := by
  obtain ⟨s1, h1, h2, h3⟩ := h.physical
  cases h1
  unfold fetchByte
  rw [h2, Res.bind_ok, h3, Res.bind_ok]

theorem fetchByte_fails {s : State} {va : Word} {f : Exc ⊕ Halt} (h : s.PathFails .fetch 7 va 1 f) :
    (s.fetchByte va).failure = some f := by
  rcases h.physical with h | ⟨_, s1, h1, h⟩
  · cases h
  · cases h1
    exact Res.FailsOr.bind h fun _ _ h => Res.failure_bind h _

/-- An aligned access is made as a whole (20_memory R143). -/
theorem naturallyAligned_iff (va : Word) (n : Nat) : naturallyAligned va n = true ↔ va.toNat % n = 0 := by
  unfold naturallyAligned; exact beq_iff_eq

theorem memRead_path {s t : State} {seg : Nat} {va pa : Word} {n : Nat} (ha : va.toNat % n = 0)
    (h : s.PathTo .load seg va n pa t) : s.memRead seg va n = .ok (t.valueAt pa n) t := by
  unfold memRead
  rw [if_pos ((naturallyAligned_iff va n).2 ha), loadOne_path h]
  rfl

theorem memRead_fails {s : State} {seg : Nat} {va : Word} {n : Nat} {f : Exc ⊕ Halt} (ha : va.toNat % n = 0)
    (h : s.PathFails .load seg va n f) : (s.memRead seg va n).failure = some f := by
  unfold memRead
  rw [if_pos ((naturallyAligned_iff va n).2 ha)]
  exact Res.failure_bind ((Res.failure_restore s _).trans (loadOne_fails h)) _

theorem memWrite_path {s t : State} {seg : Nat} {va pa : Word} {n : Nat} (v : Word) (hn : 0 < n) (hn2 : n < 2 ^ 64)
    (ha : va.toNat % n = 0) (hw : Memory.wf t.mem = true) (h : s.PathTo .store seg va n pa t) :
    ∃ u, s.memWrite seg va n v = .ok () u ∧ StoredAt t t u pa n v := by
  have hl : (bytesOf n v).length = n := by simp [bytesOf]
  unfold memWrite
  rw [if_pos ((naturallyAligned_iff va n).2 ha), storeOne_path (by rw [hl]; exact h)]
  refine ⟨_, rfl, ?_⟩
  have hk := storeBytes_rewritten t pa (bytesOf n v) (t.keepTetras pa (bytesOf n v).length).rewritten
  have hk' : (t.keepTetras pa (bytesOf n v).length).storeBytes pa (bytesOf n v) = _ := hk
  rw [hk']
  refine storedAt_storeBytes t pa n v hw hn2 _ (TetrasKept.mono ?_ (wroteBytes_iff pa n v))
  exact tetrasKept_keepTetras t _ pa _ (by omega) rfl

theorem memWrite_fails {s : State} {seg : Nat} {va : Word} {n : Nat} (v : Word) {f : Exc ⊕ Halt} (ha : va.toNat % n = 0)
    (h : s.PathFails .store seg va n f) : (s.memWrite seg va n v).failure = some f := by
  have hl : (bytesOf n v).length = n := by simp [bytesOf]
  unfold memWrite
  rw [if_pos ((naturallyAligned_iff va n).2 ha)]
  exact (Res.failure_restore s _).trans (storeOne_fails (by rw [hl]; exact h))

/-! ### Byte accesses one after the other -/

/-- A load of one byte is made as a whole. -/
theorem loadOne_of_memRead {s t : State} {seg : Nat} {va b : Word} (h : s.memRead seg va 1 = .ok b t) :
    ∃ x, s.loadOne seg va 1 = .ok [x] t ∧ b.extractLsb' 0 8 = x := by
  unfold memRead at h
  rw [if_pos ((naturallyAligned_iff va 1).2 (by omega))] at h
  cases hr : s.loadOne seg va 1 with
  | ok bs u =>
    rw [hr] at h
    cases h
    obtain ⟨x, hx⟩ : ∃ x, bs = [x] := by
      unfold loadOne at hr
      cases h1 : s.debugData false va 1 with
      | ok a s1 =>
        rw [h1, Res.bind_ok] at hr
        cases h2 : s1.physical .load seg va with
        | ok pa s2 =>
          rw [h2, Res.bind_ok] at hr
          cases h3 : s2.busAnswers .load va pa 1 with
          | ok a s3 => rw [h3, Res.bind_ok] at hr; cases hr; exact ⟨_, rfl⟩
          | trap => rw [h3] at hr; cases hr
          | stop => rw [h3] at hr; cases hr
        | trap => rw [h2] at hr; cases hr
        | stop => rw [h2] at hr; cases hr
      | trap => rw [h1] at hr; cases hr
      | stop => rw [h1] at hr; cases hr
    subst hx
    refine ⟨x, rfl, ?_⟩
    show ((0#64 <<< 8) ||| x.setWidth 64).extractLsb' 0 8 = x
    rw [show (0#64 <<< 8 : Word) = 0#64 by decide, BitVec.zero_or]
    exact BitVec.extractLsb'_setWidth_of_le (by omega) |>.trans (BitVec.extractLsb'_eq_self)
  | trap => rw [hr] at h; cases h
  | stop => rw [hr] at h; cases h

theorem loadOne_fails_of_memRead {s : State} {seg : Nat} {va : Word} {f : Exc ⊕ Halt}
    (h : (s.memRead seg va 1).failure = some f) : (s.loadOne seg va 1).failure = some f := by
  unfold memRead at h
  rw [if_pos ((naturallyAligned_iff va 1).2 (by omega))] at h
  cases hr : s.loadOne seg va 1 with
  | ok => rw [hr] at h; cases h
  | trap => rw [hr] at h; exact h
  | stop => rw [hr] at h; exact h

/-- The address of a byte after the first. -/
theorem next_address (va : Word) (j : Nat) : va + 1 + BitVec.ofNat 64 j = va + BitVec.ofNat 64 (j + 1) := by
  rw [BitVec.ofNat_add, BitVec.add_comm (BitVec.ofNat 64 j), ← BitVec.add_assoc]; rfl

/-- A store of one byte is made as a whole. -/
theorem storeOne_of_memWrite {s : State} {seg : Nat} {va v : Word} {j : Nat} {r : Res Unit}
    (h : s.memWrite seg va 1 (v >>> (8 * j)) = r) :
    (s.storeOne seg va [v.extractLsb' (8 * j) 8]).restore s = r := by
  have hb : bytesOf 1 (v >>> (8 * j)) = [v.extractLsb' (8 * j) 8] := by
    show [(v >>> (8 * j)).extractLsb' 0 8] = _
    refine congrArg (fun x => [x]) (BitVec.eq_of_getLsbD_eq fun i hi => ?_)
    simp
  unfold memWrite at h
  rw [if_pos ((naturallyAligned_iff va 1).2 (by omega)), hb] at h
  exact h

theorem Res.restore_ok {α : Type} {s t : State} {r : Res α} {a : α} (h : r.restore s = .ok a t) : r = .ok a t := by
  cases r with
  | ok => exact h
  | trap => cases h
  | stop => cases h

/-- The bytes of a word from a first one on. -/
theorem bytes_succ (v : Word) (i n : Nat) :
    (List.range (n + 1)).map (fun j => v.extractLsb' (8 * (i + j)) 8) =
      v.extractLsb' (8 * i) 8 :: (List.range n).map fun j => v.extractLsb' (8 * (i + 1 + j)) 8 := by
  rw [List.range_succ_eq_map, List.map_cons, List.map_map]
  refine congrArg (List.cons _) (List.map_congr_left fun j _ => ?_)
  simp only [Function.comp_apply]
  rw [show i + Nat.succ j = i + 1 + j by omega]

/-- A chain of byte stores. -/
theorem storeEach_chain (st : Nat → State) (seg : Nat) (va v : Word) (i n : Nat)
    (h : ∀ j < n, (st j).memWrite seg (va + BitVec.ofNat 64 j) 1 (v >>> (8 * (i + j))) = .ok () (st (j + 1))) :
    (st 0).storeEach seg va ((List.range n).map fun j => v.extractLsb' (8 * (i + j)) 8) = .ok () (st n) := by
  induction n generalizing st va i with
  | zero => rfl
  | succ n ih =>
    have h1 := Res.restore_ok (storeOne_of_memWrite (h 0 (by omega)))
    rw [BitVec.add_zero] at h1
    rw [bytes_succ]
    unfold storeEach
    rw [show i + 0 = i from rfl] at h1
    rw [h1, Res.bind_ok]
    exact ih (fun j => st (j + 1)) (va + 1) (i + 1) fun j hj => by
      rw [next_address, show i + 1 + j = i + (j + 1) by omega]; exact h (j + 1) (by omega)

theorem storeEach_fails (st : Nat → State) (seg : Nat) (va v : Word) (i n k : Nat) (hk : k < n) (f : Exc ⊕ Halt)
    (h : ∀ j < k, (st j).memWrite seg (va + BitVec.ofNat 64 j) 1 (v >>> (8 * (i + j))) = .ok () (st (j + 1)))
    (hf : ((st k).memWrite seg (va + BitVec.ofNat 64 k) 1 (v >>> (8 * (i + k)))).failure = some f) :
    ((st 0).storeEach seg va ((List.range n).map fun j => v.extractLsb' (8 * (i + j)) 8)).failure = some f := by
  induction n generalizing st va i k with
  | zero => omega
  | succ n ih =>
    rw [bytes_succ]
    unfold storeEach
    cases k with
    | zero =>
      rw [← storeOne_of_memWrite rfl, BitVec.add_zero, Res.failure_restore] at hf
      exact Res.failure_bind hf _
    | succ k =>
      have h1 := Res.restore_ok (storeOne_of_memWrite (h 0 (by omega)))
      rw [BitVec.add_zero, show i + 0 = i from rfl] at h1
      rw [h1, Res.bind_ok]
      refine ih (fun j => st (j + 1)) (va + 1) (i + 1) k (by omega) (fun j hj => ?_) ?_
      · rw [next_address, show i + 1 + j = i + (j + 1) by omega]; exact h (j + 1) (by omega)
      · rw [next_address, show i + 1 + k = i + (k + 1) by omega]; exact hf

/-- A chain of byte loads. -/
theorem loadEach_chain (st : Nat → State) (b : Nat → Word) (seg : Nat) (va : Word) (n : Nat)
    (h : ∀ j < n, (st j).memRead seg (va + BitVec.ofNat 64 j) 1 = .ok (b j) (st (j + 1))) :
    (st 0).loadEach seg va n = .ok ((List.range n).map fun j => (b j).extractLsb' 0 8) (st n) := by
  induction n generalizing st b va with
  | zero => rfl
  | succ n ih =>
    obtain ⟨x, h1, h2⟩ := loadOne_of_memRead (h 0 (by omega))
    rw [BitVec.add_zero] at h1
    have h3 := ih (fun j => st (j + 1)) (fun j => b (j + 1)) (va + 1) fun j hj => by
      rw [next_address]; exact h (j + 1) (by omega)
    unfold loadEach
    rw [h1, Res.bind_ok, h3, Res.bind_ok, List.range_succ_eq_map, List.map_cons, List.map_map, h2]
    rfl

theorem loadEach_fails (st : Nat → State) (seg : Nat) (va : Word) (n k : Nat) (hk : k < n) (f : Exc ⊕ Halt)
    (h : ∀ j < k, ∃ b, (st j).memRead seg (va + BitVec.ofNat 64 j) 1 = .ok b (st (j + 1)))
    (hf : ((st k).memRead seg (va + BitVec.ofNat 64 k) 1).failure = some f) :
    ((st 0).loadEach seg va n).failure = some f := by
  induction n generalizing st va k with
  | zero => omega
  | succ n ih =>
    unfold loadEach
    cases k with
    | zero => rw [BitVec.add_zero] at hf; exact Res.failure_bind (loadOne_fails_of_memRead hf) _
    | succ k =>
      obtain ⟨b, hb⟩ := h 0 (by omega)
      obtain ⟨x, h1, _⟩ := loadOne_of_memRead hb
      rw [BitVec.add_zero] at h1
      rw [h1, Res.bind_ok]
      refine Res.failure_bind (ih (fun j => st (j + 1)) (va + 1) k (by omega) (fun j hj => ?_) ?_) _
      · rw [next_address]; exact h (j + 1) (by omega)
      · rw [next_address]; exact hf

/-- A misaligned load is its byte loads one after the other (20_memory R143). -/
theorem memRead_chain (st : Nat → State) (b : Nat → Word) (seg : Nat) (va : Word) (n : Nat) (ha : va.toNat % n ≠ 0)
    (h : ∀ j < n, (st j).memRead seg (va + BitVec.ofNat 64 j) 1 = .ok (b j) (st (j + 1))) :
    (st 0).memRead seg va n = .ok (wordOf ((List.range n).map fun j => (b j).extractLsb' 0 8)) (st n) := by
  unfold memRead
  rw [if_neg fun e => ha ((naturallyAligned_iff va n).1 e), loadEach_chain st b seg va n h]
  rfl

theorem memRead_chain_fails (st : Nat → State) (seg : Nat) (va : Word) (n k : Nat) (ha : va.toNat % n ≠ 0) (hk : k < n)
    (f : Exc ⊕ Halt) (h : ∀ j < k, ∃ b, (st j).memRead seg (va + BitVec.ofNat 64 j) 1 = .ok b (st (j + 1)))
    (hf : ((st k).memRead seg (va + BitVec.ofNat 64 k) 1).failure = some f) :
    ((st 0).memRead seg va n).failure = some f := by
  unfold memRead
  rw [if_neg fun e => ha ((naturallyAligned_iff va n).1 e)]
  exact Res.failure_bind ((Res.failure_restore _ _).trans (loadEach_fails st seg va n k hk f h hf)) _

/-- A misaligned store is its byte stores one after the other (20_memory R143). -/
theorem memWrite_chain (st : Nat → State) (seg : Nat) (va v : Word) (n : Nat) (ha : va.toNat % n ≠ 0)
    (h : ∀ j < n, (st j).memWrite seg (va + BitVec.ofNat 64 j) 1 (v >>> (8 * j)) = .ok () (st (j + 1))) :
    (st 0).memWrite seg va n v = .ok () (st n) := by
  have hc := storeEach_chain st seg va v 0 n (by simpa only [Nat.zero_add] using h)
  simp only [Nat.zero_add] at hc
  unfold memWrite bytesOf
  rw [if_neg fun e => ha ((naturallyAligned_iff va n).1 e), hc]
  rfl

theorem memWrite_chain_fails (st : Nat → State) (seg : Nat) (va v : Word) (n k : Nat) (ha : va.toNat % n ≠ 0) (hk : k < n)
    (f : Exc ⊕ Halt) (h : ∀ j < k, (st j).memWrite seg (va + BitVec.ofNat 64 j) 1 (v >>> (8 * j)) = .ok () (st (j + 1)))
    (hf : ((st k).memWrite seg (va + BitVec.ofNat 64 k) 1 (v >>> (8 * k))).failure = some f) :
    ((st 0).memWrite seg va n v).failure = some f := by
  have hc := storeEach_fails st seg va v 0 n k hk f (by simpa only [Nat.zero_add] using h)
    (by simpa only [Nat.zero_add] using hf)
  simp only [Nat.zero_add] at hc
  unfold memWrite bytesOf
  rw [if_neg fun e => ha ((naturallyAligned_iff va n).1 e)]
  exact (Res.failure_restore _ _).trans hc

/-! ### Instruction bytes -/

/-- The byte that a fetch gets: memory's, or an old one kept for its address; a choice draws (20_memory R216). -/
theorem fetchPhysical_spec (s : State) (pa : Word) : { (s.fetchPhysical pa).2 with draw := s.draw } = s ∧
    ((s.fetchPhysical pa).1 = Memory.read s.mem pa.toNat ∨
      ∃ e ∈ s.stale, e.addr = pa.toNat ∧ (s.fetchPhysical pa).1 = e.old) ∧
    ((∀ e ∈ s.stale, e.addr ≠ pa.toNat) → s.fetchPhysical pa = (Memory.read s.mem pa.toNat, s)) := by
  unfold fetchPhysical
  cases hl : (s.stale.filter fun e => decide (e.addr = pa.toNat)).map (·.old) with
  | nil => exact ⟨rfl, .inl rfl, fun _ => rfl⟩
  | cons o os =>
    have hm : ∀ x ∈ o :: os, ∃ e ∈ s.stale, e.addr = pa.toNat ∧ x = e.old := by
      intro x hx
      rw [← hl] at hx
      obtain ⟨e, he, rfl⟩ := List.mem_map.1 hx
      exact ⟨e, (List.mem_filter.1 he).1, by simpa using (List.mem_filter.1 he).2, rfl⟩
    refine ⟨rfl, ?_, fun h => ?_⟩
    · unfold useFrom chooseFrom
      dsimp only
      cases hg : (o :: os)[Config.freeChoice s.draw 0 % ((o :: os).length + 1)]? with
      | none => exact .inl rfl
      | some x => exact .inr (hm x (List.mem_of_getElem? hg))
    · obtain ⟨e, he, ha, _⟩ := hm o List.mem_cons_self
      exact absurd ha (h e he)

/-- Addresses of instruction bytes advance in the low 24 bits (10_state R41). -/
theorem nextIp_add (va : Word) (i j : Nat) : nextIp (nextIp va i) j = nextIp va (i + j) := by
  unfold nextIp
  have h1 : ∀ (x : BitVec 40) (y : BitVec 24), (x ++ y).extractLsb' 24 40 = x := fun x y => by
    exact BitVec.extractLsb'_append_eq_left
  have h2 : ∀ (x : BitVec 40) (y : BitVec 24), (x ++ y).extractLsb' 0 24 = y := fun x y => by
    exact BitVec.extractLsb'_append_eq_right
  rw [h1, h2, BitVec.add_assoc, ← BitVec.ofNat_add]

theorem nextIp_zero (va : Word) : nextIp va 0 = va := by
  unfold nextIp
  rw [show BitVec.ofNat 24 0 = 0#24 from rfl, BitVec.add_zero]
  exact BitVec.eq_of_toNat_eq (by
    simp only [BitVec.toNat_append, BitVec.extractLsb'_toNat, Nat.shiftRight_eq_div_pow]
    rw [← Nat.shiftLeft_add_eq_or_of_lt (Nat.mod_lt _ (by decide)), Nat.shiftLeft_eq]
    omega)

/-- A chain of byte fetches. -/
theorem fetchBytes_chain (st : Nat → State) (b : Nat → Byte) (va : Word) (n : Nat)
    (h : ∀ k < n, (st k).fetchByte (nextIp va k) = .ok (b k) (st (k + 1))) :
    (st 0).fetchBytes va n = .ok ((List.range n).map b) (st n) := by
  induction n generalizing st b va with
  | zero => rfl
  | succ n ih =>
    have h0 := h 0 (by omega)
    rw [nextIp_zero] at h0
    have h3 := ih (fun j => st (j + 1)) (fun j => b (j + 1)) (nextIp va 1) fun j hj => by
      rw [nextIp_add, Nat.add_comm 1 j]; exact h (j + 1) (by omega)
    unfold fetchBytes
    rw [h0, Res.bind_ok, h3, Res.bind_ok, List.range_succ_eq_map, List.map_cons, List.map_map]
    rfl

theorem fetchBytes_fails (st : Nat → State) (b : Nat → Byte) (va : Word) (n k : Nat) (hk : k < n) (f : Exc ⊕ Halt)
    (h : ∀ j < k, (st j).fetchByte (nextIp va j) = .ok (b j) (st (j + 1)))
    (hf : ((st k).fetchByte (nextIp va k)).failure = some f) : ((st 0).fetchBytes va n).failure = some f := by
  induction n generalizing st b va k with
  | zero => omega
  | succ n ih =>
    unfold fetchBytes
    cases k with
    | zero => rw [nextIp_zero] at hf; exact Res.failure_bind hf _
    | succ k =>
      have h0 := h 0 (by omega)
      rw [nextIp_zero] at h0
      rw [h0, Res.bind_ok]
      refine Res.failure_bind (ih (fun j => st (j + 1)) (fun j => b (j + 1)) (nextIp va 1) k (by omega)
        (fun j hj => ?_) ?_) _
      · rw [nextIp_add, Nat.add_comm 1 j]; exact h (j + 1) (by omega)
      · rw [nextIp_add, Nat.add_comm 1 k]; exact hf

/-- Every instruction has at least one parcel. -/
theorem two_le_lengthOf {r : Byte} {n : Nat} (h : lengthOf r = some n) : 2 ≤ n := by
  revert h
  revert n
  revert r
  decide

/-- An instruction's bytes are fetched one after the other (30 R242). -/
theorem fetchInstruction_chain (st : Nat → State) (b : Nat → Byte) (va : Word)
    (h : ∀ k < (lengthOf (b 0)).getD 2, (st k).fetchByte (nextIp va k) = .ok (b k) (st (k + 1))) :
    (st 0).fetchInstruction va = .ok ((List.range ((lengthOf (b 0)).getD 2)).map b) (st ((lengthOf (b 0)).getD 2)) := by
  unfold fetchInstruction
  cases hl : lengthOf (b 0) with
  | none =>
    rw [hl] at h
    rw [fetchBytes_chain st b va 2 h, Res.bind_ok]
    show Res.restore _ (match lengthOf (b 0) with | none => _ | some n => _) = _
    rw [hl]; rfl
  | some n =>
    rw [hl] at h
    obtain ⟨m, rfl⟩ : ∃ m, n = 2 + m := ⟨n - 2, by have := two_le_lengthOf hl; omega⟩
    have h : ∀ k < 2 + m, (st k).fetchByte (nextIp va k) = .ok (b k) (st (k + 1)) := h
    have h2 := fetchBytes_chain (fun k => st (2 + k)) (fun k => b (2 + k)) (nextIp va 2) m fun k hk => by
      rw [nextIp_add]; exact h (2 + k) (by omega)
    rw [fetchBytes_chain st b va 2 (fun k hk => h k (by omega)), Res.bind_ok]
    show Res.restore _ (match lengthOf (b 0) with | none => _ | some n => _) = _
    rw [hl]
    simp only [Nat.add_sub_cancel_left]
    have h2 : (st 2).fetchBytes (nextIp va 2) m = _ := h2
    rw [h2, Res.bind_ok]
    refine congrArg (fun l => Res.ok l (st (2 + m))) ?_
    show _ = (List.range (2 + m)).map b
    rw [List.range_add, List.map_append, List.map_map]
    rfl

theorem fetchInstruction_fails (st : Nat → State) (b : Nat → Byte) (va : Word) (k : Nat)
    (hk : k < (lengthOf (b 0)).getD 2) (f : Exc ⊕ Halt)
    (h : ∀ j < k, (st j).fetchByte (nextIp va j) = .ok (b j) (st (j + 1)))
    (hf : ((st k).fetchByte (nextIp va k)).failure = some f) : ((st 0).fetchInstruction va).failure = some f := by
  unfold fetchInstruction
  rw [Res.failure_restore]
  by_cases h2 : k < 2
  · exact Res.failure_bind (fetchBytes_fails st b va 2 k h2 f h hf) _
  · rw [fetchBytes_chain st b va 2 (fun j hj => h j (by omega)), Res.bind_ok]
    show (match lengthOf (b 0) with | none => _ | some n => _ : Res (List Byte)).failure = _
    cases hl : lengthOf (b 0) with
    | none => rw [hl] at hk; exact absurd hk h2
    | some n =>
      rw [hl] at hk
      obtain ⟨m, rfl⟩ : ∃ m, k = 2 + m := ⟨k - 2, by omega⟩
      refine Res.failure_bind (fetchBytes_fails (fun k => st (2 + k)) (fun k => b (2 + k)) (nextIp va 2) (n - 2) m
        (by simp only [Option.getD_some] at hk; omega) f (fun j hj => ?_) ?_) _
      · rw [nextIp_add]; exact h (2 + j) (by omega)
      · rw [nextIp_add]; exact hf

end State

end Sys2Proof.Machine
end

