-- ==== Sys2Proof/Laws/PerInstr.lean ====
section
/-! SUPPORT. A statement for all instructions, one lemma per constructor: the root opcode of an instruction's encoding
gives the length of the instruction, which is the number of bytes written out (30 R242, R243). -/

namespace Sys2Proof.Laws.RootLength

/-- The fetch reads the length of an instruction off its first byte. -/
def Statement (i : Instr) : Prop := lengthOf (rootOf (encodeWord i)) = some i.size ∧ (encode i).length = i.size

theorem exi7 (f : Fmt.EXI7) : Statement (.exi7 f) :=
  ⟨(congrArg lengthOf (Fmt.EXI7.rootOf_word _ f)).trans rfl, bytesOf_length _ _⟩

theorem exi23 (f : Fmt.EXI23) : Statement (.exi23 f) :=
  ⟨(congrArg lengthOf (Fmt.EXI23.rootOf_word _ f)).trans rfl, bytesOf_length _ _⟩

theorem exi41 (f : Fmt.EXI41) : Statement (.exi41 f) := by
  refine ⟨?_, bytesOf_length _ _⟩
  have h : rootOf f.word = 0x1F#6 ++ f.immLo := by
    simp (disch := decide) only [Fmt.EXI41.word, Fmt.EXI41.bits, field_wide]
    apply BitVec.eq_of_getLsbD_eq
    intro i hi
    simp only [BitVec.getLsbD_extractLsb', BitVec.getLsbD_append, hi, Nat.zero_add, decide_true, Bool.true_and]
    split
    · rfl
    · rw [if_pos (by omega)]
  refine (congrArg lengthOf h).trans ?_
  show lengthOf (0x1F#6 ++ f.immLo) = some 6
  generalize f.immLo = b
  revert b
  decide

theorem exi55 (f : Fmt.EXI55) : Statement (.exi55 f) :=
  ⟨(congrArg lengthOf (Fmt.EXI55.rootOf_word _ f)).trans rfl, bytesOf_length _ _⟩

theorem add (f : Fmt.R3) : Statement (.add f) :=
  ⟨(congrArg lengthOf (Fmt.R3.rootOf_word _ _ f)).trans rfl, bytesOf_length _ _⟩

theorem addS (f : Fmt.R2) : Statement (.addS f) :=
  ⟨(congrArg lengthOf (Fmt.R2.rootOf_word _ f)).trans rfl, bytesOf_length _ _⟩

theorem addi (f : Fmt.RI) : Statement (.addi f) :=
  ⟨(congrArg lengthOf (Fmt.RI.rootOf_word _ f)).trans rfl, bytesOf_length _ _⟩

theorem addil (f : Fmt.RIL) : Statement (.addil f) :=
  ⟨(congrArg lengthOf (Fmt.RIL.rootOf_word _ f)).trans rfl, bytesOf_length _ _⟩

theorem ldi (f : Fmt.RI) : Statement (.ldi f) :=
  ⟨(congrArg lengthOf (Fmt.RI.rootOf_word _ f)).trans rfl, bytesOf_length _ _⟩

theorem sub (f : Fmt.R3) : Statement (.sub f) :=
  ⟨(congrArg lengthOf (Fmt.R3.rootOf_word _ _ f)).trans rfl, bytesOf_length _ _⟩

theorem subfi (f : Fmt.RI) : Statement (.subfi f) :=
  ⟨(congrArg lengthOf (Fmt.RI.rootOf_word _ f)).trans rfl, bytesOf_length _ _⟩

theorem neg (f : Fmt.R3) : Statement (.neg f) :=
  ⟨(congrArg lengthOf (Fmt.R3.rootOf_word _ _ f)).trans rfl, bytesOf_length _ _⟩

theorem mul (f : Fmt.R3) : Statement (.mul f) :=
  ⟨(congrArg lengthOf (Fmt.R3.rootOf_word _ _ f)).trans rfl, bytesOf_length _ _⟩

theorem mulh (f : Fmt.R3) : Statement (.mulh f) :=
  ⟨(congrArg lengthOf (Fmt.R3.rootOf_word _ _ f)).trans rfl, bytesOf_length _ _⟩

theorem muli (f : Fmt.RI) : Statement (.muli f) :=
  ⟨(congrArg lengthOf (Fmt.RI.rootOf_word _ f)).trans rfl, bytesOf_length _ _⟩

theorem mulf (f : Fmt.R3) : Statement (.mulf f) :=
  ⟨(congrArg lengthOf (Fmt.R3.rootOf_word _ _ f)).trans rfl, bytesOf_length _ _⟩

theorem mulfi (f : Fmt.RI) : Statement (.mulfi f) :=
  ⟨(congrArg lengthOf (Fmt.RI.rootOf_word _ f)).trans rfl, bytesOf_length _ _⟩

theorem div (f : Fmt.R3) : Statement (.div f) :=
  ⟨(congrArg lengthOf (Fmt.R3.rootOf_word _ _ f)).trans rfl, bytesOf_length _ _⟩

theorem divi (f : Fmt.RI) : Statement (.divi f) :=
  ⟨(congrArg lengthOf (Fmt.RI.rootOf_word _ f)).trans rfl, bytesOf_length _ _⟩

theorem divil (f : Fmt.RIL) : Statement (.divil f) :=
  ⟨(congrArg lengthOf (Fmt.RIL.rootOf_word _ f)).trans rfl, bytesOf_length _ _⟩

theorem divu (f : Fmt.R3) : Statement (.divu f) :=
  ⟨(congrArg lengthOf (Fmt.R3.rootOf_word _ _ f)).trans rfl, bytesOf_length _ _⟩

theorem divui (f : Fmt.RI) : Statement (.divui f) :=
  ⟨(congrArg lengthOf (Fmt.RI.rootOf_word _ f)).trans rfl, bytesOf_length _ _⟩

theorem divsu (f : Fmt.R3) : Statement (.divsu f) :=
  ⟨(congrArg lengthOf (Fmt.R3.rootOf_word _ _ f)).trans rfl, bytesOf_length _ _⟩

theorem ptrdif (f : Fmt.R3) : Statement (.ptrdif f) :=
  ⟨(congrArg lengthOf (Fmt.R3.rootOf_word _ _ f)).trans rfl, bytesOf_length _ _⟩

theorem dif (f : Fmt.R3) : Statement (.dif f) :=
  ⟨(congrArg lengthOf (Fmt.R3.rootOf_word _ _ f)).trans rfl, bytesOf_length _ _⟩

theorem abs (f : Fmt.R3) : Statement (.abs f) :=
  ⟨(congrArg lengthOf (Fmt.R3.rootOf_word _ _ f)).trans rfl, bytesOf_length _ _⟩

theorem min (f : Fmt.R3) : Statement (.min f) :=
  ⟨(congrArg lengthOf (Fmt.R3.rootOf_word _ _ f)).trans rfl, bytesOf_length _ _⟩

theorem max (f : Fmt.R3) : Statement (.max f) :=
  ⟨(congrArg lengthOf (Fmt.R3.rootOf_word _ _ f)).trans rfl, bytesOf_length _ _⟩

theorem cmp (f : Fmt.R3) : Statement (.cmp f) :=
  ⟨(congrArg lengthOf (Fmt.R3.rootOf_word _ _ f)).trans rfl, bytesOf_length _ _⟩

theorem cmpi (f : Fmt.RI) : Statement (.cmpi f) :=
  ⟨(congrArg lengthOf (Fmt.RI.rootOf_word _ f)).trans rfl, bytesOf_length _ _⟩

theorem cmpil (f : Fmt.RIL) : Statement (.cmpil f) :=
  ⟨(congrArg lengthOf (Fmt.RIL.rootOf_word _ f)).trans rfl, bytesOf_length _ _⟩

theorem cmpu (f : Fmt.R3) : Statement (.cmpu f) :=
  ⟨(congrArg lengthOf (Fmt.R3.rootOf_word _ _ f)).trans rfl, bytesOf_length _ _⟩

theorem cmpui (f : Fmt.RI) : Statement (.cmpui f) :=
  ⟨(congrArg lengthOf (Fmt.RI.rootOf_word _ f)).trans rfl, bytesOf_length _ _⟩

theorem chk (f : Fmt.R3) : Statement (.chk f) :=
  ⟨(congrArg lengthOf (Fmt.R3.rootOf_word _ _ f)).trans rfl, bytesOf_length _ _⟩

theorem chki (f : Fmt.CHKI) : Statement (.chki f) :=
  ⟨(congrArg lengthOf (Fmt.CHKI.rootOf_word _ f)).trans rfl, bytesOf_length _ _⟩

theorem cmovnz (f : Fmt.R3) : Statement (.cmovnz f) :=
  ⟨(congrArg lengthOf (Fmt.R3.rootOf_word _ _ f)).trans rfl, bytesOf_length _ _⟩

theorem cpuid (f : Fmt.RI) : Statement (.cpuid f) :=
  ⟨(congrArg lengthOf (Fmt.RI.rootOf_word _ f)).trans rfl, bytesOf_length _ _⟩

theorem mkbool (f : Fmt.R3) : Statement (.mkbool f) :=
  ⟨(congrArg lengthOf (Fmt.R3.rootOf_word _ _ f)).trans rfl, bytesOf_length _ _⟩

theorem not (f : Fmt.R3) : Statement (.not f) :=
  ⟨(congrArg lengthOf (Fmt.R3.rootOf_word _ _ f)).trans rfl, bytesOf_length _ _⟩

theorem seq (f : Fmt.R3) : Statement (.seq f) :=
  ⟨(congrArg lengthOf (Fmt.R3.rootOf_word _ _ f)).trans rfl, bytesOf_length _ _⟩

theorem seqi (f : Fmt.RI) : Statement (.seqi f) :=
  ⟨(congrArg lengthOf (Fmt.RI.rootOf_word _ f)).trans rfl, bytesOf_length _ _⟩

theorem seqil (f : Fmt.RIL) : Statement (.seqil f) :=
  ⟨(congrArg lengthOf (Fmt.RIL.rootOf_word _ f)).trans rfl, bytesOf_length _ _⟩

theorem sne (f : Fmt.R3) : Statement (.sne f) :=
  ⟨(congrArg lengthOf (Fmt.R3.rootOf_word _ _ f)).trans rfl, bytesOf_length _ _⟩

theorem snei (f : Fmt.RI) : Statement (.snei f) :=
  ⟨(congrArg lengthOf (Fmt.RI.rootOf_word _ f)).trans rfl, bytesOf_length _ _⟩

theorem sneil (f : Fmt.RIL) : Statement (.sneil f) :=
  ⟨(congrArg lengthOf (Fmt.RIL.rootOf_word _ f)).trans rfl, bytesOf_length _ _⟩

theorem slt (f : Fmt.R3) : Statement (.slt f) :=
  ⟨(congrArg lengthOf (Fmt.R3.rootOf_word _ _ f)).trans rfl, bytesOf_length _ _⟩

theorem slti (f : Fmt.RI) : Statement (.slti f) :=
  ⟨(congrArg lengthOf (Fmt.RI.rootOf_word _ f)).trans rfl, bytesOf_length _ _⟩

theorem sltil (f : Fmt.RIL) : Statement (.sltil f) :=
  ⟨(congrArg lengthOf (Fmt.RIL.rootOf_word _ f)).trans rfl, bytesOf_length _ _⟩

theorem sltu (f : Fmt.R3) : Statement (.sltu f) :=
  ⟨(congrArg lengthOf (Fmt.R3.rootOf_word _ _ f)).trans rfl, bytesOf_length _ _⟩

theorem sge (f : Fmt.R3) : Statement (.sge f) :=
  ⟨(congrArg lengthOf (Fmt.R3.rootOf_word _ _ f)).trans rfl, bytesOf_length _ _⟩

theorem sgeu (f : Fmt.R3) : Statement (.sgeu f) :=
  ⟨(congrArg lengthOf (Fmt.R3.rootOf_word _ _ f)).trans rfl, bytesOf_length _ _⟩

theorem sgti (f : Fmt.RI) : Statement (.sgti f) :=
  ⟨(congrArg lengthOf (Fmt.RI.rootOf_word _ f)).trans rfl, bytesOf_length _ _⟩

theorem sgtil (f : Fmt.RIL) : Statement (.sgtil f) :=
  ⟨(congrArg lengthOf (Fmt.RIL.rootOf_word _ f)).trans rfl, bytesOf_length _ _⟩

theorem sgtui (f : Fmt.RI) : Statement (.sgtui f) :=
  ⟨(congrArg lengthOf (Fmt.RI.rootOf_word _ f)).trans rfl, bytesOf_length _ _⟩

theorem sgtuil (f : Fmt.RIL) : Statement (.sgtuil f) :=
  ⟨(congrArg lengthOf (Fmt.RIL.rootOf_word _ f)).trans rfl, bytesOf_length _ _⟩

theorem slei (f : Fmt.RI) : Statement (.slei f) :=
  ⟨(congrArg lengthOf (Fmt.RI.rootOf_word _ { f with imm := f.imm + 1#11 })).trans rfl, bytesOf_length _ _⟩

theorem andS (f : Fmt.R2) : Statement (.andS f) :=
  ⟨(congrArg lengthOf (Fmt.R2.rootOf_word _ f)).trans rfl, bytesOf_length _ _⟩

theorem and (f : Fmt.R3) : Statement (.and f) :=
  ⟨(congrArg lengthOf (Fmt.R3.rootOf_word _ _ f)).trans rfl, bytesOf_length _ _⟩

theorem andc (f : Fmt.R3) : Statement (.andc f) :=
  ⟨(congrArg lengthOf (Fmt.R3.rootOf_word _ _ f)).trans rfl, bytesOf_length _ _⟩

theorem orS (f : Fmt.R2) : Statement (.orS f) :=
  ⟨(congrArg lengthOf (Fmt.R2.rootOf_word _ f)).trans rfl, bytesOf_length _ _⟩

theorem or (f : Fmt.R3) : Statement (.or f) :=
  ⟨(congrArg lengthOf (Fmt.R3.rootOf_word _ _ f)).trans rfl, bytesOf_length _ _⟩

theorem orc (f : Fmt.R3) : Statement (.orc f) :=
  ⟨(congrArg lengthOf (Fmt.R3.rootOf_word _ _ f)).trans rfl, bytesOf_length _ _⟩

theorem eorS (f : Fmt.R2) : Statement (.eorS f) :=
  ⟨(congrArg lengthOf (Fmt.R2.rootOf_word _ f)).trans rfl, bytesOf_length _ _⟩

theorem eor (f : Fmt.R3) : Statement (.eor f) :=
  ⟨(congrArg lengthOf (Fmt.R3.rootOf_word _ _ f)).trans rfl, bytesOf_length _ _⟩

theorem enor (f : Fmt.R3) : Statement (.enor f) :=
  ⟨(congrArg lengthOf (Fmt.R3.rootOf_word _ _ f)).trans rfl, bytesOf_length _ _⟩

theorem nand (f : Fmt.R3) : Statement (.nand f) :=
  ⟨(congrArg lengthOf (Fmt.R3.rootOf_word _ _ f)).trans rfl, bytesOf_length _ _⟩

theorem nor (f : Fmt.R3) : Statement (.nor f) :=
  ⟨(congrArg lengthOf (Fmt.R3.rootOf_word _ _ f)).trans rfl, bytesOf_length _ _⟩

theorem mux (f : Fmt.R3) : Statement (.mux f) :=
  ⟨(congrArg lengthOf (Fmt.R3.rootOf_word _ _ f)).trans rfl, bytesOf_length _ _⟩

theorem andi (f : Fmt.RI) : Statement (.andi f) :=
  ⟨(congrArg lengthOf (Fmt.RI.rootOf_word _ f)).trans rfl, bytesOf_length _ _⟩

theorem andil (f : Fmt.RIL) : Statement (.andil f) :=
  ⟨(congrArg lengthOf (Fmt.RIL.rootOf_word _ f)).trans rfl, bytesOf_length _ _⟩

theorem ori (f : Fmt.RI) : Statement (.ori f) :=
  ⟨(congrArg lengthOf (Fmt.RI.rootOf_word _ f)).trans rfl, bytesOf_length _ _⟩

theorem oril (f : Fmt.RIL) : Statement (.oril f) :=
  ⟨(congrArg lengthOf (Fmt.RIL.rootOf_word _ f)).trans rfl, bytesOf_length _ _⟩

theorem eori (f : Fmt.RI) : Statement (.eori f) :=
  ⟨(congrArg lengthOf (Fmt.RI.rootOf_word _ f)).trans rfl, bytesOf_length _ _⟩

theorem eoril (f : Fmt.RIL) : Statement (.eoril f) :=
  ⟨(congrArg lengthOf (Fmt.RIL.rootOf_word _ f)).trans rfl, bytesOf_length _ _⟩

theorem sllS (f : Fmt.R2) : Statement (.sllS f) :=
  ⟨(congrArg lengthOf (Fmt.R2.rootOf_word _ f)).trans rfl, bytesOf_length _ _⟩

theorem sllp (f : Fmt.R3) : Statement (.sllp f) :=
  ⟨(congrArg lengthOf (Fmt.R3.rootOf_word _ _ f)).trans rfl, bytesOf_length _ _⟩

theorem srlp (f : Fmt.R3) : Statement (.srlp f) :=
  ⟨(congrArg lengthOf (Fmt.R3.rootOf_word _ _ f)).trans rfl, bytesOf_length _ _⟩

theorem srl (f : Fmt.R3) : Statement (.srl f) :=
  ⟨(congrArg lengthOf (Fmt.R3.rootOf_word _ _ f)).trans rfl, bytesOf_length _ _⟩

theorem sra (f : Fmt.R3) : Statement (.sra f) :=
  ⟨(congrArg lengthOf (Fmt.R3.rootOf_word _ _ f)).trans rfl, bytesOf_length _ _⟩

theorem rol (f : Fmt.R3) : Statement (.rol f) :=
  ⟨(congrArg lengthOf (Fmt.R3.rootOf_word _ _ f)).trans rfl, bytesOf_length _ _⟩

theorem ror (f : Fmt.R3) : Statement (.ror f) :=
  ⟨(congrArg lengthOf (Fmt.R3.rootOf_word _ _ f)).trans rfl, bytesOf_length _ _⟩

theorem cntlz (f : Fmt.R1) : Statement (.cntlz f) :=
  ⟨(congrArg lengthOf (Fmt.R1.rootOf_word _ _ f)).trans rfl, bytesOf_length _ _⟩

theorem cntpop (f : Fmt.R1) : Statement (.cntpop f) :=
  ⟨(congrArg lengthOf (Fmt.R1.rootOf_word _ _ f)).trans rfl, bytesOf_length _ _⟩

theorem revbit (sz : BitVec 2) (f : Fmt.R1) : Statement (.revbit sz f) :=
  ⟨(congrArg lengthOf (Fmt.R1.rootOf_word _ _ f)).trans rfl, bytesOf_length _ _⟩

theorem mor (f : Fmt.R3) : Statement (.mor f) :=
  ⟨(congrArg lengthOf (Fmt.R3.rootOf_word _ _ f)).trans rfl, bytesOf_length _ _⟩

theorem mxor (f : Fmt.R3) : Statement (.mxor f) :=
  ⟨(congrArg lengthOf (Fmt.R3.rootOf_word _ _ f)).trans rfl, bytesOf_length _ _⟩

theorem mort (f : Fmt.R3) : Statement (.mort f) :=
  ⟨(congrArg lengthOf (Fmt.R3.rootOf_word _ _ f)).trans rfl, bytesOf_length _ _⟩

theorem mxort (f : Fmt.R3) : Statement (.mxort f) :=
  ⟨(congrArg lengthOf (Fmt.R3.rootOf_word _ _ f)).trans rfl, bytesOf_length _ _⟩

theorem bmap (f : Fmt.R3P) : Statement (.bmap f) :=
  ⟨(congrArg lengthOf (Fmt.R3P.rootOf_word _ f)).trans rfl, bytesOf_length _ _⟩

theorem clmul (f : Fmt.R3) : Statement (.clmul f) :=
  ⟨(congrArg lengthOf (Fmt.R3.rootOf_word _ _ f)).trans rfl, bytesOf_length _ _⟩

theorem clmulh (f : Fmt.R3) : Statement (.clmulh f) :=
  ⟨(congrArg lengthOf (Fmt.R3.rootOf_word _ _ f)).trans rfl, bytesOf_length _ _⟩

theorem bytndx (f : Fmt.R3) : Statement (.bytndx f) :=
  ⟨(congrArg lengthOf (Fmt.R3.rootOf_word _ _ f)).trans rfl, bytesOf_length _ _⟩

theorem bytndxi (f : Fmt.RI) : Statement (.bytndxi f) :=
  ⟨(congrArg lengthOf (Fmt.RI.rootOf_word _ f)).trans rfl, bytesOf_length _ _⟩

theorem wydendx (f : Fmt.R3) : Statement (.wydendx f) :=
  ⟨(congrArg lengthOf (Fmt.R3.rootOf_word _ _ f)).trans rfl, bytesOf_length _ _⟩

theorem wydendxi (f : Fmt.RIL) : Statement (.wydendxi f) :=
  ⟨(congrArg lengthOf (Fmt.RIL.rootOf_word _ f)).trans rfl, bytesOf_length _ _⟩

theorem utf21ndx (f : Fmt.R3) : Statement (.utf21ndx f) :=
  ⟨(congrArg lengthOf (Fmt.R3.rootOf_word _ _ f)).trans rfl, bytesOf_length _ _⟩

theorem utf21ndxi (f : Fmt.RIL) : Statement (.utf21ndxi f) :=
  ⟨(congrArg lengthOf (Fmt.RIL.rootOf_word _ f)).trans rfl, bytesOf_length _ _⟩

theorem bfalign (f : Fmt.R3) : Statement (.bfalign f) :=
  ⟨(congrArg lengthOf (Fmt.R3.rootOf_word _ _ f)).trans rfl, bytesOf_length _ _⟩

theorem bfffo (f : Fmt.R3) : Statement (.bfffo f) :=
  ⟨(congrArg lengthOf (Fmt.R3.rootOf_word _ _ f)).trans rfl, bytesOf_length _ _⟩

theorem bfextu (f : Fmt.R3) : Statement (.bfextu f) :=
  ⟨(congrArg lengthOf (Fmt.R3.rootOf_word _ _ f)).trans rfl, bytesOf_length _ _⟩

theorem bfext (f : Fmt.R3) : Statement (.bfext f) :=
  ⟨(congrArg lengthOf (Fmt.R3.rootOf_word _ _ f)).trans rfl, bytesOf_length _ _⟩

theorem andm (f : Fmt.R3) : Statement (.andm f) :=
  ⟨(congrArg lengthOf (Fmt.R3.rootOf_word _ _ f)).trans rfl, bytesOf_length _ _⟩

theorem bfset (f : Fmt.R3) : Statement (.bfset f) :=
  ⟨(congrArg lengthOf (Fmt.R3.rootOf_word _ _ f)).trans rfl, bytesOf_length _ _⟩

theorem bfchg (f : Fmt.R3) : Statement (.bfchg f) :=
  ⟨(congrArg lengthOf (Fmt.R3.rootOf_word _ _ f)).trans rfl, bytesOf_length _ _⟩

theorem bfclr (f : Fmt.R3) : Statement (.bfclr f) :=
  ⟨(congrArg lengthOf (Fmt.R3.rootOf_word _ _ f)).trans rfl, bytesOf_length _ _⟩

theorem com (f : Fmt.R3) : Statement (.com f) :=
  ⟨(congrArg lengthOf (Fmt.R3.rootOf_word _ _ f)).trans rfl, bytesOf_length _ _⟩

theorem mov (f : Fmt.R3) : Statement (.mov f) :=
  ⟨(congrArg lengthOf (Fmt.R3.rootOf_word _ _ f)).trans rfl, bytesOf_length _ _⟩

theorem movsxb (f : Fmt.R3) : Statement (.movsxb f) :=
  ⟨(congrArg lengthOf (Fmt.R3.rootOf_word _ _ f)).trans rfl, bytesOf_length _ _⟩

theorem movsxw (f : Fmt.R3) : Statement (.movsxw f) :=
  ⟨(congrArg lengthOf (Fmt.R3.rootOf_word _ _ f)).trans rfl, bytesOf_length _ _⟩

theorem movsxt (f : Fmt.R3) : Statement (.movsxt f) :=
  ⟨(congrArg lengthOf (Fmt.R3.rootOf_word _ _ f)).trans rfl, bytesOf_length _ _⟩

theorem movzxb (f : Fmt.R3) : Statement (.movzxb f) :=
  ⟨(congrArg lengthOf (Fmt.R3.rootOf_word _ _ f)).trans rfl, bytesOf_length _ _⟩

theorem movzxw (f : Fmt.R3) : Statement (.movzxw f) :=
  ⟨(congrArg lengthOf (Fmt.R3.rootOf_word _ _ f)).trans rfl, bytesOf_length _ _⟩

theorem movzxt (f : Fmt.R3) : Statement (.movzxt f) :=
  ⟨(congrArg lengthOf (Fmt.R3.rootOf_word _ _ f)).trans rfl, bytesOf_length _ _⟩

theorem bcdadd (f : Fmt.R3) : Statement (.bcdadd f) :=
  ⟨(congrArg lengthOf (Fmt.R3.rootOf_word _ _ f)).trans rfl, bytesOf_length _ _⟩

theorem bcdsub (f : Fmt.R3) : Statement (.bcdsub f) :=
  ⟨(congrArg lengthOf (Fmt.R3.rootOf_word _ _ f)).trans rfl, bytesOf_length _ _⟩

theorem bcdmul (f : Fmt.R3) : Statement (.bcdmul f) :=
  ⟨(congrArg lengthOf (Fmt.R3.rootOf_word _ _ f)).trans rfl, bytesOf_length _ _⟩

theorem fabs (f : Fmt.R1) : Statement (.fabs f) :=
  ⟨(congrArg lengthOf (Fmt.R1.rootOf_word _ _ f)).trans rfl, bytesOf_length _ _⟩

theorem fneg (f : Fmt.R1) : Statement (.fneg f) :=
  ⟨(congrArg lengthOf (Fmt.R1.rootOf_word _ _ f)).trans rfl, bytesOf_length _ _⟩

theorem fclass (f : Fmt.R1) : Statement (.fclass f) :=
  ⟨(congrArg lengthOf (Fmt.R1.rootOf_word _ _ f)).trans rfl, bytesOf_length _ _⟩

theorem ffinite (f : Fmt.R1) : Statement (.ffinite f) :=
  ⟨(congrArg lengthOf (Fmt.R1.rootOf_word _ _ f)).trans rfl, bytesOf_length _ _⟩

theorem isnan (f : Fmt.R1) : Statement (.isnan f) :=
  ⟨(congrArg lengthOf (Fmt.R1.rootOf_word _ _ f)).trans rfl, bytesOf_length _ _⟩

theorem fman (f : Fmt.R1) : Statement (.fman f) :=
  ⟨(congrArg lengthOf (Fmt.R1.rootOf_word _ _ f)).trans rfl, bytesOf_length _ _⟩

theorem fsign (f : Fmt.R1) : Statement (.fsign f) :=
  ⟨(congrArg lengthOf (Fmt.R1.rootOf_word _ _ f)).trans rfl, bytesOf_length _ _⟩

theorem fsqrt (f : Fmt.R1) : Statement (.fsqrt f) :=
  ⟨(congrArg lengthOf (Fmt.R1.rootOf_word _ _ f)).trans rfl, bytesOf_length _ _⟩

theorem frsqrte (f : Fmt.R1) : Statement (.frsqrte f) :=
  ⟨(congrArg lengthOf (Fmt.R1.rootOf_word _ _ f)).trans rfl, bytesOf_length _ _⟩

theorem fsigmoid (f : Fmt.R1) : Statement (.fsigmoid f) :=
  ⟨(congrArg lengthOf (Fmt.R1.rootOf_word _ _ f)).trans rfl, bytesOf_length _ _⟩

theorem ftoi (f : Fmt.R1) : Statement (.ftoi f) :=
  ⟨(congrArg lengthOf (Fmt.R1.rootOf_word _ _ f)).trans rfl, bytesOf_length _ _⟩

theorem itof (f : Fmt.R1) : Statement (.itof f) :=
  ⟨(congrArg lengthOf (Fmt.R1.rootOf_word _ _ f)).trans rfl, bytesOf_length _ _⟩

theorem ftrunc (f : Fmt.R1) : Statement (.ftrunc f) :=
  ⟨(congrArg lengthOf (Fmt.R1.rootOf_word _ _ f)).trans rfl, bytesOf_length _ _⟩

theorem ftx (f : Fmt.F1) : Statement (.ftx f) :=
  ⟨(congrArg lengthOf (Fmt.F1.rootOf_word _ _ f)).trans rfl, bytesOf_length _ _⟩

theorem fcx (f : Fmt.F1) : Statement (.fcx f) :=
  ⟨(congrArg lengthOf (Fmt.F1.rootOf_word _ _ f)).trans rfl, bytesOf_length _ _⟩

theorem fex (f : Fmt.F1) : Statement (.fex f) :=
  ⟨(congrArg lengthOf (Fmt.F1.rootOf_word _ _ f)).trans rfl, bytesOf_length _ _⟩

theorem fdx (f : Fmt.F1) : Statement (.fdx f) :=
  ⟨(congrArg lengthOf (Fmt.F1.rootOf_word _ _ f)).trans rfl, bytesOf_length _ _⟩

theorem frm (f : Fmt.F1) : Statement (.frm f) :=
  ⟨(congrArg lengthOf (Fmt.F1.rootOf_word _ _ f)).trans rfl, bytesOf_length _ _⟩

theorem fstat (f : Fmt.F1) : Statement (.fstat f) :=
  ⟨(congrArg lengthOf (Fmt.F1.rootOf_word _ _ f)).trans rfl, bytesOf_length _ _⟩

theorem fadd (f : Fmt.FR2) : Statement (.fadd f) :=
  ⟨(congrArg lengthOf (Fmt.FR2.rootOf_word _ _ f)).trans rfl, bytesOf_length _ _⟩

theorem faddL (f : Fmt.FR2L) : Statement (.faddL f) :=
  ⟨(congrArg lengthOf (Fmt.FR2L.rootOf_word _ _ f)).trans rfl, bytesOf_length _ _⟩

theorem fsub (f : Fmt.FR2) : Statement (.fsub f) :=
  ⟨(congrArg lengthOf (Fmt.FR2.rootOf_word _ _ f)).trans rfl, bytesOf_length _ _⟩

theorem fsubL (f : Fmt.FR2L) : Statement (.fsubL f) :=
  ⟨(congrArg lengthOf (Fmt.FR2L.rootOf_word _ _ f)).trans rfl, bytesOf_length _ _⟩

theorem fmul (f : Fmt.FR2) : Statement (.fmul f) :=
  ⟨(congrArg lengthOf (Fmt.FR2.rootOf_word _ _ f)).trans rfl, bytesOf_length _ _⟩

theorem fmulL (f : Fmt.FR2L) : Statement (.fmulL f) :=
  ⟨(congrArg lengthOf (Fmt.FR2L.rootOf_word _ _ f)).trans rfl, bytesOf_length _ _⟩

theorem fdiv (f : Fmt.FR2) : Statement (.fdiv f) :=
  ⟨(congrArg lengthOf (Fmt.FR2.rootOf_word _ _ f)).trans rfl, bytesOf_length _ _⟩

theorem fdivL (f : Fmt.FR2L) : Statement (.fdivL f) :=
  ⟨(congrArg lengthOf (Fmt.FR2L.rootOf_word _ _ f)).trans rfl, bytesOf_length _ _⟩

theorem fcmp (f : Fmt.FR2) : Statement (.fcmp f) :=
  ⟨(congrArg lengthOf (Fmt.FR2.rootOf_word _ _ f)).trans rfl, bytesOf_length _ _⟩

theorem fseq (f : Fmt.FR2) : Statement (.fseq f) :=
  ⟨(congrArg lengthOf (Fmt.FR2.rootOf_word _ _ f)).trans rfl, bytesOf_length _ _⟩

theorem fslt (f : Fmt.FR2) : Statement (.fslt f) :=
  ⟨(congrArg lengthOf (Fmt.FR2.rootOf_word _ _ f)).trans rfl, bytesOf_length _ _⟩

theorem fsne (f : Fmt.FR2) : Statement (.fsne f) :=
  ⟨(congrArg lengthOf (Fmt.FR2.rootOf_word _ _ f)).trans rfl, bytesOf_length _ _⟩

theorem fcmpb (f : Fmt.FR2) : Statement (.fcmpb f) :=
  ⟨(congrArg lengthOf (Fmt.FR2.rootOf_word _ _ f)).trans rfl, bytesOf_length _ _⟩

theorem fma (f : Fmt.FR3) : Statement (.fma f) :=
  ⟨(congrArg lengthOf (Fmt.FR3.rootOf_word _ _ f)).trans rfl, bytesOf_length _ _⟩

theorem fms (f : Fmt.FR3) : Statement (.fms f) :=
  ⟨(congrArg lengthOf (Fmt.FR3.rootOf_word _ _ f)).trans rfl, bytesOf_length _ _⟩

theorem fnma (f : Fmt.FR3) : Statement (.fnma f) :=
  ⟨(congrArg lengthOf (Fmt.FR3.rootOf_word _ _ f)).trans rfl, bytesOf_length _ _⟩

theorem fnms (f : Fmt.FR3) : Statement (.fnms f) :=
  ⟨(congrArg lengthOf (Fmt.FR3.rootOf_word _ _ f)).trans rfl, bytesOf_length _ _⟩

theorem dfabs (f : Fmt.R1) : Statement (.dfabs f) :=
  ⟨(congrArg lengthOf (Fmt.R1.rootOf_word _ _ f)).trans rfl, bytesOf_length _ _⟩

theorem dfneg (f : Fmt.R1) : Statement (.dfneg f) :=
  ⟨(congrArg lengthOf (Fmt.R1.rootOf_word _ _ f)).trans rfl, bytesOf_length _ _⟩

theorem dfman (f : Fmt.R1) : Statement (.dfman f) :=
  ⟨(congrArg lengthOf (Fmt.R1.rootOf_word _ _ f)).trans rfl, bytesOf_length _ _⟩

theorem dfsign (f : Fmt.R1) : Statement (.dfsign f) :=
  ⟨(congrArg lengthOf (Fmt.R1.rootOf_word _ _ f)).trans rfl, bytesOf_length _ _⟩

theorem dftoi (f : Fmt.R1) : Statement (.dftoi f) :=
  ⟨(congrArg lengthOf (Fmt.R1.rootOf_word _ _ f)).trans rfl, bytesOf_length _ _⟩

theorem itodf (f : Fmt.R1) : Statement (.itodf f) :=
  ⟨(congrArg lengthOf (Fmt.R1.rootOf_word _ _ f)).trans rfl, bytesOf_length _ _⟩

theorem dftx (f : Fmt.F1) : Statement (.dftx f) :=
  ⟨(congrArg lengthOf (Fmt.F1.rootOf_word _ _ f)).trans rfl, bytesOf_length _ _⟩

theorem dfcx (f : Fmt.F1) : Statement (.dfcx f) :=
  ⟨(congrArg lengthOf (Fmt.F1.rootOf_word _ _ f)).trans rfl, bytesOf_length _ _⟩

theorem dfex (f : Fmt.F1) : Statement (.dfex f) :=
  ⟨(congrArg lengthOf (Fmt.F1.rootOf_word _ _ f)).trans rfl, bytesOf_length _ _⟩

theorem dfdx (f : Fmt.F1) : Statement (.dfdx f) :=
  ⟨(congrArg lengthOf (Fmt.F1.rootOf_word _ _ f)).trans rfl, bytesOf_length _ _⟩

theorem dfrm (f : Fmt.F1) : Statement (.dfrm f) :=
  ⟨(congrArg lengthOf (Fmt.F1.rootOf_word _ _ f)).trans rfl, bytesOf_length _ _⟩

theorem dfstat (f : Fmt.F1) : Statement (.dfstat f) :=
  ⟨(congrArg lengthOf (Fmt.F1.rootOf_word _ _ f)).trans rfl, bytesOf_length _ _⟩

theorem dfadd (f : Fmt.FR2) : Statement (.dfadd f) :=
  ⟨(congrArg lengthOf (Fmt.FR2.rootOf_word _ _ f)).trans rfl, bytesOf_length _ _⟩

theorem dfaddL (f : Fmt.FR2L) : Statement (.dfaddL f) :=
  ⟨(congrArg lengthOf (Fmt.FR2L.rootOf_word _ _ f)).trans rfl, bytesOf_length _ _⟩

theorem dfsub (f : Fmt.FR2) : Statement (.dfsub f) :=
  ⟨(congrArg lengthOf (Fmt.FR2.rootOf_word _ _ f)).trans rfl, bytesOf_length _ _⟩

theorem dfsubL (f : Fmt.FR2L) : Statement (.dfsubL f) :=
  ⟨(congrArg lengthOf (Fmt.FR2L.rootOf_word _ _ f)).trans rfl, bytesOf_length _ _⟩

theorem dfmul (f : Fmt.FR2) : Statement (.dfmul f) :=
  ⟨(congrArg lengthOf (Fmt.FR2.rootOf_word _ _ f)).trans rfl, bytesOf_length _ _⟩

theorem dfmulL (f : Fmt.FR2L) : Statement (.dfmulL f) :=
  ⟨(congrArg lengthOf (Fmt.FR2L.rootOf_word _ _ f)).trans rfl, bytesOf_length _ _⟩

theorem dfdiv (f : Fmt.FR2) : Statement (.dfdiv f) :=
  ⟨(congrArg lengthOf (Fmt.FR2.rootOf_word _ _ f)).trans rfl, bytesOf_length _ _⟩

theorem dfdivL (f : Fmt.FR2L) : Statement (.dfdivL f) :=
  ⟨(congrArg lengthOf (Fmt.FR2L.rootOf_word _ _ f)).trans rfl, bytesOf_length _ _⟩

theorem dfcmp (f : Fmt.FR2) : Statement (.dfcmp f) :=
  ⟨(congrArg lengthOf (Fmt.FR2.rootOf_word _ _ f)).trans rfl, bytesOf_length _ _⟩

theorem dfcmpb (f : Fmt.FR2) : Statement (.dfcmpb f) :=
  ⟨(congrArg lengthOf (Fmt.FR2.rootOf_word _ _ f)).trans rfl, bytesOf_length _ _⟩

theorem dfma (f : Fmt.R3) : Statement (.dfma f) :=
  ⟨(congrArg lengthOf (Fmt.R3.rootOf_word _ _ f)).trans rfl, bytesOf_length _ _⟩

theorem dfmaL (f : Fmt.FR3L) : Statement (.dfmaL f) :=
  ⟨(congrArg lengthOf (Fmt.FR3L.rootOf_word _ _ f)).trans rfl, bytesOf_length _ _⟩

theorem dfms (f : Fmt.R3) : Statement (.dfms f) :=
  ⟨(congrArg lengthOf (Fmt.R3.rootOf_word _ _ f)).trans rfl, bytesOf_length _ _⟩

theorem dfmsL (f : Fmt.FR3L) : Statement (.dfmsL f) :=
  ⟨(congrArg lengthOf (Fmt.FR3L.rootOf_word _ _ f)).trans rfl, bytesOf_length _ _⟩

theorem dfnma (f : Fmt.R3) : Statement (.dfnma f) :=
  ⟨(congrArg lengthOf (Fmt.R3.rootOf_word _ _ f)).trans rfl, bytesOf_length _ _⟩

theorem dfnmaL (f : Fmt.FR3L) : Statement (.dfnmaL f) :=
  ⟨(congrArg lengthOf (Fmt.FR3L.rootOf_word _ _ f)).trans rfl, bytesOf_length _ _⟩

theorem dfnms (f : Fmt.R3) : Statement (.dfnms f) :=
  ⟨(congrArg lengthOf (Fmt.R3.rootOf_word _ _ f)).trans rfl, bytesOf_length _ _⟩

theorem dfnmsL (f : Fmt.FR3L) : Statement (.dfnmsL f) :=
  ⟨(congrArg lengthOf (Fmt.FR3L.rootOf_word _ _ f)).trans rfl, bytesOf_length _ _⟩

theorem ldb (f : Fmt.LSD) : Statement (.ldb f) :=
  ⟨(congrArg lengthOf (Fmt.LSD.rootOf_word _ f)).trans rfl, bytesOf_length _ _⟩

theorem ldbu (f : Fmt.LSD) : Statement (.ldbu f) :=
  ⟨(congrArg lengthOf (Fmt.LSD.rootOf_word _ f)).trans rfl, bytesOf_length _ _⟩

theorem ldw (f : Fmt.LSD) : Statement (.ldw f) :=
  ⟨(congrArg lengthOf (Fmt.LSD.rootOf_word _ f)).trans rfl, bytesOf_length _ _⟩

theorem ldwu (f : Fmt.LSD) : Statement (.ldwu f) :=
  ⟨(congrArg lengthOf (Fmt.LSD.rootOf_word _ f)).trans rfl, bytesOf_length _ _⟩

theorem ldt (f : Fmt.LSD) : Statement (.ldt f) :=
  ⟨(congrArg lengthOf (Fmt.LSD.rootOf_word _ f)).trans rfl, bytesOf_length _ _⟩

theorem ldtu (f : Fmt.LSD) : Statement (.ldtu f) :=
  ⟨(congrArg lengthOf (Fmt.LSD.rootOf_word _ f)).trans rfl, bytesOf_length _ _⟩

theorem ldo (f : Fmt.LSD) : Statement (.ldo f) :=
  ⟨(congrArg lengthOf (Fmt.LSD.rootOf_word _ f)).trans rfl, bytesOf_length _ _⟩

theorem llal (f : Fmt.LSD) : Statement (.llal f) :=
  ⟨(congrArg lengthOf (Fmt.LSD.rootOf_word _ f)).trans rfl, bytesOf_length _ _⟩

theorem llah (f : Fmt.LSD) : Statement (.llah f) :=
  ⟨(congrArg lengthOf (Fmt.LSD.rootOf_word _ f)).trans rfl, bytesOf_length _ _⟩

theorem stb (f : Fmt.LSD) : Statement (.stb f) :=
  ⟨(congrArg lengthOf (Fmt.LSD.rootOf_word _ f)).trans rfl, bytesOf_length _ _⟩

theorem stw (f : Fmt.LSD) : Statement (.stw f) :=
  ⟨(congrArg lengthOf (Fmt.LSD.rootOf_word _ f)).trans rfl, bytesOf_length _ _⟩

theorem stt (f : Fmt.LSD) : Statement (.stt f) :=
  ⟨(congrArg lengthOf (Fmt.LSD.rootOf_word _ f)).trans rfl, bytesOf_length _ _⟩

theorem sto (f : Fmt.LSD) : Statement (.sto f) :=
  ⟨(congrArg lengthOf (Fmt.LSD.rootOf_word _ f)).trans rfl, bytesOf_length _ _⟩

theorem stoc (f : Fmt.LSD) : Statement (.stoc f) :=
  ⟨(congrArg lengthOf (Fmt.LSD.rootOf_word _ f)).trans rfl, bytesOf_length _ _⟩

theorem ldos (f : Fmt.LSDS) : Statement (.ldos f) :=
  ⟨(congrArg lengthOf (Fmt.LSDS.rootOf_word _ f)).trans rfl, bytesOf_length _ _⟩

theorem stos (f : Fmt.LSDS) : Statement (.stos f) :=
  ⟨(congrArg lengthOf (Fmt.LSDS.rootOf_word _ f)).trans rfl, bytesOf_length _ _⟩

theorem cache (f : Fmt.LSD) : Statement (.cache f) :=
  ⟨(congrArg lengthOf (Fmt.LSD.rootOf_word _ f)).trans rfl, bytesOf_length _ _⟩

theorem ldbx (f : Fmt.LSX) : Statement (.ldbx f) :=
  ⟨(congrArg lengthOf (Fmt.LSX.rootOf_word _ f)).trans rfl, bytesOf_length _ _⟩

theorem ldbux (f : Fmt.LSX) : Statement (.ldbux f) :=
  ⟨(congrArg lengthOf (Fmt.LSX.rootOf_word _ f)).trans rfl, bytesOf_length _ _⟩

theorem ldwx (f : Fmt.LSX) : Statement (.ldwx f) :=
  ⟨(congrArg lengthOf (Fmt.LSX.rootOf_word _ f)).trans rfl, bytesOf_length _ _⟩

theorem ldwux (f : Fmt.LSX) : Statement (.ldwux f) :=
  ⟨(congrArg lengthOf (Fmt.LSX.rootOf_word _ f)).trans rfl, bytesOf_length _ _⟩

theorem ldtx (f : Fmt.LSX) : Statement (.ldtx f) :=
  ⟨(congrArg lengthOf (Fmt.LSX.rootOf_word _ f)).trans rfl, bytesOf_length _ _⟩

theorem ldtux (f : Fmt.LSX) : Statement (.ldtux f) :=
  ⟨(congrArg lengthOf (Fmt.LSX.rootOf_word _ f)).trans rfl, bytesOf_length _ _⟩

theorem ldox (f : Fmt.LSX) : Statement (.ldox f) :=
  ⟨(congrArg lengthOf (Fmt.LSX.rootOf_word _ f)).trans rfl, bytesOf_length _ _⟩

theorem llalx (f : Fmt.LSX) : Statement (.llalx f) :=
  ⟨(congrArg lengthOf (Fmt.LSX.rootOf_word _ f)).trans rfl, bytesOf_length _ _⟩

theorem llahx (f : Fmt.LSX) : Statement (.llahx f) :=
  ⟨(congrArg lengthOf (Fmt.LSX.rootOf_word _ f)).trans rfl, bytesOf_length _ _⟩

theorem stbx (f : Fmt.LSX) : Statement (.stbx f) :=
  ⟨(congrArg lengthOf (Fmt.LSX.rootOf_word _ f)).trans rfl, bytesOf_length _ _⟩

theorem stwx (f : Fmt.LSX) : Statement (.stwx f) :=
  ⟨(congrArg lengthOf (Fmt.LSX.rootOf_word _ f)).trans rfl, bytesOf_length _ _⟩

theorem sttx (f : Fmt.LSX) : Statement (.sttx f) :=
  ⟨(congrArg lengthOf (Fmt.LSX.rootOf_word _ f)).trans rfl, bytesOf_length _ _⟩

theorem stox (f : Fmt.LSX) : Statement (.stox f) :=
  ⟨(congrArg lengthOf (Fmt.LSX.rootOf_word _ f)).trans rfl, bytesOf_length _ _⟩

theorem stocx (f : Fmt.LSX) : Statement (.stocx f) :=
  ⟨(congrArg lengthOf (Fmt.LSX.rootOf_word _ f)).trans rfl, bytesOf_length _ _⟩

theorem cachex (f : Fmt.LSX) : Statement (.cachex f) :=
  ⟨(congrArg lengthOf (Fmt.LSX.rootOf_word _ f)).trans rfl, bytesOf_length _ _⟩

theorem stwl (f : Fmt.LSR) : Statement (.stwl f) :=
  ⟨(congrArg lengthOf (Fmt.LSR.rootOf_word _ f)).trans rfl, bytesOf_length _ _⟩

theorem sttl (f : Fmt.LSR) : Statement (.sttl f) :=
  ⟨(congrArg lengthOf (Fmt.LSR.rootOf_word _ f)).trans rfl, bytesOf_length _ _⟩

theorem stol (f : Fmt.LSR) : Statement (.stol f) :=
  ⟨(congrArg lengthOf (Fmt.LSR.rootOf_word _ f)).trans rfl, bytesOf_length _ _⟩

theorem stocl (f : Fmt.LSR) : Statement (.stocl f) :=
  ⟨(congrArg lengthOf (Fmt.LSR.rootOf_word _ f)).trans rfl, bytesOf_length _ _⟩

theorem lin2phl (f : Fmt.R3) : Statement (.lin2phl f) :=
  ⟨(congrArg lengthOf (Fmt.R3.rootOf_word _ _ f)).trans rfl, bytesOf_length _ _⟩

theorem lin2phh (f : Fmt.R3) : Statement (.lin2phh f) :=
  ⟨(congrArg lengthOf (Fmt.R3.rootOf_word _ _ f)).trans rfl, bytesOf_length _ _⟩

theorem bbc (f : Fmt.BR) : Statement (.bbc f) :=
  ⟨(congrArg lengthOf (Fmt.BR.rootOf_word _ f)).trans rfl, bytesOf_length _ _⟩

theorem bbs (f : Fmt.BR) : Statement (.bbs f) :=
  ⟨(congrArg lengthOf (Fmt.BR.rootOf_word _ f)).trans rfl, bytesOf_length _ _⟩

theorem beq (f : Fmt.BR) : Statement (.beq f) :=
  ⟨(congrArg lengthOf (Fmt.BR.rootOf_word _ f)).trans rfl, bytesOf_length _ _⟩

theorem bne (f : Fmt.BR) : Statement (.bne f) :=
  ⟨(congrArg lengthOf (Fmt.BR.rootOf_word _ f)).trans rfl, bytesOf_length _ _⟩

theorem blt (f : Fmt.BR) : Statement (.blt f) :=
  ⟨(congrArg lengthOf (Fmt.BR.rootOf_word _ f)).trans rfl, bytesOf_length _ _⟩

theorem bge (f : Fmt.BR) : Statement (.bge f) :=
  ⟨(congrArg lengthOf (Fmt.BR.rootOf_word _ f)).trans rfl, bytesOf_length _ _⟩

theorem ble (f : Fmt.BR) : Statement (.ble f) :=
  ⟨(congrArg lengthOf (Fmt.BR.rootOf_word _ f)).trans rfl, bytesOf_length _ _⟩

theorem bgt (f : Fmt.BR) : Statement (.bgt f) :=
  ⟨(congrArg lengthOf (Fmt.BR.rootOf_word _ f)).trans rfl, bytesOf_length _ _⟩

theorem bltu (f : Fmt.BR) : Statement (.bltu f) :=
  ⟨(congrArg lengthOf (Fmt.BR.rootOf_word _ f)).trans rfl, bytesOf_length _ _⟩

theorem bgeu (f : Fmt.BR) : Statement (.bgeu f) :=
  ⟨(congrArg lengthOf (Fmt.BR.rootOf_word _ f)).trans rfl, bytesOf_length _ _⟩

theorem bleu (f : Fmt.BR) : Statement (.bleu f) :=
  ⟨(congrArg lengthOf (Fmt.BR.rootOf_word _ f)).trans rfl, bytesOf_length _ _⟩

theorem bgtu (f : Fmt.BR) : Statement (.bgtu f) :=
  ⟨(congrArg lengthOf (Fmt.BR.rootOf_word _ f)).trans rfl, bytesOf_length _ _⟩

theorem beqz (f : Fmt.BZ) : Statement (.beqz f) :=
  ⟨(congrArg lengthOf (Fmt.BZ.rootOf_word _ f)).trans rfl, bytesOf_length _ _⟩

theorem bnez (f : Fmt.BZ) : Statement (.bnez f) :=
  ⟨(congrArg lengthOf (Fmt.BZ.rootOf_word _ f)).trans rfl, bytesOf_length _ _⟩

theorem jmp (f : Fmt.JMP) : Statement (.jmp f) :=
  ⟨(congrArg lengthOf (Fmt.JMP.rootOf_word _ f)).trans rfl, bytesOf_length _ _⟩

theorem bra (f : Fmt.JMP) : Statement (.bra f) :=
  ⟨(congrArg lengthOf (Fmt.JMP.rootOf_word _ f)).trans rfl, bytesOf_length _ _⟩

theorem bsr (f : Fmt.JMP) : Statement (.bsr f) :=
  ⟨(congrArg lengthOf (Fmt.JMP.rootOf_word _ f)).trans rfl, bytesOf_length _ _⟩

theorem jsr (f : Fmt.JMP) : Statement (.jsr f) :=
  ⟨(congrArg lengthOf (Fmt.JMP.rootOf_word _ f)).trans rfl, bytesOf_length _ _⟩

theorem dbra (f : Fmt.JMP) : Statement (.dbra f) :=
  ⟨(congrArg lengthOf (Fmt.JMP.rootOf_word _ f)).trans rfl, bytesOf_length _ _⟩

theorem dbbc (f : Fmt.BR) : Statement (.dbbc f) :=
  ⟨(congrArg lengthOf (Fmt.BR.rootOf_word _ f)).trans rfl, bytesOf_length _ _⟩

theorem dbbs (f : Fmt.BR) : Statement (.dbbs f) :=
  ⟨(congrArg lengthOf (Fmt.BR.rootOf_word _ f)).trans rfl, bytesOf_length _ _⟩

theorem dbeq (f : Fmt.BR) : Statement (.dbeq f) :=
  ⟨(congrArg lengthOf (Fmt.BR.rootOf_word _ f)).trans rfl, bytesOf_length _ _⟩

theorem dbne (f : Fmt.BR) : Statement (.dbne f) :=
  ⟨(congrArg lengthOf (Fmt.BR.rootOf_word _ f)).trans rfl, bytesOf_length _ _⟩

theorem dblt (f : Fmt.BR) : Statement (.dblt f) :=
  ⟨(congrArg lengthOf (Fmt.BR.rootOf_word _ f)).trans rfl, bytesOf_length _ _⟩

theorem dbge (f : Fmt.BR) : Statement (.dbge f) :=
  ⟨(congrArg lengthOf (Fmt.BR.rootOf_word _ f)).trans rfl, bytesOf_length _ _⟩

theorem dble (f : Fmt.BR) : Statement (.dble f) :=
  ⟨(congrArg lengthOf (Fmt.BR.rootOf_word _ f)).trans rfl, bytesOf_length _ _⟩

theorem dbgt (f : Fmt.BR) : Statement (.dbgt f) :=
  ⟨(congrArg lengthOf (Fmt.BR.rootOf_word _ f)).trans rfl, bytesOf_length _ _⟩

theorem dbltu (f : Fmt.BR) : Statement (.dbltu f) :=
  ⟨(congrArg lengthOf (Fmt.BR.rootOf_word _ f)).trans rfl, bytesOf_length _ _⟩

theorem dbgeu (f : Fmt.BR) : Statement (.dbgeu f) :=
  ⟨(congrArg lengthOf (Fmt.BR.rootOf_word _ f)).trans rfl, bytesOf_length _ _⟩

theorem dbleu (f : Fmt.BR) : Statement (.dbleu f) :=
  ⟨(congrArg lengthOf (Fmt.BR.rootOf_word _ f)).trans rfl, bytesOf_length _ _⟩

theorem dbgtu (f : Fmt.BR) : Statement (.dbgtu f) :=
  ⟨(congrArg lengthOf (Fmt.BR.rootOf_word _ f)).trans rfl, bytesOf_length _ _⟩

theorem jgate (f : Fmt.JGATE) : Statement (.jgate f) :=
  ⟨(congrArg lengthOf (Fmt.JGATE.rootOf_word _ f)).trans rfl, bytesOf_length _ _⟩

theorem rts (f : Fmt.RTS) : Statement (.rts f) :=
  ⟨(congrArg lengthOf (Fmt.RTS.rootOf_word _ f)).trans rfl, bytesOf_length _ _⟩

theorem nop (f : Fmt.NOP) : Statement (.nop f) :=
  ⟨(congrArg lengthOf (Fmt.NOP.rootOf_word _ f)).trans rfl, bytesOf_length _ _⟩

theorem csrrd (f : Fmt.CSR) : Statement (.csrrd f) :=
  ⟨(congrArg lengthOf (Fmt.CSR.rootOf_word _ _ f)).trans rfl, bytesOf_length _ _⟩

theorem csrrw (f : Fmt.CSR) : Statement (.csrrw f) :=
  ⟨(congrArg lengthOf (Fmt.CSR.rootOf_word _ _ f)).trans rfl, bytesOf_length _ _⟩

theorem csrrs (f : Fmt.CSR) : Statement (.csrrs f) :=
  ⟨(congrArg lengthOf (Fmt.CSR.rootOf_word _ _ f)).trans rfl, bytesOf_length _ _⟩

theorem csrrc (f : Fmt.CSR) : Statement (.csrrc f) :=
  ⟨(congrArg lengthOf (Fmt.CSR.rootOf_word _ _ f)).trans rfl, bytesOf_length _ _⟩

theorem brk (f : Fmt.S16) : Statement (.brk f) :=
  ⟨(congrArg lengthOf (Fmt.S16.rootOf_word _ f)).trans rfl, bytesOf_length _ _⟩

theorem sys (f : Fmt.SYS) : Statement (.sys f) :=
  ⟨(congrArg lengthOf (Fmt.SYS.rootOf_word _ f)).trans rfl, bytesOf_length _ _⟩

theorem int (f : Fmt.INT) : Statement (.int f) :=
  ⟨(congrArg lengthOf (Fmt.INT.rootOf_word _ f)).trans rfl, bytesOf_length _ _⟩

theorem di (f : Fmt.OSR2) : Statement (.di f) :=
  ⟨(congrArg lengthOf (Fmt.OSR2.rootOf_word _ _ f)).trans rfl, bytesOf_length _ _⟩

theorem pfi (f : Fmt.OSR2) : Statement (.pfi f) :=
  ⟨(congrArg lengthOf (Fmt.OSR2.rootOf_word _ _ f)).trans rfl, bytesOf_length _ _⟩

theorem sei (f : Fmt.OSR2) : Statement (.sei f) :=
  ⟨(congrArg lengthOf (Fmt.OSR2.rootOf_word _ _ f)).trans rfl, bytesOf_length _ _⟩

theorem wfi (f : Fmt.S16) : Statement (.wfi f) :=
  ⟨(congrArg lengthOf (Fmt.S16.rootOf_word _ f)).trans rfl, bytesOf_length _ _⟩

theorem memdb (f : Fmt.S16) : Statement (.memdb f) :=
  ⟨(congrArg lengthOf (Fmt.S16.rootOf_word _ f)).trans rfl, bytesOf_length _ _⟩

theorem memsb (f : Fmt.S16) : Statement (.memsb f) :=
  ⟨(congrArg lengthOf (Fmt.S16.rootOf_word _ f)).trans rfl, bytesOf_length _ _⟩

theorem sync (f : Fmt.S16) : Statement (.sync f) :=
  ⟨(congrArg lengthOf (Fmt.S16.rootOf_word _ f)).trans rfl, bytesOf_length _ _⟩

theorem mfsel (f : Fmt.OSR2) : Statement (.mfsel f) :=
  ⟨(congrArg lengthOf (Fmt.OSR2.rootOf_word _ _ f)).trans rfl, bytesOf_length _ _⟩

theorem mtsel (f : Fmt.OSR2) : Statement (.mtsel f) :=
  ⟨(congrArg lengthOf (Fmt.OSR2.rootOf_word _ _ f)).trans rfl, bytesOf_length _ _⟩

theorem pushq (f : Fmt.OSR2) : Statement (.pushq f) :=
  ⟨(congrArg lengthOf (Fmt.OSR2.rootOf_word _ _ f)).trans rfl, bytesOf_length _ _⟩

theorem popq (f : Fmt.OSR2) : Statement (.popq f) :=
  ⟨(congrArg lengthOf (Fmt.OSR2.rootOf_word _ _ f)).trans rfl, bytesOf_length _ _⟩

theorem peekq (f : Fmt.OSR2) : Statement (.peekq f) :=
  ⟨(congrArg lengthOf (Fmt.OSR2.rootOf_word _ _ f)).trans rfl, bytesOf_length _ _⟩

theorem statq (f : Fmt.OSR2) : Statement (.statq f) :=
  ⟨(congrArg lengthOf (Fmt.OSR2.rootOf_word _ _ f)).trans rfl, bytesOf_length _ _⟩

theorem resetq (f : Fmt.OSR2) : Statement (.resetq f) :=
  ⟨(congrArg lengthOf (Fmt.OSR2.rootOf_word _ _ f)).trans rfl, bytesOf_length _ _⟩

theorem rex (f : Fmt.OSR2) : Statement (.rex f) :=
  ⟨(congrArg lengthOf (Fmt.OSR2.rootOf_word _ _ f)).trans rfl, bytesOf_length _ _⟩

theorem rte (f : Fmt.OSR2) : Statement (.rte f) :=
  ⟨(congrArg lengthOf (Fmt.OSR2.rootOf_word _ _ f)).trans rfl, bytesOf_length _ _⟩

theorem tlbrw (f : Fmt.OSR2) : Statement (.tlbrw f) :=
  ⟨(congrArg lengthOf (Fmt.OSR2.rootOf_word _ _ f)).trans rfl, bytesOf_length _ _⟩

theorem v2bits (f : Fmt.R3) : Statement (.v2bits f) :=
  ⟨(congrArg lengthOf (Fmt.R3.rootOf_word _ _ f)).trans rfl, bytesOf_length _ _⟩

theorem vbits2vC (f : Fmt.R3) : Statement (.vbits2vC f) :=
  ⟨(congrArg lengthOf (Fmt.R3.rootOf_word _ _ f)).trans rfl, bytesOf_length _ _⟩

theorem vbits2v (f : Fmt.R3) : Statement (.vbits2v f) :=
  ⟨(congrArg lengthOf (Fmt.R3.rootOf_word _ _ f)).trans rfl, bytesOf_length _ _⟩

theorem vgidx (f : Fmt.R3) : Statement (.vgidx f) :=
  ⟨(congrArg lengthOf (Fmt.R3.rootOf_word _ _ f)).trans rfl, bytesOf_length _ _⟩

theorem vcmprss (f : Fmt.R1) : Statement (.vcmprss f) :=
  ⟨(congrArg lengthOf (Fmt.R1.rootOf_word _ _ f)).trans rfl, bytesOf_length _ _⟩

theorem veins (f : Fmt.R3) : Statement (.veins f) :=
  ⟨(congrArg lengthOf (Fmt.R3.rootOf_word _ _ f)).trans rfl, bytesOf_length _ _⟩

theorem vex (f : Fmt.R3) : Statement (.vex f) :=
  ⟨(congrArg lengthOf (Fmt.R3.rootOf_word _ _ f)).trans rfl, bytesOf_length _ _⟩

theorem vscan (f : Fmt.R1) : Statement (.vscan f) :=
  ⟨(congrArg lengthOf (Fmt.R1.rootOf_word _ _ f)).trans rfl, bytesOf_length _ _⟩

theorem vsllv (f : Fmt.R3) : Statement (.vsllv f) :=
  ⟨(congrArg lengthOf (Fmt.R3.rootOf_word _ _ f)).trans rfl, bytesOf_length _ _⟩

theorem vsrlv (f : Fmt.R3) : Statement (.vsrlv f) :=
  ⟨(congrArg lengthOf (Fmt.R3.rootOf_word _ _ f)).trans rfl, bytesOf_length _ _⟩

theorem mtvm (f : Fmt.VM) : Statement (.mtvm f) :=
  ⟨(congrArg lengthOf (Fmt.VM.rootOf_word _ _ f)).trans rfl, bytesOf_length _ _⟩

theorem mfvm (f : Fmt.VM) : Statement (.mfvm f) :=
  ⟨(congrArg lengthOf (Fmt.VM.rootOf_word _ _ f)).trans rfl, bytesOf_length _ _⟩

theorem mtvl (f : Fmt.VM) : Statement (.mtvl f) :=
  ⟨(congrArg lengthOf (Fmt.VM.rootOf_word _ _ f)).trans rfl, bytesOf_length _ _⟩

theorem mfvl (f : Fmt.VM) : Statement (.mfvl f) :=
  ⟨(congrArg lengthOf (Fmt.VM.rootOf_word _ _ f)).trans rfl, bytesOf_length _ _⟩

theorem vmadd (f : Fmt.VM) : Statement (.vmadd f) :=
  ⟨(congrArg lengthOf (Fmt.VM.rootOf_word _ _ f)).trans rfl, bytesOf_length _ _⟩

theorem vmsub (f : Fmt.VM) : Statement (.vmsub f) :=
  ⟨(congrArg lengthOf (Fmt.VM.rootOf_word _ _ f)).trans rfl, bytesOf_length _ _⟩

theorem vmand (f : Fmt.VM) : Statement (.vmand f) :=
  ⟨(congrArg lengthOf (Fmt.VM.rootOf_word _ _ f)).trans rfl, bytesOf_length _ _⟩

theorem vmor (f : Fmt.VM) : Statement (.vmor f) :=
  ⟨(congrArg lengthOf (Fmt.VM.rootOf_word _ _ f)).trans rfl, bytesOf_length _ _⟩

theorem vmxor (f : Fmt.VM) : Statement (.vmxor f) :=
  ⟨(congrArg lengthOf (Fmt.VM.rootOf_word _ _ f)).trans rfl, bytesOf_length _ _⟩

theorem vmcntpop (f : Fmt.VM) : Statement (.vmcntpop f) :=
  ⟨(congrArg lengthOf (Fmt.VM.rootOf_word _ _ f)).trans rfl, bytesOf_length _ _⟩

theorem vmfirst (f : Fmt.VM) : Statement (.vmfirst f) :=
  ⟨(congrArg lengthOf (Fmt.VM.rootOf_word _ _ f)).trans rfl, bytesOf_length _ _⟩

theorem vmlast (f : Fmt.VM) : Statement (.vmlast f) :=
  ⟨(congrArg lengthOf (Fmt.VM.rootOf_word _ _ f)).trans rfl, bytesOf_length _ _⟩

theorem vmsll (f : Fmt.VMS) : Statement (.vmsll f) :=
  ⟨(congrArg lengthOf (Fmt.VMS.rootOf_word _ _ f)).trans rfl, bytesOf_length _ _⟩

theorem vmsrl (f : Fmt.VMS) : Statement (.vmsrl f) :=
  ⟨(congrArg lengthOf (Fmt.VMS.rootOf_word _ _ f)).trans rfl, bytesOf_length _ _⟩

theorem vmfill (f : Fmt.VMF) : Statement (.vmfill f) :=
  ⟨(congrArg lengthOf (Fmt.VMF.rootOf_word _ f)).trans rfl, bytesOf_length _ _⟩

theorem aes64ds (f : Fmt.R3) : Statement (.aes64ds f) :=
  ⟨(congrArg lengthOf (Fmt.R3.rootOf_word _ _ f)).trans rfl, bytesOf_length _ _⟩

theorem aes64dsm (f : Fmt.R3) : Statement (.aes64dsm f) :=
  ⟨(congrArg lengthOf (Fmt.R3.rootOf_word _ _ f)).trans rfl, bytesOf_length _ _⟩

theorem aes64es (f : Fmt.R3) : Statement (.aes64es f) :=
  ⟨(congrArg lengthOf (Fmt.R3.rootOf_word _ _ f)).trans rfl, bytesOf_length _ _⟩

theorem aes64esm (f : Fmt.R3) : Statement (.aes64esm f) :=
  ⟨(congrArg lengthOf (Fmt.R3.rootOf_word _ _ f)).trans rfl, bytesOf_length _ _⟩

theorem sha256sig0 (f : Fmt.R1) : Statement (.sha256sig0 f) :=
  ⟨(congrArg lengthOf (Fmt.R1.rootOf_word _ _ f)).trans rfl, bytesOf_length _ _⟩

theorem sha256sig1 (f : Fmt.R1) : Statement (.sha256sig1 f) :=
  ⟨(congrArg lengthOf (Fmt.R1.rootOf_word _ _ f)).trans rfl, bytesOf_length _ _⟩

theorem sha256sum0 (f : Fmt.R1) : Statement (.sha256sum0 f) :=
  ⟨(congrArg lengthOf (Fmt.R1.rootOf_word _ _ f)).trans rfl, bytesOf_length _ _⟩

theorem sha256sum1 (f : Fmt.R1) : Statement (.sha256sum1 f) :=
  ⟨(congrArg lengthOf (Fmt.R1.rootOf_word _ _ f)).trans rfl, bytesOf_length _ _⟩

theorem sha512sig0 (f : Fmt.R1) : Statement (.sha512sig0 f) :=
  ⟨(congrArg lengthOf (Fmt.R1.rootOf_word _ _ f)).trans rfl, bytesOf_length _ _⟩

theorem sha512sig1 (f : Fmt.R1) : Statement (.sha512sig1 f) :=
  ⟨(congrArg lengthOf (Fmt.R1.rootOf_word _ _ f)).trans rfl, bytesOf_length _ _⟩

theorem sha512sum0 (f : Fmt.R1) : Statement (.sha512sum0 f) :=
  ⟨(congrArg lengthOf (Fmt.R1.rootOf_word _ _ f)).trans rfl, bytesOf_length _ _⟩

theorem sha512sum1 (f : Fmt.R1) : Statement (.sha512sum1 f) :=
  ⟨(congrArg lengthOf (Fmt.R1.rootOf_word _ _ f)).trans rfl, bytesOf_length _ _⟩

theorem sm3p0 (f : Fmt.R1) : Statement (.sm3p0 f) :=
  ⟨(congrArg lengthOf (Fmt.R1.rootOf_word _ _ f)).trans rfl, bytesOf_length _ _⟩

theorem sm3p1 (f : Fmt.R1) : Statement (.sm3p1 f) :=
  ⟨(congrArg lengthOf (Fmt.R1.rootOf_word _ _ f)).trans rfl, bytesOf_length _ _⟩

theorem sm4ed (f : Fmt.R3P) : Statement (.sm4ed f) :=
  ⟨(congrArg lengthOf (Fmt.R3P.rootOf_word _ f)).trans rfl, bytesOf_length _ _⟩

theorem sm4ks (f : Fmt.R3P) : Statement (.sm4ks f) :=
  ⟨(congrArg lengthOf (Fmt.R3P.rootOf_word _ f)).trans rfl, bytesOf_length _ _⟩

theorem nnaTrig (f : Fmt.R1) : Statement (.nnaTrig f) :=
  ⟨(congrArg lengthOf (Fmt.R1.rootOf_word _ _ f)).trans rfl, bytesOf_length _ _⟩

theorem nnaStat (f : Fmt.R1) : Statement (.nnaStat f) :=
  ⟨(congrArg lengthOf (Fmt.R1.rootOf_word _ _ f)).trans rfl, bytesOf_length _ _⟩

theorem nnaMfact (f : Fmt.R1) : Statement (.nnaMfact f) :=
  ⟨(congrArg lengthOf (Fmt.R1.rootOf_word _ _ f)).trans rfl, bytesOf_length _ _⟩

theorem nnaMtwt (f : Fmt.R3) : Statement (.nnaMtwt f) :=
  ⟨(congrArg lengthOf (Fmt.R3.rootOf_word _ _ f)).trans rfl, bytesOf_length _ _⟩

theorem nnaMtin (f : Fmt.R3) : Statement (.nnaMtin f) :=
  ⟨(congrArg lengthOf (Fmt.R3.rootOf_word _ _ f)).trans rfl, bytesOf_length _ _⟩

theorem nnaMtbias (f : Fmt.R3) : Statement (.nnaMtbias f) :=
  ⟨(congrArg lengthOf (Fmt.R3.rootOf_word _ _ f)).trans rfl, bytesOf_length _ _⟩

theorem nnaMtfb (f : Fmt.R3) : Statement (.nnaMtfb f) :=
  ⟨(congrArg lengthOf (Fmt.R3.rootOf_word _ _ f)).trans rfl, bytesOf_length _ _⟩

theorem nnaMtmc (f : Fmt.R3) : Statement (.nnaMtmc f) :=
  ⟨(congrArg lengthOf (Fmt.R3.rootOf_word _ _ f)).trans rfl, bytesOf_length _ _⟩

theorem nnaMtbc (f : Fmt.R3) : Statement (.nnaMtbc f) :=
  ⟨(congrArg lengthOf (Fmt.R3.rootOf_word _ _ f)).trans rfl, bytesOf_length _ _⟩

theorem blend (f : Fmt.R3P) : Statement (.blend f) :=
  ⟨(congrArg lengthOf (Fmt.R3P.rootOf_word _ f)).trans rfl, bytesOf_length _ _⟩

theorem clip (f : Fmt.R1) : Statement (.clip f) :=
  ⟨(congrArg lengthOf (Fmt.R1.rootOf_word _ _ f)).trans rfl, bytesOf_length _ _⟩

theorem transform (f : Fmt.R1) : Statement (.transform f) :=
  ⟨(congrArg lengthOf (Fmt.R1.rootOf_word _ _ f)).trans rfl, bytesOf_length _ _⟩

theorem rwCoeff (f : Fmt.R3) : Statement (.rwCoeff f) :=
  ⟨(congrArg lengthOf (Fmt.R3.rootOf_word _ _ f)).trans rfl, bytesOf_length _ _⟩

end Sys2Proof.Laws.RootLength
end

