-- ==== Sys2Proof/Tests/Slice0.lean ====
section
/-! SUPPORT. Tests of the model: each check of WellFormed refuses an ill-formed term, a word of every constructor
written out from the tables of the spec decodes to it, single steps give the results that the spec's rules and its
worked vectors give, and each statement's hypotheses are met by a concrete state. -/

namespace Sys2Proof.Tests

open Sys2Proof Sys2Proof.Machine

/-! ### Helpers -/

/-- Every word decodes to its instruction, and the instruction's own encoding is the word. -/
noncomputable def decodesAll (l : List (Nat × Nat × Instr)) : Bool :=
  l.all fun e => decide (decodeTableWord e.1 e.2.1 = some e.2.2) && (encodeWord e.2.2).toNat == e.2.1

/-- Values in registers. -/
def put (s : State) (l : List (RegNum × Word)) : State := l.foldl (fun t e => t.setReg e.1 e.2) s

/-- One step at s with this word where it fetches; whether it goes on to a state with this property. -/
noncomputable def stepsTo (s : State) (nbits w : Nat) (p : State → Bool) : Bool :=
  match step (s.withFetchWord nbits w) with
  | .next t => p t
  | _ => false

/-- Each word, run after reset with these values in registers, leaves this value in this register and goes on to the
next instruction. -/
noncomputable def resultsAll (l : List (Nat × Nat × List (RegNum × Word) × RegNum × Word)) : Bool :=
  l.all fun e => stepsTo (put State.reset e.2.2.1) e.1 e.2.1 fun t =>
    t.reg e.2.2.2.1 == e.2.2.2.2 && t.ip == nextIp State.reset.ip (e.1 / 8)

/-! ### States -/

/-- A segment of the whole address space with every right (20_memory R165, R169). -/
def flat : Descriptor := ⟨0, 0, BitVec.allOnes 64, 0x8700000000000000⟩

/-- Reset, and every descriptor cache loaded with `flat`. -/
def plain : State :=
  { State.reset with
    segs := Vector.replicate 7 ⟨0, some flat⟩
    sys := Vector.replicate 3 ⟨0, some flat⟩
    csDesc := some flat }

/-- The same in user mode, with interrupts open. -/
def user : State := { plain with mode := { plain.mode with pmStack := 0 } }

/-- The same in machine mode with protection on. -/
def guarded : State := { plain with csr := { plain.csr with cr0 := 1 } }

/-- A vector register that begins with these elements. -/
def elements (l : List Word) : Vector Word 64 := Vector.ofFn fun i => l[i.val]?.getD 0

/-- VL = 4, m0 all ones, m1 = 5, m2 = $A, v1 = (1, 2, 3, 4), v2 = (10, 20, 30, 40), v3 all 9. -/
def vectors : State :=
  { plain with
    vl := 4
    masks := #v[BitVec.allOnes 64, 5, 0xA, 0, 0, 0, 0, 0]
    vregs := ((plain.vregs.set 1 (elements [1, 2, 3, 4])).set 2 (elements [10, 20, 30, 40])).set 3
      (Vector.replicate 64 9) }

/-- `vectors` on a platform where no memory answers at the address of element 2. -/
def faulty : State := { vectors with config := { vectors.config with platformMap := [⟨240, 247, .none⟩] } }

/-- The first n elements of a vector register. -/
def firstOf (s : State) (r : RegNum) (n : Nat) : List Word := (List.range n).map (s.vec r)

/-! ### Well-formedness: each check refuses (93 U30, U38; 48 R891, R894) -/

theorem test_wf_mask_role : WellFormed.check (.add ⟨0, 3, 1, 2, 0, 4, 0, 0, 1⟩) = some .noRoleField ∧
    WellFormed.check (.add ⟨0, 3, 1, 2, 0, 4, 0, 1, 0⟩) = some .noRoleField ∧
    WellFormed.check (.add ⟨1, 3, 1, 2, 0, 4, 0, 1, 1⟩) = none := by decide

theorem test_wf_pad : WellFormed.check (.sub ⟨0, 3, 1, 2, 0, 4, 0, 0, 0⟩) = some .noRoleField ∧
    WellFormed.check (.nop ⟨0, 1⟩) = some .noRoleField := by decide

theorem test_wf_scalar_operand :
    WellFormed.check (.add ⟨0, 3, 1, 2, 1, 4, 0, 0, 0⟩) = some .vectorOperandInScalar ∧
    WellFormed.check (.addS ⟨0, 3, 1, 2, 1, 0, 0⟩) = some .vectorOperandInScalar := by decide

theorem test_wf_not_vector_operand :
    WellFormed.check (.beq ⟨0, 8, 1, 2, 1, 7, 1⟩) = some .vectorOperandInScalar ∧
    WellFormed.check (.mfsel ⟨3, 0, 4, 1, 0, 0, 0⟩) = some .vectorOperandInScalar := by decide

theorem test_wf_vector_form : WellFormed.check (.clip ⟨1, 3, 1, 0, 0⟩) = some .vectorFormRefused := by decide

theorem test_wf_scalar_form :
    WellFormed.check (.vgidx ⟨0, 3, 1, 2, 0, 0, 0, 0, 0⟩) = some .scalarFormRefused := by decide

theorem test_wf_immediate_vector :
    WellFormed.check (.vex ⟨0, 3, 1, 2, 2, 0, 0, 0, 0⟩) = some .immediateVectorOperand := by decide

theorem test_wf_link : WellFormed.check (.beq ⟨3, 8, 1, 2, 0, 7, 1⟩) = some .reservedLink ∧
    WellFormed.check (.rts ⟨0, 0, 0⟩) = some .reservedLink ∧
    WellFormed.check (.dbra ⟨3, 0, 7, 0⟩) = some .reservedLink ∧ WellFormed.check (.dbra ⟨1, 0, 7, 0⟩) = some .noRoleField ∧
    WellFormed.check (.dbra ⟨0, 0, 7, 0⟩) = none := by decide

/-- z of a vector CHK and the mask of VEX, against the mask of a vector ADD. -/
theorem test_wf_mask_without_role : WellFormed.check (.chk ⟨1, 0, 1, 2, 0, 4, 0, 1, 0⟩) = some .noRoleField ∧
    WellFormed.check (.vex ⟨1, 3, 1, 2, 0, 0, 0, 0, 1⟩) = some .noRoleField ∧
    WellFormed.check (.add ⟨1, 3, 1, 2, 0, 4, 0, 1, 1⟩) = none := by decide

theorem test_wf_mode : WellFormed.check (.rex ⟨3, 0, 0, 0, 0, 0, 0⟩) = some .reservedMode := by decide

theorem test_wf_spelling : WellFormed.check (.addi ⟨0, 3, 0, 7⟩) = some .spelling ∧
    WellFormed.check (.ldi ⟨0, 3, 1, 7⟩) = some .spelling ∧
    WellFormed.check (.slei ⟨0, 3, 1, 0x3FF⟩) = some .spelling := by decide

/-! ### A word of every constructor, from the encoding tables of the spec, and its encoding -/

/-- 30 R264 to R267. -/
theorem test_decode_prefixes : decodesAll [
    (16, 0x6946, .exi7 ⟨1, 0x34⟩),
    (32, 0x4A246947, .exi23 ⟨1, 0x251234⟩),
    (48, 0xB4792DE14B7E, .exi41 ⟨1, 0x5a3c96f0a5, 2⟩),
    (64, 0xB4792DE14A246949, .exi55 ⟨1, 0x5a3c96f0a51234⟩)] = true := by decide

/-- 40 R306 to R357. -/
theorem test_decode_integer_1 : decodesAll [
    (48, 0x097D964AC702, .add ⟨1, 0x23, 0x15, 0x32, 2, 0x2c, 3, 1, 5⟩),
    (32, 0xB64AC719, .addS ⟨1, 0x23, 0x15, 0x32, 0, 1, 5⟩),
    (32, 0x9A6AC704, .addi ⟨1, 0x23, 0x15, 0x4d3⟩),
    (48, 0xBB4792CAC7D4, .addil ⟨1, 0x23, 0x15, 0x5a3c96, 1, 5⟩),
    (32, 0x9A604704, .ldi ⟨1, 0x23, 0, 0x4d3⟩),
    (48, 0x0B7D964AC702, .sub ⟨1, 0x23, 0x15, 0x32, 2, 0x2c, 3, 1, 5⟩),
    (32, 0x9A6AC705, .subfi ⟨1, 0x23, 0x15, 0x4d3⟩),
    (48, 0x0B7D96404702, .neg ⟨1, 0x23, 0, 0x32, 2, 0x2c, 3, 1, 5⟩),
    (48, 0x0D7D964AC702, .mul ⟨1, 0x23, 0x15, 0x32, 2, 0x2c, 3, 1, 5⟩),
    (48, 0x1F7D964AC702, .mulh ⟨1, 0x23, 0x15, 0x32, 2, 0x2c, 3, 1, 5⟩),
    (32, 0x9A6AC706, .muli ⟨1, 0x23, 0x15, 0x4d3⟩),
    (48, 0x2B7D964AC702, .mulf ⟨1, 0x23, 0x15, 0x32, 2, 0x2c, 3, 1, 5⟩)] = true := by decide

/-- 40 R306 to R357. -/
theorem test_decode_integer_2 : decodesAll [
    (32, 0x9A6AC715, .mulfi ⟨1, 0x23, 0x15, 0x4d3⟩),
    (48, 0x217D964AC702, .div ⟨1, 0x23, 0x15, 0x32, 2, 0x2c, 3, 1, 5⟩),
    (32, 0x9A6AC740, .divi ⟨1, 0x23, 0x15, 0x4d3⟩),
    (48, 0xBB4792CAC742, .divil ⟨1, 0x23, 0x15, 0x5a3c96, 1, 5⟩),
    (48, 0x237D964AC702, .divu ⟨1, 0x23, 0x15, 0x32, 2, 0x2c, 3, 1, 5⟩),
    (32, 0x9A6AC74F, .divui ⟨1, 0x23, 0x15, 0x4d3⟩),
    (48, 0x257D964AC702, .divsu ⟨1, 0x23, 0x15, 0x32, 2, 0x2c, 3, 1, 5⟩),
    (48, 0x297D964AC702, .ptrdif ⟨1, 0x23, 0x15, 0x32, 2, 0x2c, 3, 1, 5⟩),
    (48, 0x2960164AC702, .dif ⟨1, 0x23, 0x15, 0x32, 2, 0, 0, 1, 5⟩),
    (48, 0x296016404702, .abs ⟨1, 0x23, 0, 0x32, 2, 0, 0, 1, 5⟩),
    (48, 0x517D964AC702, .min ⟨1, 0x23, 0x15, 0x32, 2, 0x2c, 3, 1, 5⟩),
    (48, 0x537D964AC702, .max ⟨1, 0x23, 0x15, 0x32, 2, 0x2c, 3, 1, 5⟩)] = true := by decide

/-- 40 R306 to R357. -/
theorem test_decode_integer_3 : decodesAll [
    (48, 0x557D964AC702, .cmp ⟨1, 0x23, 0x15, 0x32, 2, 0x2c, 3, 1, 5⟩),
    (32, 0x9A6AC750, .cmpi ⟨1, 0x23, 0x15, 0x4d3⟩),
    (48, 0xBB4792CAC7D0, .cmpil ⟨1, 0x23, 0x15, 0x5a3c96, 1, 5⟩),
    (48, 0x577D964AC702, .cmpu ⟨1, 0x23, 0x15, 0x32, 2, 0x2c, 3, 1, 5⟩),
    (32, 0x9A6AC760, .cmpui ⟨1, 0x23, 0x15, 0x4d3⟩),
    (48, 0x337D964A8B02, .chk ⟨1, 5, 0x15, 0x32, 2, 0x2c, 3, 1, 5⟩),
    (48, 0x96B4764AEB45, .chki ⟨1, 5, 6, 0x15, 0x32, 2, 0x4b5a3⟩),
    (48, 0x5B7D964AC702, .cmovnz ⟨1, 0x23, 0x15, 0x32, 2, 0x2c, 3, 1, 5⟩),
    (32, 0x000AC741, .cpuid ⟨1, 0x23, 0x15, 0⟩),
    (48, 0x5B70102AC602, .mkbool ⟨0, 0x23, 0x15, 1, 2, 0, 2, 1, 5⟩),
    (48, 0x5B70300AC702, .not ⟨1, 0x23, 0x15, 0, 2, 1, 2, 1, 5⟩),
    (48, 0x4D7D964AC702, .seq ⟨1, 0x23, 0x15, 0x32, 2, 0x2c, 3, 1, 5⟩)] = true := by decide

/-- 40 R306 to R357. -/
theorem test_decode_integer_4 : decodesAll [
    (32, 0x9A6AC716, .seqi ⟨1, 0x23, 0x15, 0x4d3⟩),
    (48, 0xBB4792CAC7D6, .seqil ⟨1, 0x23, 0x15, 0x5a3c96, 1, 5⟩),
    (48, 0x4F7D964AC702, .sne ⟨1, 0x23, 0x15, 0x32, 2, 0x2c, 3, 1, 5⟩),
    (32, 0x9A6AC717, .snei ⟨1, 0x23, 0x15, 0x4d3⟩),
    (48, 0xBB4792CAC7D7, .sneil ⟨1, 0x23, 0x15, 0x5a3c96, 1, 5⟩),
    (48, 0x417D964AC702, .slt ⟨1, 0x23, 0x15, 0x32, 2, 0x2c, 3, 1, 5⟩),
    (32, 0x9A6AC718, .slti ⟨1, 0x23, 0x15, 0x4d3⟩),
    (48, 0xBB4792CAC7D3, .sltil ⟨1, 0x23, 0x15, 0x5a3c96, 1, 5⟩),
    (48, 0x457D964AC702, .sltu ⟨1, 0x23, 0x15, 0x32, 2, 0x2c, 3, 1, 5⟩),
    (48, 0x437D964AC702, .sge ⟨1, 0x23, 0x15, 0x32, 2, 0x2c, 3, 1, 5⟩),
    (48, 0x477D964AC702, .sgeu ⟨1, 0x23, 0x15, 0x32, 2, 0x2c, 3, 1, 5⟩),
    (32, 0x9A6AC71B, .sgti ⟨1, 0x23, 0x15, 0x4d3⟩)] = true := by decide

/-- 40 R306 to R357. -/
theorem test_decode_integer_5 : decodesAll [
    (48, 0xBB4792CAC7DB, .sgtil ⟨1, 0x23, 0x15, 0x5a3c96, 1, 5⟩),
    (32, 0x9A6AC71F, .sgtui ⟨1, 0x23, 0x15, 0x4d3⟩),
    (48, 0xBB4792CAC7DF, .sgtuil ⟨1, 0x23, 0x15, 0x5a3c96, 1, 5⟩),
    (32, 0x9A6AC718, .slti ⟨1, 0x23, 0x15, 0x4d3⟩)] = true := by decide

/-- 41 R400 to R446. -/
theorem test_decode_logic_1 : decodesAll [
    (32, 0xB64AC71A, .andS ⟨1, 0x23, 0x15, 0x32, 0, 1, 5⟩),
    (48, 0x117D964AC702, .and ⟨1, 0x23, 0x15, 0x32, 2, 0x2c, 3, 1, 5⟩),
    (48, 0x177D964AC702, .andc ⟨1, 0x23, 0x15, 0x32, 2, 0x2c, 3, 1, 5⟩),
    (32, 0xB64AC71D, .orS ⟨1, 0x23, 0x15, 0x32, 0, 1, 5⟩),
    (48, 0x137D964AC702, .or ⟨1, 0x23, 0x15, 0x32, 2, 0x2c, 3, 1, 5⟩),
    (48, 0x077D964AC702, .orc ⟨1, 0x23, 0x15, 0x32, 2, 0x2c, 3, 1, 5⟩),
    (32, 0xB64AC71E, .eorS ⟨1, 0x23, 0x15, 0x32, 0, 1, 5⟩),
    (48, 0x157D964AC702, .eor ⟨1, 0x23, 0x15, 0x32, 2, 0x2c, 3, 1, 5⟩),
    (48, 0x057D964AC702, .enor ⟨1, 0x23, 0x15, 0x32, 2, 0x2c, 3, 1, 5⟩),
    (48, 0x017D964AC702, .nand ⟨1, 0x23, 0x15, 0x32, 2, 0x2c, 3, 1, 5⟩),
    (48, 0x037D964AC702, .nor ⟨1, 0x23, 0x15, 0x32, 2, 0x2c, 3, 1, 5⟩),
    (48, 0x697D964AC702, .mux ⟨1, 0x23, 0x15, 0x32, 2, 0x2c, 3, 1, 5⟩)] = true := by decide

/-- 41 R400 to R446. -/
theorem test_decode_logic_2 : decodesAll [
    (32, 0x9A6AC708, .andi ⟨1, 0x23, 0x15, 0x4d3⟩),
    (48, 0xBB4792CAC7D8, .andil ⟨1, 0x23, 0x15, 0x5a3c96, 1, 5⟩),
    (32, 0x9A6AC709, .ori ⟨1, 0x23, 0x15, 0x4d3⟩),
    (48, 0xBB4792CAC7D9, .oril ⟨1, 0x23, 0x15, 0x5a3c96, 1, 5⟩),
    (32, 0x9A6AC70A, .eori ⟨1, 0x23, 0x15, 0x4d3⟩),
    (48, 0xBB4792CAC7DA, .eoril ⟨1, 0x23, 0x15, 0x5a3c96, 1, 5⟩),
    (32, 0xB64AC758, .sllS ⟨1, 0x23, 0x15, 0x32, 0, 1, 5⟩),
    (48, 0x817D964AC702, .sllp ⟨1, 0x23, 0x15, 0x32, 2, 0x2c, 3, 1, 5⟩),
    (48, 0x837D964AC702, .srlp ⟨1, 0x23, 0x15, 0x32, 2, 0x2c, 3, 1, 5⟩),
    (48, 0x837D800AC702, .srl ⟨1, 0x23, 0x15, 0, 0, 0x2c, 3, 1, 5⟩),
    (48, 0x857D964AC702, .sra ⟨1, 0x23, 0x15, 0x32, 2, 0x2c, 3, 1, 5⟩),
    (48, 0x817D82AAC702, .rol ⟨1, 0x23, 0x15, 0x15, 0, 0x2c, 3, 1, 5⟩)] = true := by decide

/-- 41 R400 to R446. -/
theorem test_decode_logic_3 : decodesAll [
    (48, 0x837D82AAC702, .ror ⟨1, 0x23, 0x15, 0x15, 0, 0x2c, 3, 1, 5⟩),
    (32, 0x016AC701, .cntlz ⟨1, 0x23, 0x15, 1, 5⟩),
    (32, 0x056AC701, .cntpop ⟨1, 0x23, 0x15, 1, 5⟩),
    (32, 0x556AC701, .revbit 2 ⟨1, 0x23, 0x15, 1, 5⟩),
    (48, 0x617D964AC702, .mor ⟨1, 0x23, 0x15, 0x32, 2, 0x2c, 3, 1, 5⟩),
    (48, 0x637D964AC702, .mxor ⟨1, 0x23, 0x15, 0x32, 2, 0x2c, 3, 1, 5⟩),
    (48, 0x657D964AC702, .mort ⟨1, 0x23, 0x15, 0x32, 2, 0x2c, 3, 1, 5⟩),
    (48, 0x677D964AC702, .mxort ⟨1, 0x23, 0x15, 0x32, 2, 0x2c, 3, 1, 5⟩),
    (48, 0x017D964AC74C, .bmap ⟨1, 0x23, 0x15, 0x32, 2, 0x2c, 3, 1, 5, 0⟩),
    (48, 0x5D7D964AC702, .clmul ⟨1, 0x23, 0x15, 0x32, 2, 0x2c, 3, 1, 5⟩),
    (48, 0x5F7D964AC702, .clmulh ⟨1, 0x23, 0x15, 0x32, 2, 0x2c, 3, 1, 5⟩),
    (48, 0x357D964AC702, .bytndx ⟨1, 0x23, 0x15, 0x32, 2, 0x2c, 3, 1, 5⟩)] = true := by decide

/-- 41 R400 to R446. -/
theorem test_decode_logic_4 : decodesAll [
    (32, 0x14CAC755, .bytndxi ⟨1, 0x23, 0x15, 0xa6⟩),
    (48, 0x377D964AC702, .wydendx ⟨1, 0x23, 0x15, 0x32, 2, 0x2c, 3, 1, 5⟩),
    (48, 0xBB4792CAC756, .wydendxi ⟨1, 0x23, 0x15, 0x5a3c96, 1, 5⟩),
    (48, 0x397D964AC702, .utf21ndx ⟨1, 0x23, 0x15, 0x32, 2, 0x2c, 3, 1, 5⟩),
    (48, 0xBB4792CAC757, .utf21ndxi ⟨1, 0x23, 0x15, 0x5a3c96, 1, 5⟩)] = true := by decide

/-- 42 R483 to R498. -/
theorem test_decode_bit_fields_1 : decodesAll [
    (48, 0x017D964AC7AA, .bfalign ⟨1, 0x23, 0x15, 0x32, 2, 0x2c, 3, 1, 5⟩),
    (48, 0x037D964AC7AA, .bfffo ⟨1, 0x23, 0x15, 0x32, 2, 0x2c, 3, 1, 5⟩),
    (48, 0x097D964AC7AA, .bfextu ⟨1, 0x23, 0x15, 0x32, 2, 0x2c, 3, 1, 5⟩),
    (48, 0x0B7D964AC7AA, .bfext ⟨1, 0x23, 0x15, 0x32, 2, 0x2c, 3, 1, 5⟩),
    (48, 0x117D964AC7AA, .andm ⟨1, 0x23, 0x15, 0x32, 2, 0x2c, 3, 1, 5⟩),
    (48, 0x137D964AC7AA, .bfset ⟨1, 0x23, 0x15, 0x32, 2, 0x2c, 3, 1, 5⟩),
    (48, 0x157D964AC7AA, .bfchg ⟨1, 0x23, 0x15, 0x32, 2, 0x2c, 3, 1, 5⟩),
    (48, 0x177D964AC7AA, .bfclr ⟨1, 0x23, 0x15, 0x32, 2, 0x2c, 3, 1, 5⟩),
    (48, 0x1577F00AC7AA, .com ⟨1, 0x23, 0x15, 0, 2, 0x3f, 2, 1, 5⟩),
    (48, 0x0977F00AC7AA, .mov ⟨1, 0x23, 0x15, 0, 2, 0x3f, 2, 1, 5⟩),
    (48, 0x0B70F00AC7AA, .movsxb ⟨1, 0x23, 0x15, 0, 2, 7, 2, 1, 5⟩),
    (48, 0x0B71F00AC7AA, .movsxw ⟨1, 0x23, 0x15, 0, 2, 0xf, 2, 1, 5⟩)] = true := by decide

/-- 42 R483 to R498. -/
theorem test_decode_bit_fields_2 : decodesAll [
    (48, 0x0B73F00AC7AA, .movsxt ⟨1, 0x23, 0x15, 0, 2, 0x1f, 2, 1, 5⟩),
    (48, 0x0970F00AC7AA, .movzxb ⟨1, 0x23, 0x15, 0, 2, 7, 2, 1, 5⟩),
    (48, 0x0971F00AC7AA, .movzxw ⟨1, 0x23, 0x15, 0, 2, 0xf, 2, 1, 5⟩),
    (48, 0x0973F00AC7AA, .movzxt ⟨1, 0x23, 0x15, 0, 2, 0x1f, 2, 1, 5⟩),
    (48, 0x017D964AC7F5, .bcdadd ⟨1, 0x23, 0x15, 0x32, 2, 0x2c, 3, 1, 5⟩),
    (48, 0x037D964AC7F5, .bcdsub ⟨1, 0x23, 0x15, 0x32, 2, 0x2c, 3, 1, 5⟩),
    (48, 0x057D964AC7F5, .bcdmul ⟨1, 0x23, 0x15, 0x32, 2, 0x2c, 3, 1, 5⟩)] = true := by decide

/-- 43 R530 to R571. -/
theorem test_decode_float_1 : decodesAll [
    (32, 0x416AC761, .fabs ⟨1, 0x23, 0x15, 1, 5⟩),
    (32, 0x456AC761, .fneg ⟨1, 0x23, 0x15, 1, 5⟩),
    (32, 0x3D6AC761, .fclass ⟨1, 0x23, 0x15, 1, 5⟩),
    (32, 0x1F6AC761, .ffinite ⟨1, 0x23, 0x15, 1, 5⟩),
    (32, 0x1D6AC761, .isnan ⟨1, 0x23, 0x15, 1, 5⟩),
    (32, 0x0F6AC761, .fman ⟨1, 0x23, 0x15, 1, 5⟩),
    (32, 0x0D6AC761, .fsign ⟨1, 0x23, 0x15, 1, 5⟩),
    (32, 0x116AC761, .fsqrt ⟨1, 0x23, 0x15, 1, 5⟩),
    (32, 0x036AC761, .frsqrte ⟨1, 0x23, 0x15, 1, 5⟩),
    (32, 0x516AC761, .fsigmoid ⟨1, 0x23, 0x15, 1, 5⟩),
    (32, 0x056AC761, .ftoi ⟨1, 0x23, 0x15, 1, 5⟩),
    (32, 0x076AC761, .itof ⟨1, 0x23, 0x15, 1, 5⟩)] = true := by decide

/-- 43 R530 to R571. -/
theorem test_decode_float_2 : decodesAll [
    (32, 0x2B6AC761, .ftrunc ⟨1, 0x23, 0x15, 1, 5⟩),
    (32, 0x200ADA61, .ftx ⟨0x2d, 0x15, 0⟩),
    (32, 0x220ADA61, .fcx ⟨0x2d, 0x15, 0⟩),
    (32, 0x240ADA61, .fex ⟨0x2d, 0x15, 0⟩),
    (32, 0x260ADA61, .fdx ⟨0x2d, 0x15, 0⟩),
    (32, 0x280ADA61, .frm ⟨0x2d, 0x15, 0⟩),
    (32, 0x18004661, .fstat ⟨0x23, 0, 0⟩),
    (48, 0x0009764AC762, .fadd ⟨1, 0x23, 0x15, 0x32, 2, 1, 5, 0⟩),
    (48, 0x0807764AC772, .faddL ⟨1, 0x23, 0x15, 0x32, 2, 1, 5, 3, 0⟩),
    (48, 0x000B764AC762, .fsub ⟨1, 0x23, 0x15, 0x32, 2, 1, 5, 0⟩),
    (48, 0x0A07764AC772, .fsubL ⟨1, 0x23, 0x15, 0x32, 2, 1, 5, 3, 0⟩),
    (48, 0x0011764AC762, .fmul ⟨1, 0x23, 0x15, 0x32, 2, 1, 5, 0⟩)] = true := by decide

/-- 43 R530 to R571. -/
theorem test_decode_float_3 : decodesAll [
    (48, 0x1007764AC772, .fmulL ⟨1, 0x23, 0x15, 0x32, 2, 1, 5, 3, 0⟩),
    (48, 0x0013764AC762, .fdiv ⟨1, 0x23, 0x15, 0x32, 2, 1, 5, 0⟩),
    (48, 0x1207764AC772, .fdivL ⟨1, 0x23, 0x15, 0x32, 2, 1, 5, 3, 0⟩),
    (48, 0x0021764AC762, .fcmp ⟨1, 0x23, 0x15, 0x32, 2, 1, 5, 0⟩),
    (48, 0x0023764AC762, .fseq ⟨1, 0x23, 0x15, 0x32, 2, 1, 5, 0⟩),
    (48, 0x0025764AC762, .fslt ⟨1, 0x23, 0x15, 0x32, 2, 1, 5, 0⟩),
    (48, 0x0029764AC762, .fsne ⟨1, 0x23, 0x15, 0x32, 2, 1, 5, 0⟩),
    (48, 0x002B764AC762, .fcmpb ⟨1, 0x23, 0x15, 0x32, 2, 1, 5, 0⟩),
    (48, 0x077D964AC763, .fma ⟨1, 0x23, 0x15, 0x32, 2, 0x2c, 3, 1, 5, 3⟩),
    (48, 0x177D964AC763, .fms ⟨1, 0x23, 0x15, 0x32, 2, 0x2c, 3, 1, 5, 3⟩),
    (48, 0x277D964AC763, .fnma ⟨1, 0x23, 0x15, 0x32, 2, 0x2c, 3, 1, 5, 3⟩),
    (48, 0x377D964AC763, .fnms ⟨1, 0x23, 0x15, 0x32, 2, 0x2c, 3, 1, 5, 3⟩)] = true := by decide

/-- 44 R605 to R630. -/
theorem test_decode_decimal_1 : decodesAll [
    (32, 0x416AC765, .dfabs ⟨1, 0x23, 0x15, 1, 5⟩),
    (32, 0x456AC765, .dfneg ⟨1, 0x23, 0x15, 1, 5⟩),
    (32, 0x0F6AC765, .dfman ⟨1, 0x23, 0x15, 1, 5⟩),
    (32, 0x0D6AC765, .dfsign ⟨1, 0x23, 0x15, 1, 5⟩),
    (32, 0x056AC765, .dftoi ⟨1, 0x23, 0x15, 1, 5⟩),
    (32, 0x076AC765, .itodf ⟨1, 0x23, 0x15, 1, 5⟩),
    (32, 0x200ADA65, .dftx ⟨0x2d, 0x15, 0⟩),
    (32, 0x220ADA65, .dfcx ⟨0x2d, 0x15, 0⟩),
    (32, 0x240ADA65, .dfex ⟨0x2d, 0x15, 0⟩),
    (32, 0x260ADA65, .dfdx ⟨0x2d, 0x15, 0⟩),
    (32, 0x280ADA65, .dfrm ⟨0x2d, 0x15, 0⟩),
    (32, 0x18004665, .dfstat ⟨0x23, 0, 0⟩)] = true := by decide

/-- 44 R605 to R630. -/
theorem test_decode_decimal_2 : decodesAll [
    (48, 0x0009764AC766, .dfadd ⟨1, 0x23, 0x15, 0x32, 2, 1, 5, 0⟩),
    (48, 0x0807764AC776, .dfaddL ⟨1, 0x23, 0x15, 0x32, 2, 1, 5, 3, 0⟩),
    (48, 0x000B764AC766, .dfsub ⟨1, 0x23, 0x15, 0x32, 2, 1, 5, 0⟩),
    (48, 0x0A07764AC776, .dfsubL ⟨1, 0x23, 0x15, 0x32, 2, 1, 5, 3, 0⟩),
    (48, 0x0011764AC766, .dfmul ⟨1, 0x23, 0x15, 0x32, 2, 1, 5, 0⟩),
    (48, 0x1007764AC776, .dfmulL ⟨1, 0x23, 0x15, 0x32, 2, 1, 5, 3, 0⟩),
    (48, 0x0013764AC766, .dfdiv ⟨1, 0x23, 0x15, 0x32, 2, 1, 5, 0⟩),
    (48, 0x1207764AC776, .dfdivL ⟨1, 0x23, 0x15, 0x32, 2, 1, 5, 3, 0⟩),
    (48, 0x0021764AC766, .dfcmp ⟨1, 0x23, 0x15, 0x32, 2, 1, 5, 0⟩),
    (48, 0x002B764AC766, .dfcmpb ⟨1, 0x23, 0x15, 0x32, 2, 1, 5, 0⟩),
    (48, 0x017D964AC767, .dfma ⟨1, 0x23, 0x15, 0x32, 2, 0x2c, 3, 1, 5⟩),
    (64, 0x0000077D964AC777, .dfmaL ⟨1, 0x23, 0x15, 0x32, 2, 0x2c, 3, 1, 5, 3, 0, 0⟩)] = true := by decide

/-- 44 R605 to R630. -/
theorem test_decode_decimal_3 : decodesAll [
    (48, 0x037D964AC767, .dfms ⟨1, 0x23, 0x15, 0x32, 2, 0x2c, 3, 1, 5⟩),
    (64, 0x0002077D964AC777, .dfmsL ⟨1, 0x23, 0x15, 0x32, 2, 0x2c, 3, 1, 5, 3, 0, 0⟩),
    (48, 0x057D964AC767, .dfnma ⟨1, 0x23, 0x15, 0x32, 2, 0x2c, 3, 1, 5⟩),
    (64, 0x0004077D964AC777, .dfnmaL ⟨1, 0x23, 0x15, 0x32, 2, 0x2c, 3, 1, 5, 3, 0, 0⟩),
    (48, 0x077D964AC767, .dfnms ⟨1, 0x23, 0x15, 0x32, 2, 0x2c, 3, 1, 5⟩),
    (64, 0x0006077D964AC777, .dfnmsL ⟨1, 0x23, 0x15, 0x32, 2, 0x2c, 3, 1, 5, 3, 0, 0⟩)] = true := by decide

/-- 45 R670 to R726. -/
theorem test_decode_memory_1 : decodesAll [
    (48, 0xB874B2CAC680, .ldb ⟨0x23, 0x15, 0xc3a596, 5⟩),
    (48, 0xB874B2CAC681, .ldbu ⟨0x23, 0x15, 0xc3a596, 5⟩),
    (48, 0xB874B2CAC682, .ldw ⟨0x23, 0x15, 0xc3a596, 5⟩),
    (48, 0xB874B2CAC683, .ldwu ⟨0x23, 0x15, 0xc3a596, 5⟩),
    (48, 0xB874B2CAC684, .ldt ⟨0x23, 0x15, 0xc3a596, 5⟩),
    (48, 0xB874B2CAC685, .ldtu ⟨0x23, 0x15, 0xc3a596, 5⟩),
    (48, 0xB874B2CAC686, .ldo ⟨0x23, 0x15, 0xc3a596, 5⟩),
    (48, 0xB874B2CAC688, .llal ⟨0x23, 0x15, 0xc3a596, 5⟩),
    (48, 0xB874B2CAC689, .llah ⟨0x23, 0x15, 0xc3a596, 5⟩),
    (48, 0xB874B2CAC690, .stb ⟨0x23, 0x15, 0xc3a596, 5⟩),
    (48, 0xB874B2CAC691, .stw ⟨0x23, 0x15, 0xc3a596, 5⟩),
    (48, 0xB874B2CAC692, .stt ⟨0x23, 0x15, 0xc3a596, 5⟩)] = true := by decide

/-- 45 R670 to R726. -/
theorem test_decode_memory_2 : decodesAll [
    (48, 0xB874B2CAC693, .sto ⟨0x23, 0x15, 0xc3a596, 5⟩),
    (48, 0xB874B2CAC694, .stoc ⟨0x23, 0x15, 0xc3a596, 5⟩),
    (32, 0xB68AC687, .ldos ⟨0x23, 0x15, 0xb4, 5⟩),
    (32, 0xB68AC695, .stos ⟨0x23, 0x15, 0xb4, 5⟩),
    (48, 0xB874B2CAA89F, .cache ⟨0x14, 0x15, 0xc3a596, 5⟩),
    (48, 0xB5A5764AC7B0, .ldbx ⟨1, 0x23, 0x15, 0x32, 2, 3, 5, 0xb4, 0, 1, 5⟩),
    (48, 0xB5A5764AC7B1, .ldbux ⟨1, 0x23, 0x15, 0x32, 2, 3, 5, 0xb4, 0, 1, 5⟩),
    (48, 0xB5A5764AC7B2, .ldwx ⟨1, 0x23, 0x15, 0x32, 2, 3, 5, 0xb4, 0, 1, 5⟩),
    (48, 0xB5A5764AC7B3, .ldwux ⟨1, 0x23, 0x15, 0x32, 2, 3, 5, 0xb4, 0, 1, 5⟩),
    (48, 0xB5A5764AC7B4, .ldtx ⟨1, 0x23, 0x15, 0x32, 2, 3, 5, 0xb4, 0, 1, 5⟩),
    (48, 0xB5A5764AC7B5, .ldtux ⟨1, 0x23, 0x15, 0x32, 2, 3, 5, 0xb4, 0, 1, 5⟩),
    (48, 0xB5A5764AC7B6, .ldox ⟨1, 0x23, 0x15, 0x32, 2, 3, 5, 0xb4, 0, 1, 5⟩)] = true := by decide

/-- 45 R670 to R726. -/
theorem test_decode_memory_3 : decodesAll [
    (48, 0xB5A5764AC7B8, .llalx ⟨1, 0x23, 0x15, 0x32, 2, 3, 5, 0xb4, 0, 1, 5⟩),
    (48, 0xB5A5764AC7B9, .llahx ⟨1, 0x23, 0x15, 0x32, 2, 3, 5, 0xb4, 0, 1, 5⟩),
    (48, 0xB5A5764AC7C0, .stbx ⟨1, 0x23, 0x15, 0x32, 2, 3, 5, 0xb4, 0, 1, 5⟩),
    (48, 0xB5A5764AC7C1, .stwx ⟨1, 0x23, 0x15, 0x32, 2, 3, 5, 0xb4, 0, 1, 5⟩),
    (48, 0xB5A5764AC7C2, .sttx ⟨1, 0x23, 0x15, 0x32, 2, 3, 5, 0xb4, 0, 1, 5⟩),
    (48, 0xB5A5764AC7C3, .stox ⟨1, 0x23, 0x15, 0x32, 2, 3, 5, 0xb4, 0, 1, 5⟩),
    (48, 0xB5A5764AC7C4, .stocx ⟨1, 0x23, 0x15, 0x32, 2, 3, 5, 0xb4, 0, 1, 5⟩),
    (48, 0xB5A5764AA9CF, .cachex ⟨1, 0x14, 0x15, 0x32, 2, 3, 5, 0xb4, 0, 1, 5⟩),
    (48, 0xB4B8764AD2E1, .stwl ⟨0x29, 0x15, 0x32, 2, 0xa5c3, 5⟩),
    (48, 0xB4B8764AD2E2, .sttl ⟨0x29, 0x15, 0x32, 2, 0xa5c3, 5⟩),
    (48, 0xB4B8764AD2E3, .stol ⟨0x29, 0x15, 0x32, 2, 0xa5c3, 5⟩),
    (48, 0xB4B8764AD2E4, .stocl ⟨0x29, 0x15, 0x32, 2, 0xa5c3, 5⟩)] = true := by decide

/-- 45 R670 to R726. -/
theorem test_decode_memory_4 : decodesAll [
    (48, 0x6D7D964AC702, .lin2phl ⟨1, 0x23, 0x15, 0x32, 2, 0x2c, 3, 1, 5⟩),
    (48, 0x6F7D964AC702, .lin2phh ⟨1, 0x23, 0x15, 0x32, 2, 0x2c, 3, 1, 5⟩)] = true := by decide

/-- 46 R750 to R810. -/
theorem test_decode_branches_1 : decodesAll [
    (48, 0x9C35764AD224, .bbc ⟨1, 0xa, 0x15, 0x32, 2, 3, 0x9c35⟩),
    (48, 0x9C35764AD225, .bbs ⟨1, 0xa, 0x15, 0x32, 2, 3, 0x9c35⟩),
    (48, 0x9C35764AD226, .beq ⟨1, 0xa, 0x15, 0x32, 2, 3, 0x9c35⟩),
    (48, 0x9C35764AD227, .bne ⟨1, 0xa, 0x15, 0x32, 2, 3, 0x9c35⟩),
    (48, 0x9C35764AD228, .blt ⟨1, 0xa, 0x15, 0x32, 2, 3, 0x9c35⟩),
    (48, 0x9C35764AD229, .bge ⟨1, 0xa, 0x15, 0x32, 2, 3, 0x9c35⟩),
    (48, 0x9C35764AD22A, .ble ⟨1, 0xa, 0x15, 0x32, 2, 3, 0x9c35⟩),
    (48, 0x9C35764AD22B, .bgt ⟨1, 0xa, 0x15, 0x32, 2, 3, 0x9c35⟩),
    (48, 0x9C35764AD22C, .bltu ⟨1, 0xa, 0x15, 0x32, 2, 3, 0x9c35⟩),
    (48, 0x9C35764AD22D, .bgeu ⟨1, 0xa, 0x15, 0x32, 2, 3, 0x9c35⟩),
    (48, 0x9C35764AD22E, .bleu ⟨1, 0xa, 0x15, 0x32, 2, 3, 0x9c35⟩),
    (48, 0x9C35764AD22F, .bgtu ⟨1, 0xa, 0x15, 0x32, 2, 3, 0x9c35⟩)] = true := by decide

/-- 46 R750 to R810. -/
theorem test_decode_branches_2 : decodesAll [
    (32, 0x764AD210, .beqz ⟨1, 0xa, 0x15, 0xb2, 3⟩),
    (32, 0x764AD212, .bnez ⟨1, 0xa, 0x15, 0xb2, 3⟩),
    (48, 0x9C35752E1820, .jmp ⟨0, 0x2a5c3, 3, 0x9c35⟩),
    (48, 0x9C35F52E1820, .bra ⟨0, 0x2a5c3, 7, 0x9c35⟩),
    (48, 0x9C35F52E1A20, .bsr ⟨1, 0x2a5c3, 7, 0x9c35⟩),
    (48, 0x9C35752E1A20, .jsr ⟨1, 0x2a5c3, 3, 0x9c35⟩),
    (48, 0x9C35752E1A30, .dbra ⟨1, 0x2a5c3, 3, 0x9c35⟩),
    (48, 0x9C35764AD234, .dbbc ⟨1, 0xa, 0x15, 0x32, 2, 3, 0x9c35⟩),
    (48, 0x9C35764AD235, .dbbs ⟨1, 0xa, 0x15, 0x32, 2, 3, 0x9c35⟩),
    (48, 0x9C35764AD236, .dbeq ⟨1, 0xa, 0x15, 0x32, 2, 3, 0x9c35⟩),
    (48, 0x9C35764AD237, .dbne ⟨1, 0xa, 0x15, 0x32, 2, 3, 0x9c35⟩),
    (48, 0x9C35764AD238, .dblt ⟨1, 0xa, 0x15, 0x32, 2, 3, 0x9c35⟩)] = true := by decide

/-- 46 R750 to R810. -/
theorem test_decode_branches_3 : decodesAll [
    (48, 0x9C35764AD239, .dbge ⟨1, 0xa, 0x15, 0x32, 2, 3, 0x9c35⟩),
    (48, 0x9C35764AD23A, .dble ⟨1, 0xa, 0x15, 0x32, 2, 3, 0x9c35⟩),
    (48, 0x9C35764AD23B, .dbgt ⟨1, 0xa, 0x15, 0x32, 2, 3, 0x9c35⟩),
    (48, 0x9C35764AD23C, .dbltu ⟨1, 0xa, 0x15, 0x32, 2, 3, 0x9c35⟩),
    (48, 0x9C35764AD23D, .dbgeu ⟨1, 0xa, 0x15, 0x32, 2, 3, 0x9c35⟩),
    (48, 0x9C35764AD23E, .dbleu ⟨1, 0xa, 0x15, 0x32, 2, 3, 0x9c35⟩),
    (48, 0x9C35764AD23F, .dbgtu ⟨1, 0xa, 0x15, 0x32, 2, 3, 0x9c35⟩),
    (48, 0x052E1F806A14, .jgate ⟨1, 0xa5c3f00d, 0⟩),
    (32, 0xB4794AF2, .rts ⟨1, 0x29, 0x5a3c⟩),
    (16, 0x01F1, .nop ⟨1, 0⟩)] = true := by decide

/-- 47 R822 to R850. -/
theorem test_decode_system_1 : decodesAll [
    (48, 0xB00606CAC60F, .csrrd ⟨0x23, 0x15, 0x3036, 0, 1, 5⟩),
    (48, 0xB20606CAC60F, .csrrw ⟨0x23, 0x15, 0x3036, 0, 1, 5⟩),
    (48, 0xB40606CAC60F, .csrrs ⟨0x23, 0x15, 0x3036, 0, 1, 5⟩),
    (48, 0xB60606CAC60F, .csrrc ⟨0x23, 0x15, 0x3036, 0, 1, 5⟩),
    (16, 0x0000, .brk ⟨0⟩),
    (32, 0x00016CA5, .sys ⟨0xb6, 0⟩),
    (32, 0x000B6CA6, .int ⟨0xb6, 5, 0⟩),
    (48, 0x2D7D964AC607, .di ⟨0x23, 0x15, 0x32, 2, 0xec, 1, 5⟩),
    (48, 0x237D964AC607, .pfi ⟨0x23, 0x15, 0x32, 2, 0xec, 1, 5⟩),
    (48, 0x2F7D964AC607, .sei ⟨0x23, 0x15, 0x32, 2, 0xec, 1, 5⟩),
    (16, 0x00FA, .wfi ⟨0⟩),
    (16, 0x00F9, .memdb ⟨0⟩)] = true := by decide

/-- 47 R822 to R850. -/
theorem test_decode_system_2 : decodesAll [
    (16, 0x00F8, .memsb ⟨0⟩),
    (16, 0x00F7, .sync ⟨0⟩),
    (48, 0x517D964AC607, .mfsel ⟨0x23, 0x15, 0x32, 2, 0xec, 1, 5⟩),
    (48, 0x537D964AC607, .mtsel ⟨0x23, 0x15, 0x32, 2, 0xec, 1, 5⟩),
    (48, 0x117D964AC607, .pushq ⟨0x23, 0x15, 0x32, 2, 0xec, 1, 5⟩),
    (48, 0x137D964AC607, .popq ⟨0x23, 0x15, 0x32, 2, 0xec, 1, 5⟩),
    (48, 0x157D964AC607, .peekq ⟨0x23, 0x15, 0x32, 2, 0xec, 1, 5⟩),
    (48, 0x177D964AC607, .statq ⟨0x23, 0x15, 0x32, 2, 0xec, 1, 5⟩),
    (48, 0x197D964AC607, .resetq ⟨0x23, 0x15, 0x32, 2, 0xec, 1, 5⟩),
    (48, 0x2000000A8207, .rex ⟨1, 0x15, 0, 0, 0, 0, 0⟩),
    (48, 0x26001654B807, .rte ⟨0x1c, 0x29, 0x32, 2, 0, 0, 0⟩),
    (48, 0x3D7D964AC607, .tlbrw ⟨0x23, 0x15, 0x32, 2, 0xec, 1, 5⟩)] = true := by decide

/-- 48 R885 to R918. -/
theorem test_decode_vector_1 : decodesAll [
    (48, 0x7B7D964AC702, .v2bits ⟨1, 0x23, 0x15, 0x32, 2, 0x2c, 3, 1, 5⟩),
    (48, 0x5B70102AC702, .vbits2vC ⟨1, 0x23, 0x15, 1, 2, 0, 2, 1, 5⟩),
    (48, 0x7D7D964AC702, .vbits2v ⟨1, 0x23, 0x15, 0x32, 2, 0x2c, 3, 1, 5⟩),
    (48, 0x797D964AC702, .vgidx ⟨1, 0x23, 0x15, 0x32, 2, 0x2c, 3, 1, 5⟩),
    (32, 0x596AC701, .vcmprss ⟨1, 0x23, 0x15, 1, 5⟩),
    (48, 0x777D964AC702, .veins ⟨1, 0x23, 0x15, 0x32, 2, 0x2c, 3, 1, 5⟩),
    (48, 0x757D964AC702, .vex ⟨1, 0x23, 0x15, 0x32, 2, 0x2c, 3, 1, 5⟩),
    (32, 0x3D6AC701, .vscan ⟨1, 0x23, 0x15, 1, 5⟩),
    (48, 0x717D964AC702, .vsllv ⟨1, 0x23, 0x15, 0x32, 2, 0x2c, 3, 1, 5⟩),
    (48, 0x737D964AC702, .vsrlv ⟨1, 0x23, 0x15, 0x32, 2, 0x2c, 3, 1, 5⟩),
    (32, 0x00815652, .mtvm ⟨3, 5, 2, 0, 0⟩),
    (32, 0x008B4652, .mfvm ⟨3, 4, 6, 0, 0⟩)] = true := by decide

/-- 48 R885 to R918. -/
theorem test_decode_vector_2 : decodesAll [
    (32, 0x00915052, .mtvl ⟨0, 5, 2, 0, 0⟩),
    (32, 0x00984652, .mfvl ⟨3, 4, 0, 0, 0⟩),
    (32, 0x00235652, .vmadd ⟨3, 5, 6, 0, 0⟩),
    (32, 0x002B5652, .vmsub ⟨3, 5, 6, 0, 0⟩),
    (32, 0x00435652, .vmand ⟨3, 5, 6, 0, 0⟩),
    (32, 0x004B5652, .vmor ⟨3, 5, 6, 0, 0⟩),
    (32, 0x00535652, .vmxor ⟨3, 5, 6, 0, 0⟩),
    (32, 0x006B4652, .vmcntpop ⟨3, 4, 6, 0, 0⟩),
    (32, 0x00734652, .vmfirst ⟨3, 4, 6, 0, 0⟩),
    (32, 0x007B4652, .vmlast ⟨3, 4, 6, 0, 0⟩),
    (32, 0x00EB5652, .vmsll ⟨3, 5, 0x16, 0⟩),
    (32, 0x00FB5652, .vmsrl ⟨3, 5, 0x16, 0⟩)] = true := by decide

/-- 48 R885 to R918. -/
theorem test_decode_vector_3 : decodesAll [
    (32, 0x00B19653, .vmfill ⟨3, 0x19, 0x2c, 0⟩)] = true := by decide

/-- 49 R930 to R978. -/
theorem test_decode_accelerators_1 : decodesAll [
    (48, 0xA17D964AC702, .aes64ds ⟨1, 0x23, 0x15, 0x32, 2, 0x2c, 3, 1, 5⟩),
    (48, 0xA37D964AC702, .aes64dsm ⟨1, 0x23, 0x15, 0x32, 2, 0x2c, 3, 1, 5⟩),
    (48, 0xA57D964AC702, .aes64es ⟨1, 0x23, 0x15, 0x32, 2, 0x2c, 3, 1, 5⟩),
    (48, 0xA77D964AC702, .aes64esm ⟨1, 0x23, 0x15, 0x32, 2, 0x2c, 3, 1, 5⟩),
    (32, 0x616AC701, .sha256sig0 ⟨1, 0x23, 0x15, 1, 5⟩),
    (32, 0x636AC701, .sha256sig1 ⟨1, 0x23, 0x15, 1, 5⟩),
    (32, 0x656AC701, .sha256sum0 ⟨1, 0x23, 0x15, 1, 5⟩),
    (32, 0x676AC701, .sha256sum1 ⟨1, 0x23, 0x15, 1, 5⟩),
    (32, 0x696AC701, .sha512sig0 ⟨1, 0x23, 0x15, 1, 5⟩),
    (32, 0x6B6AC701, .sha512sig1 ⟨1, 0x23, 0x15, 1, 5⟩),
    (32, 0x6D6AC701, .sha512sum0 ⟨1, 0x23, 0x15, 1, 5⟩),
    (32, 0x6F6AC701, .sha512sum1 ⟨1, 0x23, 0x15, 1, 5⟩)] = true := by decide

/-- 49 R930 to R978. -/
theorem test_decode_accelerators_2 : decodesAll [
    (32, 0x716AC701, .sm3p0 ⟨1, 0x23, 0x15, 1, 5⟩),
    (32, 0x736AC701, .sm3p1 ⟨1, 0x23, 0x15, 1, 5⟩),
    (48, 0x017D964AC75E, .sm4ed ⟨1, 0x23, 0x15, 0x32, 2, 0x2c, 3, 1, 5, 0⟩),
    (48, 0x017D964AC75F, .sm4ks ⟨1, 0x23, 0x15, 0x32, 2, 0x2c, 3, 1, 5, 0⟩),
    (32, 0xC16AC701, .nnaTrig ⟨1, 0x23, 0x15, 1, 5⟩),
    (32, 0xC36AC701, .nnaStat ⟨1, 0x23, 0x15, 1, 5⟩),
    (32, 0xC56AC701, .nnaMfact ⟨1, 0x23, 0x15, 1, 5⟩),
    (48, 0xC17D964AC702, .nnaMtwt ⟨1, 0x23, 0x15, 0x32, 2, 0x2c, 3, 1, 5⟩),
    (48, 0xC37D964AC702, .nnaMtin ⟨1, 0x23, 0x15, 0x32, 2, 0x2c, 3, 1, 5⟩),
    (48, 0xC57D964AC702, .nnaMtbias ⟨1, 0x23, 0x15, 0x32, 2, 0x2c, 3, 1, 5⟩),
    (48, 0xC77D964AC702, .nnaMtfb ⟨1, 0x23, 0x15, 0x32, 2, 0x2c, 3, 1, 5⟩),
    (48, 0xC97D964AC702, .nnaMtmc ⟨1, 0x23, 0x15, 0x32, 2, 0x2c, 3, 1, 5⟩)] = true := by decide

/-- 49 R930 to R978. -/
theorem test_decode_accelerators_3 : decodesAll [
    (48, 0xCB7D964AC702, .nnaMtbc ⟨1, 0x23, 0x15, 0x32, 2, 0x2c, 3, 1, 5⟩),
    (48, 0x017D964AC744, .blend ⟨1, 0x23, 0x15, 0x32, 2, 0x2c, 3, 1, 5, 0⟩),
    (32, 0x416AC701, .clip ⟨1, 0x23, 0x15, 1, 5⟩),
    (32, 0x236AC701, .transform ⟨1, 0x23, 0x15, 1, 5⟩),
    (48, 0xEF7D964AC702, .rwCoeff ⟨1, 0x23, 0x15, 0x32, 2, 0x2c, 3, 1, 5⟩)] = true := by decide
/-! ### Results of single steps: the vectors of 95, each by the rule it cites -/

/-- 40 R301 to R357; 95 V1, K3. -/
theorem test_integer_1 : resultsAll [
    (32, 0x00408619, [(1, 0x7), (2, 0x8)], 3, 0xF),
    (32, 0x00408619, [(1, 0xFFFFFFFFFFFFFFFF), (2, 0x1)], 3, 0x0),
    (48, 0x0810A0408602, [(1, 0x1), (2, 0x2)], 3, 0x8),
    (32, 0xFFE08604, [(1, 0x0)], 3, 0xFFFFFFFFFFFFFFFF),
    (48, 0x02468AC086D4, [(1, 0x1)], 3, 0x123457),
    (32, 0x0C800A04, [], 5, 0x64),
    (48, 0x0A0000408602, [(1, 0x3), (2, 0x5)], 3, 0xFFFFFFFFFFFFFFFE),
    (32, 0x01408605, [(1, 0x3)], 3, 0x7)] = true := by decide

/-- 40 R301 to R357; 95 V1, K3. -/
theorem test_integer_2 : resultsAll [
    (48, 0x0A0000400602, [(2, 0x8000000000000000)], 3, 0x8000000000000000),
    (48, 0x280000800602, [(4, 0xFFFFFFFFFFFFFFFB)], 3, 0x5),
    (48, 0x0C0000408602, [(1, 0xFFFFFFFFFFFFFFFD), (2, 0x5)], 3, 0xFFFFFFFFFFFFFFF1),
    (48, 0x1E0000408602, [(1, 0x4000000000000000), (2, 0x4)], 3, 0x1),
    (48, 0x1E0000408602, [(1, 0xFFFFFFFFFFFFFFFF), (2, 0x1)], 3, 0xFFFFFFFFFFFFFFFF),
    (48, 0x2A0000408602, [(1, 0x1000003), (2, 0x10002)], 3, 0x6),
    (48, 0x200000408602, [(1, 0xFFFFFFFFFFFFFFF9), (2, 0x2)], 3, 0xFFFFFFFFFFFFFFFD),
    (48, 0x200000408602, [(1, 0x8000000000000000), (2, 0xFFFFFFFFFFFFFFFF)], 3, 0x8000000000000000)] = true := by decide

/-- 40 R301 to R357; 95 V1, K3. -/
theorem test_integer_3 : resultsAll [
    (48, 0x220000408602, [(1, 0xFFFFFFFFFFFFFFFF), (2, 0x2)], 3, 0x7FFFFFFFFFFFFFFF),
    (48, 0x00007D008642, [(1, 0x1388)], 3, 0x5),
    (48, 0x280000408602, [(1, 0x3), (2, 0xA)], 3, 0x7),
    (48, 0x281060408602, [(1, 0x1040), (2, 0x1000)], 3, 0x8),
    (48, 0x500040408602, [(1, 0xFFFFFFFFFFFFFFFF), (2, 0x4)], 3, 0xFFFFFFFFFFFFFFFF)] = true := by decide

/-- 40 R330 to R357; 95 V1. -/
theorem test_compare_1 : resultsAll [
    (32, 0x00A08650, [(1, 0x5)], 3, 0x0),
    (48, 0x560000408602, [(1, 0xFFFFFFFFFFFFFFFF), (2, 0x1)], 3, 0x1),
    (48, 0x400000408602, [(1, 0xFFFFFFFFFFFFFFFF), (2, 0x0)], 3, 0x1),
    (48, 0x440000408602, [(1, 0xFFFFFFFFFFFFFFFF), (2, 0x0)], 3, 0x0),
    (32, 0x00A0861B, [(1, 0x6)], 3, 0x1),
    (32, 0x00A0861B, [(1, 0x5)], 3, 0x0),
    (32, 0x00A08616, [(1, 0x5)], 3, 0x1),
    (48, 0x5A1010208602, [(1, 0x100)], 3, 0x1)] = true := by decide

/-- 40 R330 to R357; 95 V1. -/
theorem test_compare_2 : resultsAll [
    (32, 0x00408019, [(1, 0x5), (2, 0x6)], 0, 0x0),
    (48, 0x320080408002, [(1, 0x5), (2, 0x0), (4, 0x6)], 0, 0x0)] = true := by decide

/-- 41 R400 to R413; 95 V2. -/
theorem test_logic_1 : resultsAll [
    (32, 0x0040861A, [(1, 0xF0F0), (2, 0xFF00)], 3, 0xF000),
    (48, 0x161FE0408602, [(1, 0xFF), (2, 0xF)], 3, 0xF0),
    (32, 0x0040861D, [(1, 0xF0), (2, 0xF)], 3, 0xFF),
    (48, 0x060000408602, [(1, 0x0), (2, 0xFF)], 3, 0xFFFFFFFFFFFFFF00),
    (32, 0x0040861E, [(1, 0x9), (2, 0x9)], 3, 0x0),
    (48, 0x040000408602, [(1, 0x9), (2, 0x9)], 3, 0xFFFFFFFFFFFFFFFF),
    (48, 0x020000408602, [(1, 0x0), (2, 0x0)], 3, 0xFFFFFFFFFFFFFFFF),
    (48, 0x680080408602, [(1, 0xFF00), (2, 0x1234), (4, 0xABCD)], 3, 0x12CD)] = true := by decide

/-- 41 R400 to R413; 95 V2. -/
theorem test_logic_2 : resultsAll [
    (32, 0x01E08608, [(1, 0xFFFF)], 3, 0xF80F),
    (48, 0x00001FE086D8, [(1, 0x12345678)], 3, 0x12000078),
    (32, 0x00208609, [(1, 0x2)], 3, 0x3)] = true := by decide

/-- 41 R420 to R432; 95 V2, K2. -/
theorem test_shifts_1 : resultsAll [
    (32, 0x00408658, [(1, 0x1), (2, 0x3F)], 3, 0x8000000000000000),
    (32, 0x00408658, [(1, 0x5), (2, 0x40)], 3, 0x5),
    (32, 0x00408658, [(1, 0x5), (2, 0x41)], 3, 0xA),
    (48, 0x801080408602, [(1, 0xF000000000000000), (2, 0x1)], 3, 0x1F),
    (48, 0x821080408602, [(1, 0x10), (2, 0xA)], 3, 0xA000000000000001),
    (48, 0x821080008602, [(1, 0x100)], 3, 0x10),
    (48, 0x840010808602, [(1, 0x8000000000000000)], 3, 0xF800000000000000),
    (48, 0x801100208602, [(1, 0x123456789ABCDEF)], 3, 0x23456789ABCDEF01)] = true := by decide

set_option maxRecDepth 4000 in
/-- 41 R420 to R432; 95 V2, K2. -/
theorem test_shifts_2 : resultsAll [
    (48, 0x821100208602, [(1, 0x123456789ABCDEF)], 3, 0xEF0123456789ABCD),
    (32, 0x00008601, [(1, 0x1)], 3, 0x3F),
    (32, 0x04008601, [(1, 0xFF)], 3, 0x8),
    (32, 0x56008601, [(1, 0x1)], 3, 0x8000000000000000)] = true := by decide

set_option maxRecDepth 4000 in
/-- 41 R435 to R446; 95 V2. -/
theorem test_bits : resultsAll [
    (48, 0x600000408602, [(1, 0x123456789ABCDEF), (2, 0x8040201008040201)], 3, 0x123456789ABCDEF),
    (48, 0x00008040864C, [(1, 0x102030405060708), (4, 0x1234567)], 3, 0x807060504030201),
    (48, 0x5C0000408602, [(1, 0x3), (2, 0x3)], 3, 0x5),
    (48, 0x5E0000408602, [(1, 0xFFFFFFFFFFFFFFFF), (2, 0xFFFFFFFFFFFFFFFF)], 3, 0x5555555555555555),
    (48, 0x340000408602, [(1, 0x414243), (2, 0x0)], 3, 0x3)] = true := by decide

/-- 42 R483 to R494; 95 V3. -/
theorem test_bit_fields_1 : resultsAll [
    (48, 0x0011708086AA, [(1, 0xABCD)], 3, 0xCD0),
    (48, 0x0211708086AA, [(1, 0xABCD)], 3, 0x7),
    (48, 0x0811708086AA, [(1, 0xABCD)], 3, 0xBC),
    (48, 0x0A11708086AA, [(1, 0xABCD)], 3, 0xFFFFFFFFFFFFFFBC),
    (48, 0x1011708086AA, [(1, 0xABCD)], 3, 0xBC0),
    (48, 0x1211708086AA, [(1, 0xABCD)], 3, 0xAFFD),
    (48, 0x1411708086AA, [(1, 0xABCD)], 3, 0xA43D),
    (48, 0x1611708086AA, [(1, 0xABCD)], 3, 0xA00D)] = true := by decide

/-- 42 R483 to R494; 95 V3. -/
theorem test_bit_fields_2 : resultsAll [
    (48, 0x0211708086AA, [(1, 0xF00F)], 3, 0xFFFFFFFFFFFFFFFF),
    (48, 0x0A10F00086AA, [(1, 0x80)], 3, 0xFFFFFFFFFFFFFF80),
    (48, 0x0811F00086AA, [(1, 0x12345678)], 3, 0x5678)] = true := by decide

/-- 42 R496 to R498; 95 V3. -/
theorem test_bcd : resultsAll [
    (48, 0x0000004086F5, [(1, 0x38), (2, 0x45)], 3, 0x83),
    (48, 0x0000004086F5, [(1, 0x99), (2, 0x1)], 3, 0x0),
    (48, 0x0200004086F5, [(1, 0x45), (2, 0x38)], 3, 0x7),
    (48, 0x0200004086F5, [(1, 0x0), (2, 0x1)], 3, 0x99),
    (48, 0x0400004086F5, [(1, 0x12), (2, 0x12)], 3, 0x144),
    (48, 0x0400004086F5, [(1, 0x99), (2, 0x99)], 3, 0x9801)] = true := by decide

/-- 43 R520, R530 to R560; 95 V4, K12. -/
theorem test_float_1 : resultsAll [
    (48, 0x000800408662, [(1, 0x3FF0000000000000), (2, 0x4000000000000000)], 3, 0x4008000000000000),
    (48, 0x001200408662, [(1, 0x3FF0000000000000), (2, 0x0)], 3, 0x7FF0000000000000),
    (48, 0x001200408662, [(1, 0x0), (2, 0x0)], 3, 0x7FF8000000000000),
    (48, 0x000080408663, [(1, 0x4000000000000000), (2, 0x4008000000000000), (4, 0x3FF0000000000000)], 3, 0x401C000000000000),
    (32, 0x10008661, [(1, 0x4010000000000000)], 3, 0x4000000000000000),
    (32, 0x04008661, [(1, 0x4008000000000000)], 3, 0x3),
    (32, 0x06008661, [(1, 0xFFFFFFFFFFFFFFFF)], 3, 0xBFF0000000000000),
    (32, 0x2A008661, [(1, 0xBFE0000000000000)], 3, 0x8000000000000000)] = true := by decide

/-- 43 R520, R530 to R560; 95 V4, K12. -/
theorem test_float_2 : resultsAll [
    (32, 0x2A008661, [(1, 0x3FF8000000000000)], 3, 0x3FF0000000000000),
    (32, 0x40008661, [(1, 0xBFF0000000000000)], 3, 0x3FF0000000000000),
    (32, 0x3C008661, [(1, 0x8000000000000000)], 3, 0x8000000000000008),
    (32, 0x3C008661, [(1, 0x7FF0000000000000)], 3, 0x80),
    (48, 0x002A00408662, [(1, 0x3FF0000000000000), (2, 0x4000000000000000)], 3, 0x800000000000110E),
    (48, 0x002A00408662, [(1, 0x7FF8000000000000), (2, 0x4000000000000000)], 3, 0x110),
    (48, 0x002200408662, [(1, 0x0), (2, 0x8000000000000000)], 3, 0x1),
    (48, 0x002200408662, [(1, 0x7FF8000000000000), (2, 0x3FF0000000000000)], 3, 0x0)] = true := by decide

/-- 43 R520, R530 to R560; 95 V4, K12. -/
theorem test_float_3 : resultsAll [
    (32, 0x10008661, [(1, 0x8000000000000000)], 3, 0x0),
    (32, 0x10008661, [(1, 0xBFF0000000000000)], 3, 0x7FF8000000000000),
    (48, 0x000800408662, [(1, 0x7FF0000000000000), (2, 0xFFF0000000000000)], 3, 0x7FF8000000000000)] = true := by decide

/-- 49 R932 to R939, R975; 95 V10. -/
theorem test_crypto_1 : resultsAll [
    (32, 0x60008601, [(1, 0x1)], 3, 0x2004000),
    (32, 0x60008601, [(1, 0x80000000)], 3, 0x11002000),
    (32, 0x62008601, [(1, 0x1)], 3, 0xA000),
    (32, 0x64008601, [(1, 0x1)], 3, 0x40080400),
    (32, 0x66008601, [(1, 0x1)], 3, 0x4200080),
    (32, 0x68008601, [(1, 0x1)], 3, 0x8100000000000000),
    (32, 0x6A008601, [(1, 0x1)], 3, 0x200000000008),
    (32, 0x6C008601, [(1, 0x1)], 3, 0x1042000000)] = true := by decide

/-- 49 R932 to R939, R975; 95 V10. -/
theorem test_crypto_2 : resultsAll [
    (32, 0x6E008601, [(1, 0x1)], 3, 0x4400000800000),
    (32, 0x70008601, [(1, 0x1)], 3, 0x20201),
    (32, 0x72008601, [(1, 0x1)], 3, 0x808001),
    (48, 0x000080408644, [(1, 0x12FF8040), (2, 0x4080), (4, 0x80)], 3, 0x127F5F5F)] = true := by decide

/-- 10_state R70, R94, 47 R822; 95 V8, K1. -/
theorem test_system : resultsAll [
    (48, 0x00060020060F, [], 3, 0x0),
    (48, 0x00000280060F, [], 3, 0x0),
    (48, 0x06060000860F, [(1, 0x0)], 3, 0x0)] = true := by decide
/-! ### Words that the spec prints (95 S3 to S9) -/

theorem test_decode_printed : decodesAll [
    (48, 0x200000010293, .sto ⟨1, 2, 0, 1⟩),
    (48, 0x821110010402, .srlp ⟨0, 2, 2, 0, 2, 8, 2, 0, 0⟩),
    (48, 0x200000010090, .stb ⟨0, 2, 0, 1⟩),
    (48, 0x000020000020, .jmp ⟨0, 0, 1, 0⟩),
    (32, 0x00E00804, .ldi ⟨0, 4, 0, 7⟩),
    (48, 0x500000800607, .mfsel ⟨3, 0, 4, 0, 0, 0, 0⟩),
    (48, 0x520010208007, .mtsel ⟨0, 1, 1, 2, 0, 0, 0⟩),
    (48, 0x200000000207, .rex ⟨1, 0, 0, 0, 0, 0, 0⟩),
    (48, 0x260000000007, .rte ⟨0, 0, 0, 0, 0, 0, 0⟩),
    (32, 0x1E138661, .ffinite ⟨0, 3, 39, 0, 0⟩),
    (32, 0x04010201, .cntpop ⟨0, 1, 2, 0, 0⟩)] = true := by decide

/-- 40 R357; 95 S8: SLEI by 4 and SLTI by 5 are one word. -/
theorem test_slei_word : encodeWord (.slei ⟨0, 3, 1, 4⟩) = 0x00A08618 ∧
    decodeTableWord 32 0x00A08618 = some (.slti ⟨0, 3, 1, 5⟩) := by decide

/-- 30 R285; 95 K15: a root and a function code without an instruction, and bit 8 of a format that has no vector form. -/
theorem test_decode_refuses : decodeTableWord 16 0x4A = none ∧ decodeTableWord 48 0xFE0000408602 = none ∧
    decodeTableWord 48 0x200002008780 = none := by decide

/-! ### U_FSTAT (95 V4) -/

/-- The status after one step from reset with U_FSTAT = w. -/
noncomputable def leavesFstat (nbits i : Nat) (regs : List (RegNum × Word)) (w : Word) : Bool :=
  stepsTo (put State.reset regs) nbits i fun t => t.csr.fstat == w

theorem test_fstat_add : leavesFstat 48 0x000800408662 [(1, 0x3FF0000000000000), (2, 0x4000000000000000)]
    0x0000000010000000 = true := by decide

theorem test_fstat_divide_by_zero : leavesFstat 48 0x001200408662 [(1, 0x3FF0000000000000)]
    0x0008000014042000 = true := by decide

theorem test_fstat_invalid : leavesFstat 48 0x001200408662 [] 0x000100004400A008 = true := by decide

/-- 43 R524 step 5: with the condition enabled the instruction takes FLT and writes no register. -/
theorem test_fstat_enabled_traps :
    stepsTo (put { State.reset with csr := { State.reset.csr with fstat := 1 <<< 42 } }
      [(1, 0x3FF0000000000000), (3, 77)]) 48 0x001200408662 (fun t =>
        t.csr.cause.get 3 == 38 && t.csr.fstat.getLsbD 14 && t.reg 3 == 77 && (t.codeAddr 6).off == State.reset.ip) =
      true := by decide

/-! ### Loads and stores (95 V6, P4) -/

/-- Data at $1000 to $101F. -/
def data : State :=
  { plain with mem := [(0x1010, 0x80), (0x1011, 0x12), (0x1018, 0xEF), (0x1019, 0xCD), (0x101F, 0x01)] }

theorem test_loads :
    stepsTo (put data [(1, 0x1000)]) 48 0x200002008680 (fun t => t.reg 3 == 0xFFFFFFFFFFFFFF80) = true ∧
    stepsTo (put data [(1, 0x1000)]) 48 0x200002008681 (fun t => t.reg 3 == 0x80) = true ∧
    stepsTo (put data [(1, 0x1018)]) 48 0x3FFFFF008682 (fun t => t.reg 3 == 0x1280) = true ∧
    stepsTo (put data [(1, 0x1000), (2, 3)]) 48 0x0001604086B6 (fun t => t.reg 3 == 0x010000000000CDEF) = true ∧
    stepsTo (put data [(1, 0x1000)]) 32 0x22008687 (fun t => t.reg 3 == 0x1280) = true := by decide

/-- 20_memory R141. -/
theorem test_store_order :
    stepsTo (put plain [(1, 0x1000), (3, 0x0123456789ABCDEF)]) 48 0x200002008693 (fun t =>
      (List.range 10).map (fun k => Memory.read t.mem (0x100F + k)) ==
        [0, 0xEF, 0xCD, 0xAB, 0x89, 0x67, 0x45, 0x23, 0x01, 0]) = true := by decide

/-- 20_memory R143; 95 K11: a misaligned store is its bytes. -/
theorem test_store_misaligned :
    stepsTo (put plain [(2, 0x0123456789ABCDEF), (3, 0x100)]) 48 0x200000E18491 (fun t =>
      (List.range 4).map (fun k => Memory.read t.mem (0x106 + k)) == [0, 0xEF, 0xCD, 0]) = true := by decide

/-- 45 R700; 95 V6. -/
theorem test_llal :
    stepsTo (put { plain with segs := plain.segs.set 1 ⟨0, some { flat with o0 := 0x400000 }⟩ } [(1, 0x1000)])
      48 0x200002008688 (fun t => t.reg 3 == 0x401010) = true := by decide

/-! ### Branches (95 V7, K6 to K9) -/

/-- The plain state at $1000, whose code is fetched through CS. -/
def at1000 : State := plain.setIp 0x1000

/-- 46 R746, R780: DBEQ writes the link and the count although LC = 0 takes no branch, DBRA the count. -/
theorem test_counting_branches :
    stepsTo at1000 48 0xFFFFE040A236 (fun t =>
      (t.codeAddr 1).off == 0x1006 && t.lc == -1 && t.ip == 0x1006) = true ∧
    stepsTo at1000 48 0xFFFFFFFFA030 (fun t => t.lc == -1 && t.ip == 0x1006) = true := by decide

theorem test_branches :
    stepsTo (put at1000 [(1, 5), (2, 5)]) 48 0x0001E040C026 (fun t => t.ip == 0x1018) = true ∧
    stepsTo (put at1000 [(1, 5), (2, 6)]) 48 0x0001E040C026 (fun t => t.ip == 0x1006) = true ∧
    stepsTo (put at1000 [(1, -1)]) 48 0x0001FFE0C026 (fun t => t.ip == 0x1018) = true ∧
    stepsTo (put at1000 [(1, 1), (2, -1)]) 48 0x0001E040C02C (fun t => t.ip == 0x1018) = true ∧
    stepsTo (put at1000 [(1, 1), (2, -1)]) 48 0x0001E040C028 (fun t => t.ip == 0x1006) = true ∧
    stepsTo (put at1000 [(1, 0x20)]) 48 0x0001F0A0C025 (fun t => t.ip == 0x1018) = true := by decide

theorem test_branches_zero :
    stepsTo at1000 32 0xE020C010 (fun t => t.ip == 0x1018) = true ∧
    stepsTo (put at1000 [(1, 1)]) 32 0xFFE0C012 (fun t => t.ip == 0x0FF8) = true ∧
    stepsTo at1000 48 0x0000E000C020 (fun t => t.ip == 0x1018) = true := by decide

/-- 46 R746, R771; 95 K8: the link register is written also where the branch is not taken. -/
theorem test_branch_links :
    stepsTo (plain.setIp 0x2000) 48 0x0000E0800220 (fun t => t.ip == 0x3000 && t.codeAddr 1 == ⟨0x2006, 0⟩) = true ∧
    stepsTo (put at1000 [(1, 5)]) 48 0x0001E040C226 (fun t => t.ip == 0x1006 && t.codeAddr 1 == ⟨0x1006, 0⟩) = true := by
  decide

/-- 46 R780; 95 K7. -/
theorem test_loop_counter :
    stepsTo (at1000.setLc 2) 48 0xFFFFFFFFA030 (fun t => t.ip == 0x0FF4 && t.lc == 1) = true ∧
    stepsTo (at1000.setLc 0) 48 0xFFFFFFFFA030 (fun t => t.ip == 0x1006 && t.lc == BitVec.allOnes 64) = true := by decide

/-- 46 R748; 95 K6: a branch to itself takes BT. -/
theorem test_branch_to_itself :
    stepsTo at1000 48 0x0000E0000020 (fun t => t.csr.cause.get 3 == 55 && t.codeAddr 6 == ⟨0x1000, 0⟩) = true := by decide

/-- 46 R773, R805; 95 V7. -/
theorem test_jsr_rts :
    stepsTo at1000 48 0x048D02B3C220 (fun t => t.ip == 0x12345678) = true ∧
    stepsTo (put (at1000.setCodeAddr 1 ⟨0x2006, 0⟩) [(27, 0x7FF0)]) 32 0x000402F2
      (fun t => t.ip == 0x2006 && t.reg 27 == 0x8000) = true := by decide

/-- 10_state R41; 95 K9. -/
theorem test_nop_wraps : stepsTo (plain.setIp 0xFFFFFE) 16 0x00F1 (fun t => t.ip == 0) = true := by decide

/-! ### System (95 V8, K13 to K15) -/

/-- 60 R1020; 95 P3: what SYS saves. -/
theorem test_sys : stepsTo State.reset 32 0x0001E0A5 (fun t => t.csr.cause.get 3 == 240 &&
    t.codeAddr 6 == ⟨0xFFFFFFFFFFFC0104, 0⟩ && t.csr.badInstr == 0x1E0A5 && t.ip == 0x60 &&
    t.mode.pmStack == 0x3F3F3F3F3F3F3F3F) = true := by decide

/-- 47 R825; 95 K13. -/
theorem test_int :
    stepsTo user 32 0x000706A6 (fun t => t.csr.cause.get 3 == 0x83 && t.ipl == 3 && t.om == 3) = true ∧
    stepsTo plain 32 0x000706A6 (fun t => t.ip == 0xFFFFFFFFFFFC0104) = true := by decide

/-- 47 R823. -/
theorem test_brk : stepsTo plain 16 0 (fun t => t.mode.dbg && t.csr.cause.get 3 == 0) = true := by decide

/-- 47 R826, R827, R828. -/
theorem test_di_pfi_sei :
    stepsTo plain 48 0x2C0010A00007 (fun t => t.mode.diCount == 5) = true ∧
    stepsTo { plain with inputs := ⟨2, 131, false, 0⟩ } 48 0x220000000607
      (fun t => t.reg 3 == 0x283 && t.csr.cause.get 3 == 131) = true ∧
    stepsTo plain 48 0x2E0010600607 (fun t => t.reg 3 == 7 && t.ipl == 3) = true := by decide

/-- 47 R832, R833. -/
theorem test_selectors :
    stepsTo { plain with segs := plain.segs.set 2 ⟨0x1234, some flat⟩ } 48 0x500010400607 (fun t => t.reg 3 == 0x1234) =
      true ∧
    stepsTo (put plain [(1, 5)]) 48 0x520010208007 (fun t => (t.selector 1).sel == 5) = true := by decide

/-- 47 R844; 95 K10, V8. -/
theorem test_rte :
    stepsTo ({ plain with sema := 0x21 }.setCodeAddr 6 ⟨0x2000, 0⟩) 48 0x260010A00007
      (fun t => t.ip == 0x2000 && t.sema == 0 && t.mode.pmStack == 0x3F3F3F3F3F3F3F3F) = true := by decide

/-- 47 R850; 95 V8. -/
theorem test_tlbrw : stepsTo (put plain [(1, 0x8000000000000405), (2, 0x0100000004000012)]) 48 0x3C0000408607
    (fun t => t.tlbEntry 1 5 == 0x0100000004000012 && t.reg 3 == 0) = true := by decide

/-- 47 R822; 95 K14: a machine register in user mode. -/
theorem test_csr_privilege :
    stepsTo (put user [(3, 7)]) 48 0x00060020060F (fun t => t.csr.cause.get 3 == 53 && t.reg 3 == 7 && t.om == 3) = true ∧
    stepsTo user 48 0x00000280060F (fun t => t.om == 0) = true := by decide

/-- 47 R836, R837. -/
theorem test_queue :
    stepsTo (put plain [(1, 0x55)]) 48 0x100010208007 (fun t => t.queues.get 1 == [0x55]) = true ∧
    stepsTo { plain with queues := plain.queues.set 15 [7, 8] } 48 0x120011E00607
      (fun t => t.reg 3 == 7 && t.queues.get 15 == [8]) = true := by decide

/-- 60 R1015; 95 K15: an unimplemented root. -/
theorem test_unimplemented : stepsTo plain 16 0x4A (fun t => t.csr.cause.get 3 == 37 &&
    (t.codeAddr 6).off == 0xFFFFFFFFFFFC0100) = true := by decide

/-! ### Vectors and masks (95 V9, K17) -/

theorem test_vector_add :
    stepsTo vectors 48 0x086008408702 (fun t => firstOf t 3 5 == [11, 0, 33, 0, 9]) = true ∧
    stepsTo (put vectors [(2, 100)]) 48 0x080000408702 (fun t => firstOf t 3 5 == [101, 102, 103, 104, 9]) = true := by
  decide

theorem test_vector_moves :
    stepsTo { vectors with vregs := vectors.vregs.set 1 (elements [1, 0, 3, 2]) } 48 0x7A0010008602
      (fun t => t.reg 3 == 5) = true ∧
    stepsTo (put vectors [(1, 0xA)]) 48 0x5A1010208702 (fun t => firstOf t 3 5 == [0, 1, 0, 1, 9]) = true ∧
    stepsTo (put vectors [(1, 2), (2, 99)]) 48 0x760000408702 (fun t => firstOf t 3 4 == [9, 9, 99, 9]) = true ∧
    stepsTo (put vectors [(1, 1)]) 48 0x740008408602 (fun t => t.reg 3 == 20) = true := by decide

theorem test_vector_index :
    stepsTo (put vectors [(1, 8), (2, 0x1000)]) 48 0x780000408702
      (fun t => firstOf t 3 5 == [0x1000, 0x1008, 0x1010, 0x1018, 9]) = true ∧
    stepsTo (put { vectors with masks := vectors.masks.set 0 5 } [(1, 8), (2, 0x1000)]) 48 0x780000408702
      (fun t => firstOf t 3 5 == [0x1000, 0x1008, 9, 9, 9]) = true := by decide

theorem test_vector_compress_scan :
    stepsTo { vectors with masks := vectors.masks.set 1 0xA } 32 0x58408701 (fun t => firstOf t 3 4 == [2, 4, 9, 9]) = true ∧
    stepsTo (put { vectors with masks := vectors.masks.set 1 0xB } [(1, 8)]) 32 0x3C408701
      (fun t => firstOf t 3 4 == [0, 8, 16, 16]) = true := by decide

/-- 48 R884: an indexed load and store whose element 2 faults keep element 0, leave D_VSTEP at 2 and return to
themselves. -/
theorem test_vector_stops :
    stepsTo faulty 48 0x2001684087B6 (fun t => t.csr.vstep == 2 && (t.codeAddr 6).off == State.reset.ip &&
      firstOf t 3 5 == [0, 9, 9, 9, 9]) = true ∧
    stepsTo faulty 48 0x2001684087C3 (fun t => t.csr.vstep == 2 && (t.codeAddr 6).off == State.reset.ip &&
      Memory.read t.mem 80 == 9 && Memory.read t.mem 240 == 0) = true := by decide

theorem test_vector_slide :
    stepsTo vectors 48 0x700010208702 (fun t => firstOf t 3 5 == [0, 1, 2, 3, 9]) = true ∧
    stepsTo vectors 48 0x720010208702 (fun t => firstOf t 3 5 == [2, 3, 4, 0, 9]) = true := by decide

set_option maxRecDepth 4000 in
theorem test_masks :
    stepsTo vectors 32 0x00211652 (fun t => t.mask 3 == 15) = true ∧
    stepsTo { vectors with masks := vectors.masks.set 2 0x28 } 32 0x00710252 (fun t => t.reg 1 == 3) = true ∧
    stepsTo { vectors with masks := vectors.masks.set 2 0x28 } 32 0x00790252 (fun t => t.reg 1 == 5) = true ∧
    stepsTo { vectors with masks := vectors.masks.set 1 0xF0 } 32 0x00E21652 (fun t => t.mask 3 == 0xF00) = true ∧
    stepsTo { vectors with masks := vectors.masks.set 1 0xF0 } 32 0x00F21652 (fun t => t.mask 3 == 0xF) = true ∧
    stepsTo { vectors with masks := vectors.masks.set 1 0xF0 } 32 0x00EF9652 (fun t => t.mask 3 == 0x7800000000) = true ∧
    stepsTo vectors 32 0x002C4653 (fun t => t.mask 3 == 0xFF0) = true := by decide

/-- 48 R899; 95 K18: SYNC settles VL. -/
theorem test_vl :
    stepsTo (put vectors [(1, 9)]) 32 0x00901052 (fun t => t.vl == 9 && t.pending.vl == [4]) = true ∧
    stepsTo { vectors with pending := ⟨[9], [], []⟩ } 16 0x00F7 (fun t => t.pending.vl == []) = true := by decide

/-! ### Neurons and prefixes (95 V10, V11, K5) -/

/-- 49 R955. -/
theorem test_nna_weight :
    stepsTo (put plain [(1, 0x00018000), (2, 0x0000000300000010)]) 48 0xC00000408402 (fun t =>
      t.reg 2 == 0x0000000300000011 && sparseGet 0 (t.nna.get 1).weights 16 == 0x00018000 &&
        sparseGet 0 (t.nna.get 2).weights 16 == 0) = true := by decide

/-- The bytes of two instructions where the machine fetches. -/
def pair (s : State) (l : List Byte) : State := placeBytes s s.ip l s

theorem test_prefixes :
    (match step (pair (put plain [(1, 1)]) [0x46, 0x48, 0xD4, 0x86, 0x00, 0xCF, 0x8A, 0x06]) with
      | .next t => t.reg 3 == 0x12345679 && t.ip == 0xFFFFFFFFFFFC0108
      | _ => false) = true ∧
    (match step (pair plain [0x7C, 0x76, 0x98, 0xBA, 0xDC, 0xFE, 0xD4, 0x06, 0x00, 0x42, 0x86, 0x0A]) with
      | .next t => t.reg 3 == 0xFEDCBA9876543210 && t.ip == 0xFFFFFFFFFFFC010C
      | _ => false) = true ∧
    (match step (pair plain [0x7F, 0x88, 0x67, 0x45, 0x23, 0x01, 0xD4, 0x04, 0xE0, 0xBD, 0x79, 0x05]) with
      | .next t => t.reg 2 == 0x0123456789ABCDEF
      | _ => false) = true := by decide

/-! ### The statements' hypotheses are met

One theorem or more for each statement that has hypotheses, one conjunct or more for each of its clauses. -/

/-- The operation answers. -/
def answers {α : Type} : Res α → Bool
  | .ok _ _ => true
  | _ => false

/-- The operation raises. -/
def raises {α : Type} : Res α → Bool
  | .trap _ _ => true
  | _ => false

theorem exists_answer {α : Type} {r : Res α} (h : answers r = true) : ∃ a s, r = .ok a s := by
  cases r with
  | ok a s => exact ⟨a, s, rfl⟩
  | trap e s => cases h
  | stop e => cases h

theorem exists_raise {α : Type} {r : Res α} (h : raises r = true) : ∃ e s, r = .trap e s := by
  cases r with
  | ok a s => cases h
  | trap e s => exact ⟨e, s, rfl⟩
  | stop e => cases h

/-- The first answers and the second, after it, raises. -/
theorem exists_answer_raise {α : Type} {r : Res Unit} {k : State → Res α}
    (h : (match r with | .ok () u => raises (k u) | _ => false) = true) : ∃ u t e, r = .ok () u ∧ k u = .trap e t := by
  cases r with
  | ok a u => obtain ⟨e, t, ht⟩ := exists_raise h; exact ⟨u, t, e, rfl, ht⟩
  | trap e t => cases h
  | stop e => cases h

/-- The outcome is a next state. -/
def goesOn : Outcome → Bool
  | .next _ => true
  | _ => false

theorem exists_next {o : Outcome} (h : goesOn o = true) : ∃ t, o = .next t := by
  cases o with
  | next t => exact ⟨t, rfl⟩
  | fault r => cases h
  | refused r => cases h

/-- The circumstances of an access are plain, as one computation. -/
def plainHere (s : State) (k : Access) (seg : Nat) (base va : Word) (n : Nat) : Bool :=
  decide (s.pending.sel = []) && !s.checksKeys &&
  (match (s.selector seg).desc with
   | some d => d.o0 == base &&
      (!s.pe || (k.segmentRight d && (List.range n).all fun j => (segmentBounds d (va + BitVec.ofNat 64 j)).isNone))
   | none => false) &&
  (List.range n).all fun j =>
    let pa := linearAddress base va + BitVec.ofNat 64 j
    !s.translates pa && decide (platformKind s.config.platformMap pa.toNat = .memory) &&
    ((List.range 4).all fun r => !debugMatchesData s (decide (k = .store)) (va + BitVec.ofNat 64 j) r) &&
    match pmaAttributes s.config.pmaTable pa.toNat with
    | some a => k.pmaRight a
    | none => false

theorem plain_of {s : State} {k : Access} {seg : Nat} {base va : Word} {n : Nat}
    (h : plainHere s k seg base va n = true) : s.Plain k seg base va n := by
  simp only [plainHere, Bool.and_eq_true, decide_eq_true_eq, List.all_eq_true, List.mem_range, Bool.not_eq_true']
    at h
  obtain ⟨⟨⟨hs, hk⟩, hd⟩, hj⟩ := h
  refine ⟨hs, ?_, fun j h => (hj j h).1.1.1, hk, fun j h r hr => (hj j h).1.2 r hr, fun j h => ?_,
    fun j h => (hj j h).1.1.2⟩
  · revert hd
    cases hc : (s.selector seg).desc with
    | none => intro hd; cases hd
    | some d =>
      intro hd
      simp only [Bool.and_eq_true, Bool.or_eq_true, Bool.not_eq_true', beq_iff_eq, List.all_eq_true, List.mem_range,
        Option.isNone_iff_eq_none] at hd
      refine ⟨d, rfl, hd.1, fun hp => ?_⟩
      rcases hd.2 with h | h
      · rw [hp] at h; cases h
      · exact h
  · have := (hj j h).2
    revert this
    cases pmaAttributes s.config.pmaTable (linearAddress base va + BitVec.ofNat 64 j).toNat with
    | none => intro h; cases h
    | some a => intro h; exact ⟨a, rfl, h⟩

/-- The steps of the path of an access, one after the other, as one operation that answers the physical address. -/
def along (s : State) (k : Access) (seg : Nat) (va : Word) (n : Nat) : Res Word :=
  (s.debugStep k va n).bind fun _ s1 => (s1.segment k seg va).bind fun la s2 =>
    (s2.translate k va la).bind fun pa s3 => (s3.checkKey va pa).bind fun _ s4 =>
      (s4.checkPma k va pa).bind fun _ s5 => (s5.busAnswers k va pa n).bind fun _ s6 => .ok pa s6

theorem passes_of_bind {α β : Type} {r : Res α} {k : α → State → Res β} {b : β} {t : State} (h : r.bind k = .ok b t) :
    r.Passes fun a s => k a s = .ok b t := by
  cases r with
  | ok a s => exact ⟨a, s, rfl, h⟩
  | trap e s => cases h
  | stop e => cases h

theorem failsOr_of_bind {α β : Type} {r : Res α} {k : α → State → Res β} {f : Exc ⊕ Halt}
    (h : (r.bind k).failure = some f) : r.FailsOr f fun a s => (k a s).failure = some f := by
  cases r with
  | ok a s => exact .inr ⟨a, s, rfl, h⟩
  | trap e s => exact .inl h
  | stop e => exact .inl h

/-- The address that an operation answers. -/
def endsAt (r : Res Word) (pa : Word) : Bool :=
  match r with
  | .ok p _ => p == pa
  | _ => false

/-- The cause that an operation raises. -/
def raisesCause {α : Type} (r : Res α) (c : BitVec 8) : Bool :=
  match r with
  | .trap e _ => e.cause == c
  | _ => false

theorem pathTo_of {s : State} {k : Access} {seg : Nat} {va : Word} {n : Nat} {pa : Word}
    (h : endsAt (along s k seg va n) pa = true) : ∃ t, s.PathTo k seg va n pa t := by
  revert h
  cases hr : along s k seg va n with
  | trap e t => intro h; cases h
  | stop e => intro h; cases h
  | ok p t =>
    intro h
    obtain rfl : p = pa := by simpa [endsAt] using h
    obtain ⟨_, s1, h1, hr⟩ := passes_of_bind hr
    obtain ⟨la, s2, h2, hr⟩ := passes_of_bind hr
    obtain ⟨q, s3, h3, hr⟩ := passes_of_bind hr
    obtain ⟨_, s4, h4, hr⟩ := passes_of_bind hr
    obtain ⟨_, s5, h5, hr⟩ := passes_of_bind hr
    obtain ⟨_, s6, h6, hr⟩ := passes_of_bind hr
    cases hr
    exact ⟨t, _, s1, h1, la, s2, h2, _, s3, h3, _, s4, h4, _, s5, h5, _, t, h6, rfl, rfl⟩

theorem pathFails_of {s : State} {k : Access} {seg : Nat} {va : Word} {n : Nat} {c : BitVec 8}
    (h : raisesCause (along s k seg va n) c = true) : ∃ e, e.cause = c ∧ s.PathFails k seg va n (.inl e) := by
  revert h
  cases hr : along s k seg va n with
  | ok p t => intro h; cases h
  | stop e => intro h; cases h
  | trap e t =>
    intro h
    refine ⟨e, by simpa [raisesCause] using h, ?_⟩
    have hf : (along s k seg va n).failure = some (.inl e) := by rw [hr]; rfl
    refine (failsOr_of_bind hf).imp_right fun ⟨_, s1, h1, hf⟩ => ⟨_, s1, h1, ?_⟩
    refine (failsOr_of_bind hf).imp_right fun ⟨_, s2, h2, hf⟩ => ⟨_, s2, h2, ?_⟩
    refine (failsOr_of_bind hf).imp_right fun ⟨_, s3, h3, hf⟩ => ⟨_, s3, h3, ?_⟩
    refine (failsOr_of_bind hf).imp_right fun ⟨_, s4, h4, hf⟩ => ⟨_, s4, h4, ?_⟩
    refine (failsOr_of_bind hf).imp_right fun ⟨_, s5, h5, hf⟩ => ⟨_, s5, h5, ?_⟩
    rcases failsOr_of_bind hf with hf | ⟨_, _, _, hf⟩
    · exact hf
    · cases hf

/-- The states that operations made one after the other go through. -/
def chain {α : Type} (op : Nat → State → Res α) (s : State) : Nat → State
  | 0 => s
  | j + 1 => match op j (chain op s j) with
    | .ok _ t => t
    | _ => chain op s j

/-- What each of them answers. -/
def chainGot {α : Type} (other : α) (op : Nat → State → Res α) (s : State) (j : Nat) : α :=
  match op j (chain op s j) with
  | .ok a _ => a
  | _ => other

theorem chain_of {α : Type} (other : α) (op : Nat → State → Res α) (s : State) (n : Nat)
    (h : ((List.range n).all fun j => answers (op j (chain op s j))) = true) :
    ∀ j < n, op j (chain op s j) = .ok (chainGot other op s j) (chain op s (j + 1)) := by
  intro j hj
  obtain ⟨a, t, e⟩ := exists_answer (List.all_eq_true.1 h j (List.mem_range.2 hj))
  rw [chainGot, chain, e]

/-! #### Decoding and stepping -/

theorem witness_DecodeEncode : WellFormed (.add ⟨1, 63, 63, 63, 3, 63, 3, 1, 7⟩) ∧
    WellFormed (.slei ⟨1, 63, 63, 0x3FE⟩) ∧ WellFormed (.exi55 ⟨1, -1⟩) := by unfold WellFormed; decide

/-- ADD's group with the unlisted code 7 and with the highest one, RTE with bit 8 set, VSCAN with bit 8 clear, and a CSR
word with operation 4. -/
theorem witness_DecodeRejects : lengthOf 0x4A = none ∧ (lengthOf 0x02 = some 6 ∧ [0, 0, 0, 0].length + 1 < 6) ∧
    (rootOf 0x200002008780 = 0x80 ∧ vectorBitOf 0x200002008780 = 1#1) ∧
    (let within := fun (groups : List (Byte × Nat × Nat × List Nat)) (w : Word) (listed : Bool) =>
       groups.any fun e => rootOf w == e.1 && e.2.2.2.contains (w.toNat / 2 ^ e.2.1 % 2 ^ e.2.2.1) == listed
     within functionCodes 0x0E0000408602 false = true ∧ within functionCodes 0xFE0000408602 false = true ∧
     (within scalarCodes 0x260000000107 true = true ∧ vectorBitOf 0x260000000107 = 1#1) ∧
     (within vectorCodes 0x3C008601 true = true ∧ vectorBitOf 0x3C008601 = 0#1) ∧
     rootOf 0x08000000000F = 0x0F#8 ∧ 4 ≤ (0x08000000000F : Word).toNat / 2 ^ 41 % 8 ∧
       vectorBitOf 0x08000000000F = 0#1) := by decide

/-- What a plain fetch needs, at both kinds of address. -/
def fetchable (s : State) (pa : Nat → Word) : Bool :=
  (List.range 8).all fun k => !s.translates (pa k) && decide (platformKind s.config.platformMap (pa k).toNat = .memory) &&
    match pmaAttributes s.config.pmaTable (pa k).toNat with
    | some a => Access.pmaRight .fetch a
    | none => false

theorem fetchable_of {s : State} {pa : Nat → Word} (h : fetchable s pa = true) :
    ∀ k < 8, s.translates (pa k) = false ∧ platformKind s.config.platformMap (pa k).toNat = .memory ∧
      ∃ a, pmaAttributes s.config.pmaTable (pa k).toNat = some a ∧ Access.pmaRight .fetch a = true := by
  intro k hk
  simp only [fetchable, List.all_eq_true, List.mem_range, Bool.and_eq_true, Bool.not_eq_true', decide_eq_true_eq] at h
  obtain ⟨⟨h1, h2⟩, h3⟩ := h k hk
  refine ⟨h1, h2, ?_⟩
  revert h3
  cases pmaAttributes s.config.pmaTable (pa k).toNat with
  | none => intro h; cases h
  | some a => intro h; exact ⟨a, rfl, h⟩

/-- At $1000 with an old byte that the fetch may see at the third address and one that it may not see elsewhere. -/
def aged : State := { at1000.beginFetch with stale := [⟨0x1002, 5, false⟩, ⟨0x2000, 6, false⟩] }

/-- The address of a code segment at its base, and the top of memory where no segment applies, with no old bytes at the
addresses and with one. Before the first load of CS the base is unspecified, so a state through it has no concrete
address. -/
theorem witness_FetchReadsMemory :
    (State.reset.pe = false ∧
      State.reset.ip.extractLsb' 60 4 = 0xF#4 ∧
      (∀ k < 8, State.reset.translates (nextIp State.reset.ip k) = false ∧
        platformKind State.reset.config.platformMap (nextIp State.reset.ip k).toNat = .memory ∧
        ∃ a, pmaAttributes State.reset.config.pmaTable (nextIp State.reset.ip k).toNat = some a ∧
          Access.pmaRight .fetch a = true) ∧
      ∀ k < 8, ∀ e ∈ State.reset.stale, e.addr ≠ (nextIp State.reset.ip k).toNat) ∧
    (let s := aged
     s.pe = false ∧ s.ip.extractLsb' 60 4 ≠ 0xF#4 ∧ (s.cached 7 s.fetching.cs).o0 = flat.o0 ∧
      (∀ k < 8, s.translates (linearAddress flat.o0 (nextIp s.ip k)) = false ∧
        platformKind s.config.platformMap (linearAddress flat.o0 (nextIp s.ip k)).toNat = .memory ∧
        ∃ a, pmaAttributes s.config.pmaTable (linearAddress flat.o0 (nextIp s.ip k)).toNat = some a ∧
          Access.pmaRight .fetch a = true) ∧
      (∃ e ∈ s.stale, e.addr = (linearAddress flat.o0 (nextIp s.ip 2)).toNat ∧ e.old ≠ Memory.read s.mem e.addr) ∧
      ∀ k < 2, ∀ e ∈ s.stale, e.addr ≠ (linearAddress flat.o0 (nextIp s.ip k)).toNat) :=
  ⟨⟨by decide, by decide, fetchable_of (by decide), by decide⟩,
    by decide, by decide, by decide, fetchable_of (by decide), by decide, by decide⟩

/-- Reset, with an ADD where it fetches. -/
def placed : State := State.reset.withFetchWord 48 0x080080408602

/-- An instruction match that finds nothing leaves the state. -/
theorem matches_nothing {s : State} (h : matchBits (debugMatchesFetch s) = 0#4) : s.instructionMatch = .ok () s := by
  unfold State.instructionMatch
  rw [if_pos h]

/-- A state whose core is about to fetch. -/
def ready (s : State) : Bool :=
  decide (s.env = []) && !s.mode.waiting && !s.inputs.nmi && !s.recognised && !s.mode.stepPending &&
    decide (matchBits (debugMatchesFetch s) = 0#4) && decide (s.pending.sel = []) &&
    decide (s.fetching = ⟨s.selector 7, []⟩)

theorem reaches_of {s : State} (h : ready s = true) : s.Reaches s ∧ { s with env := [.core] }.Reaches s := by
  simp only [ready, Bool.and_eq_true, decide_eq_true_eq, Bool.not_eq_true'] at h
  obtain ⟨⟨⟨⟨⟨⟨⟨h1, h2⟩, h3⟩, h4⟩, h5⟩, h6⟩, h7⟩, h8⟩ := h
  have e : ∀ l : List Event, l = [] → { s with env := l } = s := by intro l hl; rw [hl, ← h1]
  have hm : ∃ v, s.instructionMatch = .ok () v ∧ s = v.beginFetch :=
    ⟨s, matches_nothing h6, (State.beginFetch_settled s h7 h8).symm⟩
  refine ⟨⟨.inl h1, h2, h3, h4, h5, ?_⟩, ⟨.inr rfl, h2, h3, h4, h5, ?_⟩⟩
  · rw [e _ (by rw [h1]; rfl)]; exact hm
  · show ∃ v, State.instructionMatch { s with env := [] } = _ ∧ _
    rw [e _ rfl]; exact hm

/-- The bytes that a fetch answers. -/
def fetched (s : State) : List Byte :=
  match s.fetchInstruction s.ip with
  | .ok bs _ => bs
  | _ => []

/-- A fetch answers these bytes. -/
theorem exists_fetch {s : State} (bs : List Byte) (h : answers (s.fetchInstruction s.ip) = true) (hb : fetched s = bs) :
    ∃ u, s.fetchInstruction s.ip = .ok bs u := by
  obtain ⟨b, u, e⟩ := exists_answer h
  refine ⟨u, ?_⟩
  unfold fetched at hb
  rw [e] at hb ⊢
  rw [← hb]

theorem witness_StepRunsDecoded : placed.Reaches placed ∧ placed.ip.getLsbD 0 = false ∧
    (∃ s2, placed.fetchInstruction placed.ip = .ok [0x02, 0x86, 0x40, 0x80, 0x00, 0x08] s2) ∧
    decode [0x02, 0x86, 0x40, 0x80, 0x00, 0x08] = .ok (.add ⟨0, 3, 1, 2, 0, 4, 0, 0, 0⟩, 6) ∧
    WellFormed (.add ⟨0, 3, 1, 2, 0, 4, 0, 0, 0⟩) ∧ { placed with env := [.core] }.Reaches placed :=
  ⟨(reaches_of (by decide)).1, by decide, exists_fetch _ (by decide) (by decide), by decide,
    by unfold WellFormed; decide, (reaches_of (by decide)).2⟩

/-- Reset on a platform where no address may be fetched. -/
def unfetchable : State :=
  { State.reset with config := { State.reset.config with pmaTable := Vector.replicate 8 Config.PmaRegion.empty } }

theorem witness_StepWithoutInstruction :
    ((State.reset.setIp 0xFFFFFFFFFFFC0101).Reaches (State.reset.setIp 0xFFFFFFFFFFFC0101) ∧
      (State.reset.setIp 0xFFFFFFFFFFFC0101).ip.getLsbD 0 = true) ∧
    (unfetchable.Reaches unfetchable ∧ ∃ e s2, unfetchable.fetchInstruction unfetchable.ip = .trap e s2) ∧
    ((State.reset.withFetchWord 16 0x4A).Reaches (State.reset.withFetchWord 16 0x4A) ∧
      (∃ s2, (State.reset.withFetchWord 16 0x4A).fetchInstruction State.reset.ip = .ok [0x4A, 0] s2) ∧
      decode [0x4A, 0] = .reject (.unimplementedRoot 0x4A)) ∧
    ((State.reset.withFetchWord 48 0x08000000000F).Reaches (State.reset.withFetchWord 48 0x08000000000F) ∧
      (∃ s2, (State.reset.withFetchWord 48 0x08000000000F).fetchInstruction State.reset.ip = .ok [0x0F, 0, 0, 0, 0, 8] s2) ∧
      decode [0x0F, 0, 0, 0, 0, 8] = .reject .reservedCsrOp) ∧
    ((State.reset.withFetchWord 16 0x02F1).Reaches (State.reset.withFetchWord 16 0x02F1) ∧
      (∃ s2, (State.reset.withFetchWord 16 0x02F1).fetchInstruction State.reset.ip = .ok [0xF1, 2] s2) ∧
      decode [0xF1, 2] = .ok (.nop ⟨0, 1⟩, 2) ∧ WellFormed.check (.nop ⟨0, 1⟩) = some .noRoleField) :=
  ⟨⟨(reaches_of (by decide)).1, by decide⟩, ⟨(reaches_of (by decide)).1, exists_raise (by decide)⟩,
    ⟨(reaches_of (by decide)).1, exists_fetch _ (by decide) (by decide), by decide⟩,
    ⟨(reaches_of (by decide)).1, exists_fetch _ (by decide) (by decide), by decide⟩,
    (reaches_of (by decide)).1, exists_fetch _ (by decide) (by decide), by decide, by decide⟩

/-! #### Invariants and modes -/

/-- Reset with a NOP where it fetches satisfies the invariant and steps. -/
theorem witness_StepKeepsInv : ∃ s t : State, s.Inv ∧ step s = .next t := by
  refine ⟨State.reset.withFetchWord 16 0xF1, ?_⟩
  obtain ⟨t, h⟩ := exists_next (o := step (State.reset.withFetchWord 16 0xF1)) (by decide)
  exact ⟨t, ⟨by decide, by decide, by decide, by decide, by decide, by decide, by decide, by decide, by decide,
    by decide, by decide, fun n => ⟨by revert n; decide, by revert n; decide, by revert n; decide, by revert n; decide⟩⟩, h⟩

/-- In user mode a NOP goes on and a SYS traps. -/
theorem witness_UserModeLeftByTraps : user.om = 0#2 ∧ (∃ t, exec (.nop ⟨0, 0⟩) user = .next t) ∧
    ∃ t, exec (.sys ⟨240, 0⟩) user = .next t :=
  ⟨by decide, exists_next (by decide), exists_next (by decide)⟩

/-- The outcome is a next state in this mode. -/
def goesOnIn (m : BitVec 2) : Outcome → Bool
  | .next t => t.om == m
  | _ => false

theorem exists_next_in {o : Outcome} {m : BitVec 2} (h : goesOnIn m o = true) : ∃ t, o = .next t ∧ t.om = m := by
  cases o with
  | next t => exact ⟨t, rfl, eq_of_beq h⟩
  | fault r => cases h
  | refused r => cases h

/-- A write of U_SCRATCH, which stays in user mode, and one of M_SCRATCH, which traps. -/
theorem witness_UserModeKeepsMachineRegisters : user.om = 0#2 ∧
    (∃ t, exec (.csrrw ⟨3, 1, 0x0041, 0, 0, 0⟩) user = .next t ∧ t.om = 0#2) ∧
    ∃ t, exec (.csrrw ⟨3, 1, 0x3041, 0, 0, 0⟩) user = .next t ∧ t.om = 3#2 :=
  ⟨by decide, exists_next_in (by decide), exists_next_in (by decide)⟩

/-- User mode with a request of this level. -/
def asked (level : BitVec 3) : State := { user with inputs := ⟨level, 131, false, 0⟩ }

/-- A waiting core. -/
def waiting (s : State) : State := { s with mode := { s.mode with waiting := true } }

theorem witness_BetweenInstructions :
    ((waiting user).env = [] ∧ (waiting user).mode.waiting = true ∧ (waiting user).inputs.irqLevel = 0#3 ∧
      (waiting user).inputs.nmi = false) ∧
    ((waiting (asked 1)).mode.waiting = true ∧ (waiting (asked 1)).inputs.irqLevel ≠ 0#3) ∧
    ({ user with inputs := ⟨0, 0, true, 0⟩ }.mode.waiting = false ∧ { user with inputs := ⟨0, 0, true, 0⟩ }.inputs.nmi = true) ∧
    ((asked 1).mode.waiting = false ∧ (asked 1).inputs.nmi = false ∧ (asked 1).inputs.irqLevel ≠ 0#3 ∧ (asked 1).im = 0#1 ∧
      (asked 1).ipl < (asked 1).inputs.irqLevel ∧ (asked 1).mode.diCount = 0#3) ∧
    ((asked 0).inputs.irqLevel = 0#3 ∧ plain.im = 1#1 ∧
      { asked 3 with mode := { user.mode with pmStack := 6 } }.inputs.irqLevel ≤
        { asked 3 with mode := { user.mode with pmStack := 6 } }.ipl ∧
      { asked 3 with mode := { user.mode with diCount := 1 } }.mode.diCount ≠ 0#3) ∧
    (let s := { user with mode := { user.mode with stepPending := true } }
     s.mode.waiting = false ∧ s.inputs.nmi = false ∧ s.recognised = false ∧ s.mode.stepPending = true) := by decide

/-! #### Traps and returns -/

/-- A trap of SYS at reset, one of an interrupt of level 5 in user mode, and an exception raised with an address and
without one. -/
theorem witness_TrapEntry :
    (State.reset.pending.tvec = [] ∧ ∃ d u, (State.reset.saveForTrap ⟨240, 0, none, none, 0, false, false⟩).loadDescriptor
      (State.reset.csr.tvec.get 3).sel false = .ok d u) ∧
    (user.pending.tvec = [] ∧ ∃ d u, (user.saveForTrap ⟨131, 0, some 5, some 7, 0, true, true⟩).loadDescriptor
      (user.csr.tvec.get 3).sel false = .ok d u) ∧
    (∃ v, user.raise ⟨2, 0x70F0⟩ ⟨causeUNIMP, none, false⟩ = .next v) ∧
    (∃ v, user.raise ⟨2, 0x70F0⟩ ⟨causeCHK, some 8, false⟩ = .next v) ∧
    ∃ a v, user.takeTrap ⟨131, 0, some 5, none, 0, false, true⟩ = .ok a v :=
  ⟨⟨by decide, exists_answer (by decide)⟩, ⟨by decide, exists_answer (by decide)⟩, exists_next (by decide),
    exists_next (by decide), exists_answer (by decide)⟩

theorem witness_VectorAddress : user.pending.tvec = [] ∧
    ∃ v, user.takeTrap ⟨131, 0, some 5, none, 0, false, true⟩ = .ok () v := by
  refine ⟨by decide, ?_⟩
  obtain ⟨a, v, h⟩ := exists_answer (r := user.takeTrap ⟨131, 0, some 5, none, 0, false, true⟩) (by decide)
  exact ⟨v, h⟩

theorem witness_ReturnFromException :
    (opnd 1 4).scalar plain = none ∧ (opnd 2 5).scalar plain = some 5 ∧ user.om = 0#2 ∧ plain.om ≠ 0#2 ∧
      ∃ d u, (plain.restoreFromTrap ((5 : Word).extractLsb' 0 6)).loadDescriptor (plain.codeAddr 6).sel false = .ok d u :=
  ⟨by decide, by decide, by decide, by decide, exists_answer (by decide)⟩

theorem witness_TrapThenReturn : ∃ u v, user.takeTrap ⟨240, 0x1000, none, none, 0, false, false⟩ = .ok () u ∧
    u.returnFromTrap 4 5 = .ok () v := by
  obtain ⟨⟨⟩, v, h⟩ := exists_answer (r := (user.takeTrap ⟨240, 0x1000, none, none, 0, false, false⟩).bind
    fun _ u => u.returnFromTrap 4 5) (by decide)
  revert h
  cases h1 : user.takeTrap ⟨240, 0x1000, none, none, 0, false, false⟩ with
  | ok a u => intro h; exact ⟨u, v, rfl, h⟩
  | trap e s => intro h; cases h
  | stop e => intro h; cases h

theorem witness_SequentialAdvance : (plain.setIp 0xFFFFFFFFFFFFFFFE).ip = 0xFFFFFFFFFF#40 ++ 0xFFFFFE#24 := by decide

/-- Registers 27 and 1, in debug mode too. -/
theorem witness_GeneralRegisters : (1#6 ≠ 27 ∧ 1#6 ≠ 0) ∧ (27#6 ≠ 0) ∧ user.bank 28 ≠ user.bank 27 ∧
    { user with mode := { user.mode with dbg := true } }.bank 27 = 30 := by decide

/-! #### Operand forms -/

/-- Each operand record in its scalar form with registers and with immediates, in the form that names a vector register
where a scalar is read, and in its vector form with old values settled: what Computes, ComputesEach, ComputesFp and
Checks assume. -/
def formsMet (o : BitVec 1 → BitVec 2 → Operands) (vectorOperand : Bool) : Bool :=
  (o 0 0).v == 0#1 && ((o 0 0).a.scalar plain).isSome && ((o 0 0).b.scalar plain).isSome &&
  ((o 0 0).c.scalar plain).isSome && ((o 0 3).b.scalar plain).isSome && ((o 0 3).c.scalar plain).isSome &&
  (!vectorOperand || ((o 0 1).v == 0#1 && (((o 0 1).b.scalar plain).isNone || ((o 0 1).c.scalar plain).isNone))) &&
  (o 1 1).v == 1#1 && decide (vectors.pending.vl = []) && vectors.enabledList (o 1 1).m == [0, 1, 2, 3]

theorem witness_forms :
    formsMet (fun v _ => operandsR1 ⟨v, 3, 63, 0, 0⟩) false = true ∧
    formsMet (fun v t => operandsR2 ⟨v, 3, 63, 63, if t = 1#2 then 1 else 0, 0, 0⟩) true = true ∧
    formsMet (fun v t => operandsR3 ⟨v, 3, 63, 63, t, 63, t, 0, 0⟩) true = true ∧
    formsMet (fun v t => { operandsR3 ⟨v, 7, 63, 63, t, 63, t, 0, 0⟩ with rt := 0 }) true = true ∧
    formsMet (fun v t => operandsR3ScalarA ⟨v, 3, 63, 63, t, 63, t, 0, 0⟩) true = true ∧
    formsMet (fun v t => operandsR3P ⟨v, 3, 63, 63, t, 63, t, 0, 0, 0⟩) true = true ∧
    formsMet (fun v _ => operandsRI ⟨v, 3, 63, 0x7FF⟩ 0) false = true ∧
    formsMet (fun v _ => operandsRIL ⟨v, 3, 63, 0x7FFFFF, 0, 0⟩ 0) false = true ∧
    formsMet (fun v t => operandsFR2 ⟨v, 3, 63, 63, t, 0, 0, 0⟩) true = true ∧
    formsMet (fun v t => operandsFR2L ⟨v, 3, 63, 63, t, 0, 0, 7, 0⟩) true = true ∧
    formsMet (fun v t => operandsFR3 ⟨v, 3, 63, 63, t, 63, t, 0, 0, 7⟩) true = true ∧
    formsMet (fun v t => operandsFR3L ⟨v, 3, 63, 63, t, 63, t, 0, 0, 7, 0, 0⟩) true = true ∧
    formsMet (fun v t => ⟨v, 0, 0, 0, sourceReg v 63, opnd t 63, .imm (-1)⟩) true = true ∧
    formsMet (fun v _ => ⟨v, 0, 0, 3, .gpr 63, .imm 0, .imm 0⟩) false = true := by decide

/-- ComputesFp: division by zero with the condition enabled, in scalar form and at element 1 of a vector, and disabled; the
enabled elements 0 and 1, of which only 1 raises. -/
theorem witness_ComputesFp :
    (let r := fpDiv 0 0x3FF0000000000000 0
     fpRaises 0 r.conds.bits = false ∧ fpRaises (1 <<< 42) r.conds.bits = true) ∧
    (let quotient := fun x => fpDiv 0 0x3FF0000000000000 (if x = 1 then 0 else 0x3FF0000000000000)
     { vectors with masks := vectors.masks.set 0 3 }.enabledList 0 = [0, 1] ∧
     fpRaises (1 <<< 42) (quotient 0).conds.bits = false ∧ fpRaises (1 <<< 42) (quotient 1).conds.bits = true) := by decide

/-- CHK with the lower bound, the upper bound and a value beyond it, in scalar and in vector form. -/
theorem witness_ChecksAndSelects : boundsPass 0 0 0 5 = true ∧ boundsPass 0 5 0 5 = false ∧ boundsPass 1 5 0 5 = true ∧
    vectors.enabledList 0 = [0, 1, 2, 3] ∧
    ((∀ x ∈ [0, 1, 2, 3], boundsPass 0 (vectors.vec 1 x) 1 5 = true) ∧ boundsPass 0 (vectors.vec 1 3) 1 4 = false ∧
      ∀ y ∈ [0, 1, 2], boundsPass 0 (vectors.vec 1 y) 1 4 = true) := by decide

theorem witness_IntegerRules : (1 : Word) ≠ 0 ∧ (-1 : Word) ≠ 0 ∧
    ¬((0x8000000000000001 : Word) = 0x8000000000000000 ∧ (-1 : Word) = -1) := by decide

theorem witness_BitRules : ((0 : Word).clz.toNat = 64 ∧ (1 : Word).clz.toNat < 64 ∧ 0 < (1 : Word).clz.toNat) ∧
    ((∀ j < 2, (0x414243 : Word).extractLsb' (8 * j) 8 ≠ 0x41#8) ∧ (0x414243 : Word).extractLsb' (8 * 2) 8 = 0x41#8 ∧ 2 < 8) ∧
    (∀ i < 8, (0x4142434445464748 : Word).extractLsb' (8 * i) 8 ≠ 0#8) ∧ 0 ≤ 63 := by decide

/-- A field without a one and one whose highest one is neither its first nor its last bit; a proper and an improper
field; two BCD numbers and a byte that is none; the last of two digits. -/
theorem witness_BitRules_fields :
    ((∀ i < 8, 4 ≤ i → i ≤ 7 → (0xF0F : Word).getLsbD i = false) ∧ 4 ≤ 7 ∧ 7 < 64) ∧
    ((0x70 : Word).getLsbD 6 = true ∧ 4 ≤ 6 ∧ ∀ j < 8, 6 < j → j ≤ 7 → (0x70 : Word).getLsbD j = false) ∧
    ((5 : Word).toNat % 64 ≤ (5 : Word).toNat % 64 ∧ (4 : Word).toNat % 64 < (5 : Word).toNat % 64) ∧
    ((0x99 : Word).toNat % 256 = 16 * 9 + 9 ∧ (0x00 : Word).toNat % 256 = 16 * 0 + 0) ∧
    ((0x0A : Word).toNat % 256 = 16 * 0 + 10 ∧ 9 < 10) ∧ 1 < 2 := by decide

/-- The aliases' fields, with r1 in the free places. -/
theorem witness_AliasMeanings :
    (opnd 0 1).scalar plain = some 0 ∧
    (let f : Fmt.R3 := ⟨0, 3, 0, 1, 0, 0, 0, 0, 0⟩
     f.v = 0 ∧ f.ra = 0 ∧ f.tc = 0 ∧ f.rc = 0) ∧
    (let f : Fmt.R3 := ⟨0, 3, 1, 1, 2, 0, 2, 0, 0⟩
     f.v = 0 ∧ f.tb = 2 ∧ f.rb = 1 ∧ f.tc = 2 ∧ f.rc = 0) ∧
    (let f : Fmt.R3 := ⟨0, 3, 1, 1, 0, 1, 0, 0, 0⟩
     f.v = 0 ∧ f.tb = 0 ∧ f.rb = f.ra) ∧
    (let f : Fmt.R3 := ⟨0, 3, 1, 0, 2, 63, 2, 0, 0⟩
     f.v = 0 ∧ f.tb = 2 ∧ f.rb = 0 ∧ f.tc = 2 ∧ f.rc = 63) ∧
    (let f : Fmt.RI := ⟨0, 3, 0, 0x7FF⟩
     f.v = 0 ∧ f.ra = 0) := by decide

/-- 1.0, -1.0, both zeros, a quiet and a signalling NaN, and an infinity: the operands of every clause. -/
theorem witness_FpSpecialValues :
    ((fpUnpack 0x7FF8000000000000).isNaN = true ∧ (fpUnpack 0x7FF8000000000000).isSignalling = false ∧
      (fpUnpack 0x7FF0000000000001).isSignalling = true ∧ (fpUnpack 0x3FF0000000000000).isNaN = false ∧
      (fpUnpack (fpInf true)).isNaN = false) ∧
    (fpPlace 0x7FF8000000000000 = none ∧ fpPlace (fpInf true) = some (-1, 0) ∧ fpPlace 0 = some (0, 0)) ∧
    (fpNumber 0x3FF0000000000000 = some 1 ∧ fpNumber 0xBFF0000000000000 = some (-1) ∧ fpNumber 0 = some 0 ∧
      fpNumber 0x8000000000000000 = some 0 ∧ fpNumber (fpInf true) = none) ∧
    ((1 : Rat) + -1 = 0 ∧ (0 : Rat) + 0 = 0 ∧ (0 : Rat) * 1 = 0 ∧ (1 : Rat) * -1 + 1 = 0 ∧ (-1 : Rat) < 0 ∧
      (1 : Rat) ≠ 0) := by decide +kernel

/-- The numbers 1 and 2. -/
theorem witness_FpRounding :
    (1 : Word) ≠ 0 ∧ fpNumber 0x3FF0000000000000 = some 1 ∧ fpNumber 0x4000000000000000 = some 2 ∧
    ((0 : Rat) < 1 ∧ (1 : Rat) + 2 ≠ 0 ∧ (1 : Rat) - 2 ≠ 0 ∧ (1 : Rat) * 2 ≠ 0 ∧ (1 : Rat) * 2 + 2 ≠ 0) := by
  decide +kernel

/-- A NaN, a negative number, zero, the bounds of the single-precision range and a number beyond each, and numbers
beyond 8 on both sides. -/
theorem witness_FpEstimates :
    (fpUnpack 0x7FF8000000000000).isNaN = true ∧ (fpUnpack 0x7FF0000000000001).isSignalling = true ∧
    fpPlace 0xBFF0000000000000 = some (0, -1) ∧ fpPlace (fpInf false) = some (1, 0) ∧ fpNumber 0 = some 0 ∧
    (∃ x, fpNumber 0x3690000000000000 = some x ∧ 0 < x ∧ x < 2 ^ (-149 : Int)) ∧
    fpNumber 0x3810000000000000 = some (2 ^ (-126 : Int)) ∧
    fpNumber 0x47EFFFFFE0000000 = some (2 ^ (128 : Int) - 2 ^ (104 : Int)) ∧
    (∃ x, fpNumber 0x47EFFFFFE0000001 = some x ∧ 2 ^ (128 : Int) - 2 ^ (104 : Int) < x) ∧
    fpNumber 0xC022000000000000 = some (-9) ∧ fpNumber 0x4022000000000000 = some 9 :=
  ⟨by decide, by decide, by decide +kernel, by decide +kernel, by decide +kernel,
    ⟨2 ^ (-150 : Int), by decide +kernel, by decide +kernel, by decide +kernel⟩, by decide +kernel, by decide +kernel,
    ⟨2 ^ (128 : Int) - 2 ^ (104 : Int) + 2 ^ (75 : Int), by decide +kernel, by decide +kernel⟩, by decide +kernel,
    by decide +kernel⟩

/-- NaNs; the smallest integer, and the next number below it and 2^63; places below, equal and above each other. -/
theorem witness_FpConvertCompare :
    ((fpUnpack 0x7FF8000000000000).isNaN = true ∧ (fpUnpack 0x7FF0000000000001).isSignalling = true) ∧
    (let edge : Rat := 2 ^ (63 : Int)
     (fpNumber 0xC3E0000000000000 = some (-edge) ∧ -2 ^ 63 ≤ roundInt 0 (-edge) ∧ roundInt 0 (-edge) < 2 ^ 63) ∧
     (fpNumber 0xC3E0000000000001 = some (-edge - 2048) ∧ roundInt 0 (-edge - 2048) < -2 ^ 63) ∧
     (fpNumber 0x43E0000000000000 = some edge ∧ 2 ^ 63 ≤ roundInt 0 edge)) ∧
    (fpPlace 0xBFF0000000000000 = some (0, -1) ∧ fpPlace (fpInf true) = some (-1, 0) ∧
      fpPlace 0 = fpPlace 0x8000000000000000) ∧
    ((-1 : Int) < 0 ∧ (-1 : Rat) < 0) := by decide +kernel

/-- The values that every decimal format has: 1, 2, -1, zeros, infinities and a quiet NaN. Whether it has signalling NaNs
and numbers of 2^63 and more is the format's (93 U36), so those clauses have no witness of every format. -/
theorem witness_DecimalRules :
    let number := fun w => decNumber (Config.dval w)
    (Config.dval Config.dqnan = .qnan ∧ ¬(Config.dval Config.dfOne = .qnan ∨ Config.dval Config.dfOne = .snan)) ∧
    (∀ n, Config.dval (Config.dinf n) = .inf n) ∧
    (number Config.dfOne = some 1 ∧ number Config.dfMinusOne = some (-1) ∧ number Config.dfTwo = some 2 ∧
      number (Config.dzero false) = some 0) ∧
    ((1 : Rat) ≠ 0 ∧ (1 : Rat) + -1 = 0 ∧ (1 : Rat) * 2 ≠ 0 ∧ -2 ^ 63 ≤ roundInt 0 1 ∧ roundInt 0 1 < 2 ^ 63) ∧
    5#3 ≤ 5#3 := by
  simp only [Config.dval_dqnan, Config.dval_dfOne, Config.dval_dinf, Config.dval_dfMinusOne, Config.dval_dfTwo,
    Config.dval_dzero, decNumber]
  decide +kernel

theorem witness_StatusControl : fpRaises 0 31 = false ∧ fpRaises (1 <<< 42) 8 = true := by decide

/-! #### Memory -/

/-- The TLB of user mode maps page 1 with every right and page 2 with none. -/
def mapped : State :=
  { user with
    csr := { user.csr with asid := 1 }
    tlb := [(1, 0x0087000000000000), (2, 0x0080000000000000)] }

/-- Loads: aligned and misaligned, at the top of memory, with protection on, and a trap of an unmapped page. -/
theorem witness_LoadInstructions : plain.Plain .load 1 0 0x1010 8 ∧ plain.Plain .load 1 0 0x1011 8 ∧
    plain.Plain .load 6 0 0xFFFFFFFFFFFFFFF8 8 ∧ guarded.Plain .load 1 0 0x1010 8 ∧
    (∃ w t, plain.memRead 1 0x1010 8 = .ok w t) ∧ ∃ e t, mapped.memRead 1 0x400000 8 = .trap e t :=
  ⟨plain_of (by decide), plain_of (by decide), plain_of (by decide), plain_of (by decide), exists_answer (by decide),
    exists_raise (by decide)⟩

/-- Two enabled elements, whose addresses are plain and apart. -/
theorem witness_LoadInstructions_indexed :
    let f : Fmt.LSX := ⟨1, 3, 1, 2, 1, 3, 1, 0, 0, 0, 1⟩
    f.v = 1#1 ∧ vectors.pending.vl = [] ∧ ∀ x ∈ vectors.enabledList f.m, vectors.Plain .load f.sel.toNat 0 (vectors.elementAddress f x) 8 := by
  refine ⟨by decide, by decide, fun x hx => ?_⟩
  rw [show vectors.enabledList 1 = [0, 2] by decide] at hx
  simp only [List.mem_cons, List.not_mem_nil, or_false] at hx
  rcases hx with rfl | rfl
  · exact plain_of (by decide)
  · exact plain_of (by decide)

/-- The access of element 2 raises and that of element 0, the one enabled element below it, is plain. -/
theorem witness_LoadInstructions_stopped :
    let f : Fmt.LSX := ⟨1, 3, 1, 2, 1, 3, 1, 0, 0, 0, 1⟩
    f.v = 1#1 ∧ faulty.pending.vl = [] ∧ 2 ∈ faulty.enabledList f.m ∧
    (∀ y ∈ faulty.enabledList f.m, y < 2 → faulty.Plain .load f.sel.toNat 0 (faulty.elementAddress f y) 8) ∧
    ∃ e t, (faulty.setVec 3 0 0).memRead f.sel.toNat (faulty.elementAddress f 2) 8 = .trap e t := by
  refine ⟨by decide, by decide, by decide, fun y hy hlt => ?_, exists_raise (by decide)⟩
  rw [show faulty.enabledList 1 = [0, 2] by decide] at hy
  simp only [List.mem_cons, List.not_mem_nil, or_false] at hy
  rcases hy with rfl | rfl
  · exact plain_of (by decide)
  · exact absurd hlt (by decide)

theorem witness_Stores : Memory.wf plain.mem = true ∧ plain.Plain .store 1 0 0x1011 8 ∧
    (∃ t, plain.memWrite 1 0x1011 8 5 = .ok () t) ∧ (∃ e t, mapped.memWrite 1 0x2000 8 5 = .trap e t) ∧
    (opnd 0 63).scalar plain = some 0 ∧ (opnd 1 63).scalar plain = none := by
  refine ⟨by decide, plain_of (by decide), ?_, exists_raise (by decide), by decide, by decide⟩
  obtain ⟨⟨⟩, t, h⟩ := exists_answer (r := plain.memWrite 1 0x1011 8 5) (by decide)
  exact ⟨t, h⟩

theorem witness_IndexedStores :
    let f : Fmt.LSX := ⟨1, 3, 1, 2, 1, 3, 1, 0, 0, 0, 1⟩
    f.v = 1#1 ∧ vectors.pending.vl = [] ∧ Memory.wf vectors.mem = true ∧
    (∀ x ∈ vectors.enabledList f.m, vectors.Plain .store f.sel.toNat 0 (vectors.elementAddress f x) 8) ∧
    ∀ j < 8, ∀ k < 8, (linearAddress 0 (vectors.elementAddress f 0) + BitVec.ofNat 64 j).toNat ≠
      (linearAddress 0 (vectors.elementAddress f 2) + BitVec.ofNat 64 k).toNat := by
  refine ⟨by decide, by decide, by decide, fun x hx => ?_, by decide⟩
  rw [show vectors.enabledList 1 = [0, 2] by decide] at hx
  simp only [List.mem_cons, List.not_mem_nil, or_false] at hx
  rcases hx with rfl | rfl
  · exact plain_of (by decide)
  · exact plain_of (by decide)

/-- The access of element 2 raises, after the store of element 0 too, which is plain; and that of element 0 with none
below it. -/
theorem witness_IndexedStores_stopped :
    let f : Fmt.LSX := ⟨1, 3, 1, 2, 1, 3, 1, 0, 0, 0, 1⟩
    let below := (faulty.enabledList f.m).filter fun y => decide (y < 2)
    f.v = 1#1 ∧ faulty.pending.vl = [] ∧ Memory.wf faulty.mem = true ∧ 2 ∈ faulty.enabledList f.m ∧ below = [0] ∧
    (∀ y ∈ below, faulty.Plain .store f.sel.toNat 0 (faulty.elementAddress f y) 8) ∧
    (∃ u t e, faulty.memWrite f.sel.toNat (faulty.elementAddress f 0) 8 9 = .ok () u ∧
      u.memWrite f.sel.toNat (faulty.elementAddress f 2) 8 9 = .trap e t) ∧
    (faulty.setVstep 2).enabledList f.m = [2] := by
  refine ⟨by decide, by decide, by decide, by decide, by decide, fun y hy => ?_, ?_, by decide⟩
  · rw [show (faulty.enabledList 1).filter (fun y => decide (y < 2)) = [0] by decide] at hy
    rw [List.mem_singleton.1 hy]
    exact plain_of (by decide)
  · exact exists_answer_raise (by decide)

/-- A reservation at the address, and none. -/
theorem witness_ConditionalStores :
    let s : State := { plain with resv := some 0x1010 }
    s.resv = some 0x1010 ∧ s.resv ≠ some 0x1018 ∧ Memory.wf s.mem = true ∧ s.Plain .store 1 0 0x1010 8 ∧
    (∃ t, s.memWrite 1 0x1010 8 5 = .ok () t) ∧
    (∃ e t, { mapped with resv := some 0x2000 }.memWrite 1 0x2000 8 5 = .trap e t) ∧ vectors.resv = none := by
  refine ⟨by decide, by decide, by decide, plain_of (by decide), ?_, exists_raise (by decide), by decide⟩
  obtain ⟨⟨⟩, t, h⟩ := exists_answer (r := { plain with resv := some 0x1010 }.memWrite 1 0x1010 8 5) (by decide)
  exact ⟨t, h⟩

theorem witness_AddressInstructions :
    (plain.pending.sel = [] ∧ (plain.selector 1).desc = some flat ∧ (State.reset.selector 1).desc = none) ∧
    (mapped.translates 0x1010 = true ∧ mapped.tlbWays 0x1010 = [0] ∧ mapped.tlbWays 0x400000 = [] ∧
      mapped.translates 0x400000 = true ∧ mapped.translates 0xFFFFFFFFFF000000 = false) ∧
    ∀ x ∈ vectors.enabledList 1, vectors.translates (vectors.vec 1 x) = false := by decide

theorem witness_CacheCommands :
    (plain.allows .cache ∧ { user with config := { user.config with machineOnly := [.wfi] } }.allows .cachex) ∧
    (let ic := fun rt : RegNum => rt.extractLsb' 0 3
     ic 2 ≠ 3#3 ∧ ic 2 ≠ 4#3 ∧ ic 5 ≠ 3#3 ∧ ic 5 ≠ 4#3 ∧ ic 63 ≠ 3#3 ∧ ic 12 = 4#3 ∧ ic 11 = 3#3) ∧
    ((plain.selector 1).desc = some flat ∧ plain.translates (linearAddress flat.o0 0x1010) = false) ∧
    mapped.tlbWays (linearAddress flat.o0 0x1010) = [0] ∧ mapped.tlbWays (linearAddress flat.o0 0x400000) = [] ∧
    vectors.enabledList 1 = [0, 2] ∧ vectors.enabledList 3 = [] := by
  unfold State.allows
  decide

/-- A segment of 4 KB, and a stack segment of 256 bytes below 4 KB. -/
def bounded (stack : Bool) : Descriptor :=
  ⟨0, 0, 0x1000, if stack then 0xA600000000000100 else 0x8600000000000000⟩

theorem witness_SegmentChecks :
    ((State.reset.selector 1).desc = none ∧ State.reset.pending.sel = [] ∧ Access.store ≠ Access.fetch) ∧
    (at1000.pending.sel = [] ∧ at1000.beginFetch.cached 7 at1000.beginFetch.fetching.cs = flat ∧ at1000.pe = false ∧
      at1000.ip.extractLsb' 60 4 ≠ 0xF#4) ∧
    ((0xF000000000000000 : Word).extractLsb' 60 4 = 0xF#4 ∧ (0xEFFFFFFFFFFFFFFF : Word).extractLsb' 60 4 ≠ 0xF#4) ∧
    (plain.pe = false ∧ guarded.pe = true) ∧
    ((bounded false).o3.getLsbD 61 = false ∧ (bounded false).o2.toNat ≤ (0x1000 : Word).toNat ∧
      ¬(bounded false).o2.toNat ≤ (0xFFF : Word).toNat) ∧
    ((bounded true).o3.getLsbD 61 = true ∧ (bounded true).o2.toNat ≤ (0x1000 : Word).toNat ∧
      (0xEFF : Word).toNat < (bounded true).o2.toNat - ((bounded true).o3.extractLsb' 0 44).toNat ∧
      ¬(0xF00 : Word).toNat < (bounded true).o2.toNat - ((bounded true).o3.extractLsb' 0 44).toNat) ∧
    ((bounded false).o3.getLsbD 56 = false ∧ (bounded false).o3.getLsbD 58 = true) := by decide

/-- Protection on and data segments of 4 KB. -/
def narrow : State := { guarded with segs := Vector.replicate 7 ⟨0, some (bounded false)⟩ }

theorem witness_SegmentChecks_access :
    (∀ j < 8, ∀ r < 4, debugMatchesData narrow false (0x1000 + BitVec.ofNat 64 j) r = false) ∧
    (∃ e t, narrow.segment .load 1 0x1000 = .trap e t) ∧
    (∀ j < 8, ∀ r < 4, debugMatchesData narrow true (0x1000 + BitVec.ofNat 64 j) r = false) ∧
    ∃ e t, narrow.segment .store 1 0x1000 = .trap e t :=
  ⟨by decide, exists_raise (by decide), by decide, exists_raise (by decide)⟩

theorem witness_Translation : sparseWf 0 mapped.tlb = true ∧ mapped.translates 0xFFFFFFFFFF000000 = false ∧
    mapped.translates 0xFFFFFFFFFEFFFFFF = true ∧ (mapped.translates 0x400000 = true ∧ mapped.tlbWays 0x400000 = []) ∧
    (mapped.translates 0x1FFF = true ∧ mapped.tlbWays 0x1FFF = [0] ∧ (mapped.tlbEntry 0 1).getLsbD 50 = true) ∧
    (mapped.tlbWays 0x2000 = [0] ∧ (mapped.tlbEntry 0 2).getLsbD 50 = false) := by decide

/-- Ip in the mapped page, whose A bit is clear. -/
def paged : State := (mapped.setIp 0x1000).beginFetch

/-- A fetch through the TLB notes its mark; one through a page whose A bit is set notes none; one elsewhere than in a
mapped page raises. -/
theorem witness_Translation_fetch : sparseWf 0 paged.tlb = true ∧ paged.fetching.marks = [] ∧
    (paged.tlbEntry 0 1).getLsbD 48 = true ∧ (paged.tlbEntry 0 1).getLsbD 53 = false ∧
    (∃ bs u, paged.fetchInstruction 0x1000 = .ok bs u ∧ u.fetching.marks = [1] ∧
      (u.tlbEntry 0 1).getLsbD 53 = true ∧ (u.abandonFetch.tlbEntry 0 1).getLsbD 53 = false) := by
  refine ⟨by decide, by decide, by decide, by decide, ?_⟩
  have h : (match paged.fetchInstruction 0x1000 with
      | .ok _ u => decide (u.fetching.marks = [1]) && (u.tlbEntry 0 1).getLsbD 53 &&
          !(u.abandonFetch.tlbEntry 0 1).getLsbD 53
      | _ => false) = true := by decide
  revert h
  cases paged.fetchInstruction 0x1000 with
  | ok bs u =>
    intro h
    simp only [Bool.and_eq_true, decide_eq_true_eq, Bool.not_eq_true'] at h
    exact ⟨bs, u, rfl, h.1.1, h.1.2, h.2⟩
  | trap e u => intro h; cases h
  | stop e => intro h; cases h

/-- An instruction of six bytes, of which two lie in the mapped page and the others in one without the right. -/
def crossing : State := { (mapped.setIp 0x1FFE).beginFetch with mem := [(0xFFE, 2)] }

/-- Paths of fetched bytes that end: in memory, with an old byte and without, through the TLB, in a missing page and in
one without the right; and instructions whose bytes are all fetched, and up to the third. -/
theorem witness_FetchReadsMemory_paths :
    (∃ t, aged.PathTo .fetch 7 0x1002 1 0x1002 t) ∧ (∃ t, aged.PathTo .fetch 7 0x1000 1 0x1000 t) ∧
    (∃ t, paged.PathTo .fetch 7 0x1004 1 4 t) ∧
    (∃ e, e.cause = causeTLB ∧ paged.PathFails .fetch 7 0x400000 1 (.inl e)) ∧
    (∃ e, e.cause = causeEXF ∧ paged.PathFails .fetch 7 0x2000 1 (.inl e)) ∧
    (∃ (st : Nat → State) (b : Nat → Byte), (lengthOf (b 0)).getD 2 = 2 ∧
      ∀ k < 2, (st k).fetchByte (nextIp 0x1000 k) = .ok (b k) (st (k + 1))) ∧
    (∃ (st : Nat → State) (b : Nat → Byte), (lengthOf (b 0)).getD 2 = 6 ∧
      (∀ k < 2, (st k).fetchByte (nextIp 0x1FFE k) = .ok (b k) (st (k + 1))) ∧
      ∃ e t, (st 2).fetchByte (nextIp 0x1FFE 2) = .trap e t) ∧
    ∃ e t, crossing.fetchInstruction 0x1FFE = .trap e t :=
  let bytes := fun (va : Word) (k : Nat) (u : State) => u.fetchByte (nextIp va k)
  ⟨pathTo_of (by decide), pathTo_of (by decide), pathTo_of (by decide), pathFails_of (by decide), pathFails_of (by decide),
    ⟨chain (bytes 0x1000) paged, chainGot 0 (bytes 0x1000) paged, by decide, chain_of 0 (bytes 0x1000) paged 2 (by decide)⟩,
    ⟨chain (bytes 0x1FFE) crossing, chainGot 0 (bytes 0x1FFE) crossing, by decide, chain_of 0 (bytes 0x1FFE) crossing 2 (by decide),
      exists_raise (by decide)⟩,
    exists_raise (by decide)⟩

/-- A user-mode load and a store through the mapped page. -/
theorem witness_Translation_access :
    (0x1010 : Word).toNat % 8 = 0 ∧ mapped.checksKeys = false ∧ Memory.wf mapped.mem = true ∧
    (∀ j < 8, platformKind mapped.config.platformMap ((0x10 : Word) + BitVec.ofNat 64 j).toNat = .memory) ∧
    ∀ k ∈ [Access.load, .store],
      (∀ j < 8, ∀ r < 4, debugMatchesData mapped (decide (k = .store)) (0x1010 + BitVec.ofNat 64 j) r = false) ∧
      mapped.segment k 1 0x1010 = .ok 0x1010 mapped ∧ (∃ u, mapped.translate k 0x1010 0x1010 = .ok 0x10 u) ∧
      ∃ a, pmaAttributes mapped.config.pmaTable (0x10 : Word).toNat = some a ∧ k.pmaRight a = true := by
  have h : ∀ k, endsAt (mapped.translate k 0x1010 0x1010) 0x10 = true →
      ∃ u, mapped.translate k 0x1010 0x1010 = .ok 0x10 u := by
    intro k h
    revert h
    cases mapped.translate k 0x1010 0x1010 with
    | ok p u => intro h; exact ⟨u, by rw [show p = 0x10 by simpa [endsAt] using h]⟩
    | trap e u => intro h; cases h
    | stop e => intro h; cases h
  refine ⟨by decide, by decide, by decide, by decide, fun k hk => ?_⟩
  simp only [List.mem_cons, List.not_mem_nil, or_false] at hk
  rcases hk with rfl | rfl
  · exact ⟨by decide, rfl, h _ (by decide), ⟨_, rfl, by decide⟩⟩
  · exact ⟨by decide, rfl, h _ (by decide), ⟨_, rfl, by decide⟩⟩

/-- The A bit of the page fetched from, and the operating mode. -/
def pageAndMode : Outcome → Option (Bool × BitVec 2)
  | .next t => some ((t.tlbEntry 0 1).getLsbD 53, t.om)
  | _ => none

/-- An instruction that completes leaves the A bit its fetch set; one that raises UNIMP leaves no trace of its fetch
(60 R1004). -/
theorem test_raising_takes_the_fetch_back :
    pageAndMode (step { mapped.setIp 0x1000 with mem := [(0, 0xF1)] }) = some (true, 0) ∧
    pageAndMode (step { mapped.setIp 0x1000 with mem := [(0, 0x4A)] }) = some (false, 3) := by decide +kernel

/-- User mode with protection on: page 0 has key 0, page 1 key 5. -/
def keyed : State := { user with csr := { user.csr with cr0 := 1 }, mem := [(4, 5)] }

theorem witness_KeysAndAttributes :
    (plain.checksKeys = false ∧ keyed.checksKeys = true ∧ keyed.pending.sel = [] ∧ (keyed.selector 18).desc = some flat ∧
      keyed.keyCache = []) ∧
    (firstNonMemory keyed.config.platformMap (flat.o0 + BitVec.ofNat 64 (4 * 0)) 4 = none ∧
      (Memory.tetra keyed.mem 0).extractLsb' 0 20 ∈ keyed.csr.keys.toList) ∧
    (firstNonMemory keyed.config.platformMap (flat.o0 + BitVec.ofNat 64 (4 * 1)) 4 = none ∧
      (Memory.tetra keyed.mem 4).extractLsb' 0 20 ∉ keyed.csr.keys.toList) ∧
    (let table : Vector Config.PmaRegion 8 := ((plain.config.pmaTable.set 0 ⟨0, 0xFF, 6⟩).set 1 ⟨0x80, 0x1FF, 7⟩)
     let covers := fun (r : Config.PmaRegion) (pa : Nat) => r.lb.toNat ≤ pa / 16 ∧ pa / 16 ≤ r.ub.toNat
     covers (table.get 0) 0xFFF ∧ covers (table.get 1) 0x1000 ∧ ¬covers (table.get 0) 0x1000 ∧
       ∀ i : Fin 8, ¬covers (table.get i) 0x2000) ∧
    (let map : List Config.PhysRange := [⟨0x1000, 0x1FFF, .none⟩, ⟨0x2000, 0x2FFF, .device⟩]
     (∀ j < 8, platformKind map (0xFF8 + j) = .memory) ∧
     ((∀ i < 7, platformKind map (0xFF9 + i) = .memory) ∧ platformKind map (0xFF9 + 7) = .none) ∧
     platformKind map 0x2000 = .device ∧ platformKind map 0x2FFF = .device ∧ platformKind map 0x3000 = .memory) := by
  decide

/-- Misaligned accesses of two bytes that are made, and two whose second byte has no right. -/
theorem witness_KeysAndAttributes_bytes :
    ((0x1011 : Word).toNat % 2 ≠ 0 ∧ (0x1FFF : Word).toNat % 2 ≠ 0) ∧
    (∃ (st : Nat → State) (b : Nat → Word), ∀ j < 2,
      (st j).memRead 1 (0x1011 + BitVec.ofNat 64 j) 1 = .ok (b j) (st (j + 1))) ∧
    (∃ st : Nat → State, ∀ j < 2,
      (st j).memWrite 1 (0x1011 + BitVec.ofNat 64 j) 1 ((0x0504 : Word) >>> (8 * j)) = .ok () (st (j + 1))) ∧
    (∃ st : Nat → State, (∀ j < 1, ∃ b, (st j).memRead 1 (0x1FFF + BitVec.ofNat 64 j) 1 = .ok b (st (j + 1))) ∧
      ∃ e t, (st 1).memRead 1 (0x1FFF + BitVec.ofNat 64 1) 1 = .trap e t) ∧
    (∃ st : Nat → State, (∀ j < 1, (st j).memWrite 1 (0x1FFF + BitVec.ofNat 64 j) 1 ((0x0504 : Word) >>> (8 * j)) =
      .ok () (st (j + 1))) ∧ ∃ e t, (st 1).memWrite 1 (0x1FFF + BitVec.ofNat 64 1) 1 ((0x0504 : Word) >>> (8 * 1)) = .trap e t) ∧
    (∃ e t, mapped.memRead 1 0x1FFF 2 = .trap e t) ∧ ∃ e t, mapped.memWrite 1 0x1FFF 2 5 = .trap e t :=
  let loads := fun (va : Word) (j : Nat) (u : State) => u.memRead 1 (va + BitVec.ofNat 64 j) 1
  let stores := fun (va : Word) (j : Nat) (u : State) => u.memWrite 1 (va + BitVec.ofNat 64 j) 1 ((0x0504 : Word) >>> (8 * j))
  ⟨by decide, ⟨chain (loads 0x1011) mapped, chainGot 0 (loads 0x1011) mapped, chain_of 0 (loads 0x1011) mapped 2 (by decide)⟩,
    ⟨chain (stores 0x1011) mapped, chain_of () (stores 0x1011) mapped 2 (by decide)⟩,
    ⟨chain (loads 0x1FFF) mapped, fun j hj => ⟨_, chain_of 0 (loads 0x1FFF) mapped 1 (by decide) j hj⟩, exists_raise (by decide)⟩,
    ⟨chain (stores 0x1FFF) mapped, chain_of () (stores 0x1FFF) mapped 1 (by decide), exists_raise (by decide)⟩,
    exists_raise (by decide), exists_raise (by decide)⟩

/-- Debug register 1 watches stores, register 2 loads and stores, register 3 instructions, all at $1000. -/
def watched (enable : Word) : State :=
  { at1000 with csr := { at1000.csr with dbad := #v[0, 0x1000, 0x1000, 0x1000], dbcr := 0x03100000 ||| enable } }

/-- `mapped` with protection on; the page is physical page 1, whose key is not in the keyset. -/
def barred : State :=
  { mapped with csr := { mapped.csr with cr0 := 1 }, tlb := [(1, 0x0087000000000001)], mem := [(4, 5)] }

/-- `mapped` with a hole in memory behind the middle of page 1. -/
def holed : State := { mapped with config := { mapped.config with platformMap := [⟨0x800, 0x807, .none⟩] } }

/-- Aligned loads and stores whose path ends in memory, straight and through the TLB, and one that each step fails: a
debug register, the segment, the TLB, the key, the attributes and the bus. -/
theorem witness_KeysAndAttributes_paths :
    ((0x1010 : Word).toNat % 8 = 0 ∧ Memory.wf mapped.mem = true ∧ Memory.wf guarded.mem = true) ∧
    (∀ k ∈ [Access.load, .store], (∃ t, mapped.PathTo k 1 0x1010 8 0x10 t) ∧ ∃ t, guarded.PathTo k 1 0x1010 8 0x1010 t) ∧
    ∀ k ∈ [Access.load, .store],
      (∃ e, e.cause = causeDBG ∧ (watched 15).PathFails k 1 0x1000 8 (.inl e)) ∧
      (∃ e, e.cause = causeSGB ∧ narrow.PathFails k 1 0x1000 8 (.inl e)) ∧
      (∃ e, e.cause = causeTLB ∧ mapped.PathFails k 1 0x400000 8 (.inl e)) ∧
      (∃ e, e.cause = causeKEY ∧ barred.PathFails k 1 0x1010 8 (.inl e)) ∧
      (∃ e, e.cause = causePMA ∧ { unfetchable with segs := plain.segs }.PathFails k 1 0x1010 8 (.inl e)) ∧
      (∃ e, e.cause = causeDBE ∧ holed.PathFails k 1 0x1800 8 (.inl e)) := by
  refine ⟨by decide, fun k hk => ?_, fun k hk => ?_⟩
  all_goals
    simp only [List.mem_cons, List.not_mem_nil, or_false] at hk
    rcases hk with rfl | rfl
  · exact ⟨pathTo_of (by decide), pathTo_of (by decide)⟩
  · exact ⟨pathTo_of (by decide), pathTo_of (by decide)⟩
  · exact ⟨pathFails_of (by decide), pathFails_of (by decide), pathFails_of (by decide), pathFails_of (by decide),
      pathFails_of (by decide), pathFails_of (by decide)⟩
  · exact ⟨pathFails_of (by decide), pathFails_of (by decide), pathFails_of (by decide), pathFails_of (by decide),
      pathFails_of (by decide), pathFails_of (by decide)⟩

/-- The matching registers of eight bytes stored, of eight loaded, of a store elsewhere, and of the instruction at ip,
with traps enabled and not; in the second store the match is of its fifth byte. -/
theorem witness_DebugMatch :
    (let type := fun (s : State) (r : Nat) => s.csr.dbcr.extractLsb' (16 + 4 * r) 2
     let size := fun (s : State) (r : Nat) => (s.csr.dbcr.extractLsb' (18 + 4 * r) 2).toNat
     let hit := fun (s : State) (st : Bool) (va : Word) (k : Nat) (r : Fin 4) =>
       ((type s r = 1#2 ∧ st = true) ∨ type s r = 3#2) ∧
         s.csr.dbad.get r >>> size s r = (va + BitVec.ofNat 64 k) >>> size s r
     let data := fun (s : State) (st : Bool) (va : Word) (m : BitVec 4) =>
       ∀ r : Fin 4, m.getLsbD r = true ↔ ∃ k < 8, hit s st va k r
     let traps := fun (s : State) (va : Word) (k : Nat) => ∃ r : Fin 4, hit s true va k r ∧ s.csr.dbcr.getLsbD r = true
     data (watched 0) true 0x1000 6#4 ∧ data (watched 0) false 0x1000 4#4 ∧ data (watched 0) true 0x2000 0#4 ∧
     (∀ k < 8, ¬traps (watched 0) 0x1000 k) ∧ traps (watched 2) 0x1000 0 ∧
     data (watched 2) true 0xFFC 6#4 ∧ traps (watched 2) 0xFFC 4 ∧ ∀ j < 4, ¬traps (watched 2) 0xFFC j) ∧
    ((0x1000 : Word).toNat % 8 = 0 ∧ (∃ e u, (watched 4).debugData false 0x1000 8 = .trap e u) ∧
      ∃ e u, (watched 2).debugData true 0x1000 8 = .trap e u) ∧
    (let code := fun (s : State) (m : BitVec 4) =>
       ∀ r : Fin 4, m.getLsbD r = true ↔ s.csr.dbcr.extractLsb' (16 + 4 * r.val) 2 = 0#2 ∧ s.csr.dbad.get r >>> 1 = s.ip >>> 1
     code (watched 0) 8#4 ∧ code ((watched 0).setIp 0x2000) 0#4 ∧ 8#4 &&& (watched 8).csr.dbcr.extractLsb' 0 4 ≠ 0#4) ∧
    (watched 8).env = [] ∧ (watched 8).mode.waiting = false ∧ (watched 8).inputs.nmi = false ∧
      (watched 8).recognised = false ∧ (watched 8).mode.stepPending = false :=
  ⟨by simp only [← List.mem_range]; decide, ⟨by decide, exists_raise (by decide), exists_raise (by decide)⟩, by decide, by decide, by decide, by decide,
    by decide, by decide⟩

/-! #### Branches and system -/

/-- Each link field, a branch not taken, to itself, near and far. -/
theorem witness_Branches :
    ((opnd 2 5).scalar plain = some 5 ∧ (opnd 1 5).scalar plain = none) ∧ (3#2 = 3#2 ∧ 2#2 ≠ 3#2) ∧
    (let target := fun (s : State) (ca : BitVec 3) (disp : Word) =>
       (⟨(if ca = 7#3 then s.ip else (s.codeAddr ca).off) + disp,
         if ca = 0#3 ∨ ca = 7#3 then s.cs else (s.codeAddr ca).sel⟩ : CodeAddr)
     target at1000 7 0 = at1000.codeAddr 7 ∧ target at1000 0 0x1000 = at1000.codeAddr 7 ∧
     target at1000 7 (-2) ≠ at1000.codeAddr 7 ∧ target at1000 3 8 ≠ at1000.codeAddr 7) ∧
    ((true && (!true || at1000.lc != 0)) = false ∧ (true && (!true || (at1000.setLc 1).lc != 0)) = true) ∧
    ∃ d u, (at1000.linked 6 1 true).loadDescriptor (at1000.codeAddr 3).sel false = .ok d u :=
  ⟨by decide, by decide, by decide, by decide, exists_answer (by decide)⟩

/-- A call gate, at index 0 of the table, to $1000 and to $2000. -/
def gated (b : Byte) : State := { at1000 with mem := [(1, b), (31, 0x44)] }

theorem witness_ReturnsAndGates :
    ((0#2 = 0#2 ∨ 0#2 = 3#2) ∧ (3#2 = 0#2 ∨ 3#2 = 3#2) ∧ (1#2 = 1#2 ∨ 1#2 = 2#2) ∧ (2#2 = 1#2 ∨ 2#2 = 2#2)) ∧
    (⟨((at1000.setCodeAddr 1 ⟨0xFFC, 0⟩).codeAddr 1).off + (4#6).setWidth 64, 0⟩ : CodeAddr) = at1000.codeAddr 7 ∧
    (∃ d u, (at1000.setReg 27#6 (at1000.reg 27#6 + 8 * (0x7FFF#15).setWidth 64)).loadDescriptor 0 false = .ok d u) ∧
    (∃ g s1, (gated 0x10).readDescriptor 0 = .ok g s1) ∧
    (∀ b ∈ [0x10, 0x20], (Memory.octa (gated b).mem 24).getLsbD 62 = true ∧
      (Memory.octa (gated b).mem 24).extractLsb' 56 4 = 4#4) ∧
    (⟨Memory.octa (gated 0x10).mem 0, (Memory.octa (gated 0x10).mem 16).extractLsb' 0 32⟩ : CodeAddr) =
      (gated 0x10).codeAddr 7 ∧
    (⟨Memory.octa (gated 0x20).mem 0, (Memory.octa (gated 0x20).mem 16).extractLsb' 0 32⟩ : CodeAddr) ≠
      (gated 0x20).codeAddr 7 ∧
    (∃ d u, ((gated 0x20).link 1 0x1006).loadDescriptor 0 false = .ok d u) ∧
    ((Memory.octa at1000.mem 24).getLsbD 62 = false ∧ ∃ g s1, at1000.readDescriptor 0 = .ok g s1) :=
  ⟨by decide, by decide, exists_answer (by decide), exists_answer (by decide), by decide, by decide, by decide,
    exists_answer (by decide), by decide, exists_answer (by decide)⟩

theorem witness_CsrInstructions :
    (let k := fun r : BitVec 16 => (r.extractLsb' 12 4).toNat
     (k 0x3001 ≤ 3 ∧ user.om.toNat < k 0x3001) ∧ (k 0x4046 = 4 ∧ user.om ≠ 3#2) ∧
     ¬(k 0x0014 ≤ 3 ∧ user.om.toNat < k 0x0014 ∨ k 0x0014 = 4 ∧ user.om ≠ 3#2) ∧
     ¬(k 0x4046 ≤ 3 ∧ plain.om.toNat < k 0x4046 ∨ k 0x4046 = 4 ∧ plain.om ≠ 3#2)) ∧
    (csrName 0x0FFF = none ∧ csrName 0x5000 = none ∧ csrName 0x3004 = some (.ie 3) ∧ csrName 0x3000 = some .cr0 ∧
      csrName 0x3041 = some (.scratch 3)) ∧
    (∃ t, plain.csrWrite (.ie 3) 5 = .ok () t) ∧ (∀ k, CsrName.cr0 ≠ .selector k) := by
  refine ⟨by decide, by decide, ?_, fun k h => by cases h⟩
  obtain ⟨⟨⟩, t, h⟩ := exists_answer (r := plain.csrWrite (.ie 3) 5) (by decide)
  exact ⟨t, h⟩

/-- Both modes, settled registers, selectors of both classes, and writes that the frame speaks of. -/
theorem witness_CsrFile : plain.om = 3#2 ∧ user.om ≠ 3#2 ∧ (6#3 ≠ 7#3) ∧ plain.pending.tvec = [] ∧
    plain.pending.sel = [] ∧ (1 < 7 ∧ 1 ≤ 18) ∧ (16 ≤ 16 ∧ 16 ≤ 18) ∧
    (∃ d u, plain.loadDescriptor (((5 : Word).extractLsb' 0 32)) (decide (16 ≤ 1)) = .ok d u) ∧
    (∃ d u, plain.loadDescriptor (((5 : Word).extractLsb' 0 32)) (decide (16 ≤ 16)) = .ok d u) ∧
    (∃ t, plain.csrWrite (.ie 3) 5 = .ok () t) ∧ (∃ t, plain.csrWrite (.tvecLow 1) 5 = .ok () t) ∧
    (∀ k, CsrName.ie 3 ≠ .selector k) ∧ CsrName.ie 3 ≠ .asid := by
  refine ⟨by decide, by decide, by decide, by decide, by decide, by decide, by decide, exists_answer (by decide),
    exists_answer (by decide), ?_, ?_, fun k h => (by cases h), by decide⟩
  · obtain ⟨⟨⟩, t, h⟩ := exists_answer (r := plain.csrWrite (.ie 3) 5) (by decide)
    exact ⟨t, h⟩
  · obtain ⟨⟨⟩, t, h⟩ := exists_answer (r := plain.csrWrite (.tvecLow 1) 5) (by decide)
    exact ⟨t, h⟩

theorem witness_SoftwareTraps : (7#3 ≤ plain.ipl ∧ user.ipl < 1#3) ∧ user.allows .pfi ∧ user.inputs.irqLevel = 0#3 ∧
    (asked 1).inputs.irqLevel ≠ 0#3 ∧ user.pending.tvec = [] ∧
    ∃ d u, (user.saveForTrap ⟨user.config.fltBrk, user.ip, none, none, 0, true, false⟩).loadDescriptor
      (user.csr.tvec.get 3).sel false = .ok d u :=
  ⟨by decide, by unfold State.allows; decide, by decide, by decide, by decide, exists_answer (by decide)⟩

theorem witness_InterruptControl : (opnd 1 5).scalar plain = none ∧ (opnd 2 7).scalar plain = some 7 ∧ user.om ≠ 3#2 ∧
    plain.om = 3#2 ∧ user.allows .di ∧ user.allows .wfi ∧ user.inputs.irqLevel = 0#3 ∧ user.inputs.nmi = false ∧
    (asked 7).inputs.irqLevel ≠ 0#3 := by unfold State.allows; decide

theorem witness_SelectorMoves :
    (plain.allows .mfsel ∧ plain.allows .mtsel ∧ plain.allows .tlbrw ∧ plain.allows .rex) ∧
    ((opnd 2 18).scalar plain = some 18 ∧ (opnd 2 19).scalar plain = some 19 ∧ 18 < (19 : Word).toNat ∧
      (18 : Word).toNat ≤ 18 ∧ (7 : Word).toNat = 7 ∧ 7 < (8 : Word).toNat ∧ (15 : Word).toNat < 16) ∧
    (∃ d u, plain.loadDescriptor 5 (decide (16 ≤ 6)) = .ok d u) ∧ (∃ d u, plain.loadDescriptor 5 (decide (16 ≤ 16)) = .ok d u) ∧
    ((0x0400 : Word).getLsbD 15 = false ∧ (0x0400 : Word).getLsbD 63 = false ∧ (-1 : Word).getLsbD 63 = true) ∧
    (6 ≠ 7 ∧ 18 < 19) ∧ sparseWf 0 mapped.tlb = true ∧
    ((3#2 = 3#2) ∧ (2#2 ≠ 3#2 ∧ 2#2 < plain.om ∧ plain.csr.ie.getLsbD 2 = false) ∧ user.om ≤ 0#2) := by
  refine ⟨by unfold State.allows; decide, by decide, exists_answer (by decide), exists_answer (by decide), by decide,
    by decide, by decide, by decide⟩

/-- The table that T chooses, descriptors in memory, behind a hole and in a device window, protection on and off, an
index inside the table and one outside. -/
theorem witness_SelectorMoves_descriptor :
    let s : State := { guarded with csr := { guarded.csr with gdtb := 0x3000, gdtl := 64 }
                                    mem := [(0x303F, 0x87)] }
    let with_ := fun (m : List Config.PhysRange) => { s with config := { s.config with platformMap := m } }
    let at_ := fun (j : Nat) => (0x3020 + BitVec.ofNat 64 j : Word).toNat
    (∀ sel ∈ [0x800001#32, 1#32], sel.getLsbD 23 = true → s.pending.sel = []) ∧ s.pe = true ∧ plain.pe = false ∧
    (∀ j < 32, platformKind s.config.platformMap (at_ j) = .memory) ∧
    (∃ d u, s.loadDescriptor 1 false = .ok d u) ∧ (∃ d u, plain.loadDescriptor 0x800001 false = .ok d u) ∧
    (match s.readDescriptor 2 with | .ok (_, inside) _ => !inside | _ => false) = true ∧
    (∀ k < 8, platformKind (with_ [⟨0x3028, 0x3028, .none⟩]).config.platformMap (at_ k) = .memory) ∧
    platformKind (with_ [⟨0x3028, 0x3028, .none⟩]).config.platformMap (at_ 8) = .none ∧
    platformKind (with_ [⟨0x3020, 0x3028, .device⟩]).config.platformMap (at_ 0) = .device := by
  refine ⟨fun _ _ _ => rfl, by decide, by decide, by decide, exists_answer (by decide), exists_answer (by decide),
    by decide, by decide, by decide, by decide⟩

/-- REX to supervisor mode with its interrupts enabled. -/
theorem witness_SelectorMoves_rex :
    let s : State := { plain with csr := { plain.csr with ie := 2 } }
    1#2 ≠ 3#2 ∧ 1#2 < s.om ∧ s.csr.ie.getLsbD 1 = true ∧ s.pending.tvec = [] ∧
    ∃ d u, ({ s with
      mode := { s.mode with pmStack := s.mode.pmStack.extractLsb' 6 58 ++ 1#2 ++ s.mode.pmStack.extractLsb' 0 4 }
      csr := { s.csr with
        cause := s.csr.cause.set 1 (s.csr.cause.get s.om.toFin)
        badaddr := s.csr.badaddr.set 1 (s.csr.badaddr.get s.om.toFin) } } : State).loadDescriptor
          (s.csr.tvec.get 1).sel false = .ok d u :=
  ⟨by decide, by decide, by decide, by decide, exists_answer (by decide)⟩

/-- Queues of depth 1: an empty one and a full one. -/
def queued (l : List (BitVec 112)) : State :=
  { plain with queues := plain.queues.set 1 l, config := { plain.config with qdepth := Vector.replicate 16 1 } }

theorem witness_Queues : (opnd 1 5).scalar plain = none ∧ (opnd 2 1).scalar plain = some 1 ∧
    ((queued []).queues.get 1).length < (queued []).config.qdepth.get 1 ∧
    (queued [7]).config.qdepth.get 1 ≤ ((queued [7]).queues.get 1).length ∧ (queued [7]).queues.get 1 = [7] ∧
    (queued []).queues.get 1 = [] ∧
    (queued []).allows .pushq ∧ (queued []).allows .popq ∧ (queued []).allows .peekq ∧ (queued []).allows .statq ∧
    (queued []).allows .resetq := by unfold State.allows; decide

theorem witness_VectorSpecials : vectors.pending.vl = [] ∧ (opnd 0 2).scalar vectors = some 0 ∧
    (opnd 1 2).scalar vectors = none ∧ (63 : Word).toNat < vectors.config.vlmax ∧
    vectors.config.vlmax ≤ (64 : Word).toNat := by decide

theorem witness_Masks : (64 : Word).toNat ≤ plain.config.vlmax ∧ plain.config.vlmax < (65 : Word).toNat ∧
    vectors.pending.vl = [] ∧ vectors.mask 3 = 0 ∧
    (let b : Word := 0x28
     (b.getLsbD 3 = true ∧ ∀ j < 3, b.getLsbD j = false) ∧ b.getLsbD 5 = true ∧ ∀ j < 64, 5 < j → b.getLsbD j = false) ∧
    (11#6 ≤ 11#6 ∧ 10#6 < 11#6) := by decide

theorem witness_Accelerators :
    ((opnd 0 2).scalar plain = some 0) ∧
    (∀ n : Fin 8, (0xFF : Word).getLsbD n = true → (plain.nna.get n).max.toNat ≤ 1023 ∧
      (plain.nna.get n).base.toNat ≤ (plain.nna.get n).max.toNat) ∧
    (let far : Neuron := { State.resetNeuron with base := 1023, max := 1023 }
     far.max.toNat ≤ 1023 ∧ far.base.toNat ≤ far.max.toNat) ∧
    (let big : Neuron := { State.resetNeuron with max := 1024 }
     ¬big.max.toNat ≤ 1023) ∧
    ((7 : Word).getLsbD 3 = false ∧ (8 : Word).getLsbD 3 = true) ∧
    ((0x3FF#16).toNat ≤ 1023 ∧ 1023 < (0x400#16).toNat) ∧
    ((11 : Word).toNat < 12 ∧ (12 : Word).toNat = 12 ∧ 12 < (13 : Word).toNat) ∧
    (plain.gfx.cmd = 0#1 ∧ { plain.gfx with cmd := 1 }.cmd = 1#1) := by decide

/-- Both engines have work: a neuron that runs, one that does not, and a queue of control writes. -/
theorem witness_Accelerators_engines :
    (let s : State := { plain with env := [.neuronDone 3], nna := plain.nna.set 3 { State.resetNeuron with running := true } }
     s.env = .neuronDone 3 :: [] ∧ (s.nna.get 3).running = true ∧ (s.nna.get 3).max.toNat ≤ 1023 ∧
       (s.nna.get 3).base.toNat ≤ (s.nna.get 3).max.toNat ∧ (s.nna.get 4).running = false) ∧
    (let e : BitVec 112 := (50#8 ++ 0xABCDEF#56 : BitVec 64).setWidth 112
     let s : State := { plain with env := [.graphics], queues := plain.queues.set 0 [e] }
     s.env = .graphics :: [] ∧ s.queues.get 0 = e :: [] ∧ (e.extractLsb' 56 8).toNat = 50) ∧
    50 < ((51#8 ++ 0#56 : BitVec 64).setWidth 112 |>.extractLsb' 56 8 : BitVec 8).toNat := by decide

/-- A write to register 0 that draws and one that does not, an empty queue, a vector register as B, an exact product and
sums within their range: of small terms, of the least bias alone, of 20000.0 and -20000.0. -/
theorem witness_Accelerators_more :
    ((1#112).extractLsb' 56 8 = 0#8 ∧ (1#30).getLsbD 0 = true ∧ ∀ i ∈ [0, 7, 8, 9, 10, 11, 18, 19], (32#30).getLsbD i = false) ∧
    ({ plain with env := [.graphics] }.env = .graphics :: [] ∧ { plain with env := [.graphics] }.queues.get 0 = []) ∧
    (opnd 1 5).scalar plain = none ∧ 7 < 64 ∧ (0x10000#32).toInt * (5#32).toInt % 65536 = 0 ∧
    (let fits := fun l : List Int => (l.filter fun t => 0 < t).sum < 2 ^ 31 ∧ -2 ^ 31 ≤ (l.filter fun t => t < 0).sum
     fits [(5#32).toInt, nnaProduct 0 0, nnaProduct 0x10000 0x20000] ∧ fits [(0x80000000#32).toInt, 0, 0] ∧
      fits [(0x4E200000#32).toInt, 0, nnaProduct 0x4E200000 0xFFFF0000] ∧ ¬ fits [2 ^ 30, 2 ^ 30]) := by decide

/-- Each event at the head of the schedule; TIME before its low half wraps, and not; a write to memory and to a device;
a trace record while tracing, while not, ill formed, and with queue 15 full. -/
theorem witness_OtherAgents :
    (∀ e ∈ [Event.clocks 5, .tmTick, .irq 1 131, .nmi, .seed 9, .busWrite 0x1000 7, .trace 0, .trace 1, .reset],
      ({ plain with env := [e] } : State).env = e :: []) ∧
    (let low := fun w : Word => w.extractLsb' 0 32 + 1
     (low 99999999).toNat = plain.config.tmClkHz ∧ (low 0).toNat ≠ plain.config.tmClkHz) ∧
    (0x1000 < 2 ^ 64 ∧ platformKind plain.config.platformMap 0x1000 = .memory ∧ Memory.wf plain.mem = true ∧
      platformKind [⟨0, 0xFFFF, .device⟩] 0x1000 ≠ .memory) ∧
    (let ok := fun r : BitVec 112 => r.extractLsb' 0 2 = 0#2 ∨ r.extractLsb' 0 2 = 1#2 ∧ (r.extractLsb' 2 7).toNat ≤ 103
     ok 0 ∧ ok 413 ∧ ¬ok 417 ∧ ¬ok 2) ∧
    (plain.mode.tracing = false ∧ { plain.mode with tracing := true }.tracing = true) ∧
    ((plain.queues.get 15).length < plain.config.qdepth.get 15 ∧
      ((plain.queues.set 15 [0]).get 15).length ≤ 1 ∧ 1 ≤ ((plain.queues.set 15 [0]).get 15).length) := by decide

/-- The bytes that the fetch of a pair answers. -/
def pairFetched (s : State) (n : Nat) : Option (List Byte) :=
  match s.fetchPair n with
  | .ok bs _ => some bs
  | _ => none

/-- The fetch of a pair answers these bytes. -/
theorem exists_pair {s : State} {n : Nat} {bs : List Byte} (h : pairFetched s n = some bs) :
    ∃ s1, s.fetchPair n = .ok bs s1 := by
  unfold pairFetched at h
  cases hp : s.fetchPair n with
  | ok b u => rw [hp] at h; cases h; exact ⟨u, rfl⟩
  | trap e u => rw [hp] at h; cases h
  | stop e => rw [hp] at h; cases h

/-- The old values of VL after the fetch of a pair. -/
theorem pair_settled {s s1 : State} {n : Nat} {bs : List Byte} (h : s.fetchPair n = .ok bs s1)
    (hs : (match s.fetchPair n with | .ok _ u => decide (u.pending.vl = []) | _ => false) = true) :
    s1.pending.vl = [] := by
  rw [h] at hs
  exact of_decide_eq_true hs

/-- EXI7 before ADDIL, ANDIL with v = 1, an undefined root and a NOP, and a pair that cannot be fetched. -/
theorem witness_Prefixes :
    (∃ s1, (pair plain [0x46, 0x48, 0xD4, 0x86, 0x00, 0xCF, 0x8A, 0x06]).fetchPair 2 =
      .ok (bytesOf 6 ((⟨0, 3, 1, 0x345678, 0, 0⟩ : Fmt.RIL).word 0xD4)) s1) ∧
    (∃ s1, (pair plain [0x46, 0x48, 0xD8, 0x87, 0x00, 0xCF, 0x8A, 0x06]).fetchPair 2 =
      .ok (bytesOf 6 ((⟨1, 3, 1, 0x345678, 0, 0⟩ : Fmt.RIL).word 0xD8)) s1 ∧ s1.pending.vl = []) ∧
    ((0xD4#8 ∈ prefixedOperations.map (·.1)) ∧ (0xD8#8 ∈ prefixedOperations.map (·.1))) ∧
    (∃ s1, (pair plain [0x46, 0x48, 0xF1, 0x00]).fetchPair 2 = .ok [0xF1, 0x00] s1) ∧
    (∃ s1, (pair plain [0x46, 0x48, 0x4A, 0x00]).fetchPair 2 = .ok [0x4A, 0x00] s1) ∧
    ((∀ e ∈ prefixedOperations, e.1 ≠ 0xF1#8) ∧ lengthOf 0xF1 ≠ none ∧ (∀ e ∈ prefixedOperations, e.1 ≠ 0x4A#8) ∧
      lengthOf 0x4A = none) ∧
    ∃ e s1, unfetchable.fetchPair 2 = .trap e s1 := by
  refine ⟨?_, ?_, by decide, ?_, ?_, by decide, exists_raise (by decide)⟩
  · exact exists_pair (by decide)
  · obtain ⟨s1, h⟩ := exists_pair (s := pair plain [0x46, 0x48, 0xD8, 0x87, 0x00, 0xCF, 0x8A, 0x06]) (n := 2)
      (bs := bytesOf 6 ((⟨1, 3, 1, 0x345678, 0, 0⟩ : Fmt.RIL).word 0xD8)) (by decide)
    refine ⟨s1, h, ?_⟩
    exact pair_settled h (by decide)
  · exact exists_pair (by decide)
  · exact exists_pair (by decide)

/-- A new VL and a new selector, both halves of TVEC[3] written with no SYNC between, and a trap and a fetch after it. -/
theorem witness_Hazards : ((put plain [(9, 64)]).vl ≠ ((put plain [(9, 64)]).reg 9).extractLsb' 0 8 ∧
      ((put plain [(9, 64)]).reg 9).toNat ≤ plain.config.vlmax ∧ plain.pending.vl = [] ∧ plain.pending.tvec = [] ∧
      plain.pending.sel = [] ∧ plain.selector 1 ≠ ⟨5, some flat⟩) ∧
    (∃ t, plain.csrWrite (.tvecLow 3) 0x700 = .ok () t ∧ (plain.csr.tvec.get 3).off ≠ 0x700 ∧
      ∃ u, t.csrWrite (.tvecHigh 3) 0 = .ok () u ∧ u.pending.tvec ≠ [] ∧
        ∃ v, u.takeTrap ⟨240, 0, none, none, 0, false, false⟩ = .ok () v) ∧
    (plain.csr.tvec.get 3).sel ≠ (5 : Word).setWidth 32 ∧
    ∃ bs u, at1000.beginFetch.fetchInstruction 0x1000 = .ok bs u := by
  refine ⟨by decide, ?_, by decide, exists_answer (by decide)⟩
  obtain ⟨⟨⟩, u, hu⟩ := exists_answer (r := (plain.setTvecLow 3 0x700).csrWrite (.tvecHigh 3) 0) (by decide)
  have h : u = (plain.setTvecLow 3 0x700).setTvecHigh 3 0 := (Res.ok.inj hu).2.symm
  subst h
  obtain ⟨⟨⟩, v, hv⟩ := exists_answer (r := ((plain.setTvecLow 3 0x700).setTvecHigh 3 0).takeTrap
    ⟨240, 0, none, none, 0, false, false⟩) (by decide)
  exact ⟨plain.setTvecLow 3 0x700, rfl, by decide, _, hu, by decide, v, hv⟩

/-- After TVEC[3] is written low half then high, the old low half may still be read with the new high one. -/
theorem test_tvec_halves_are_apart :
    ((plain.setTvecLow 3 0x700).setTvecHigh 3 9).pending.tvec =
      [(7, (plain.csr.tvec.get 3).sel.setWidth 64), (6, (plain.csr.tvec.get 3).off)] := by decide

/-- User mode on an implementation that reserves every such instruction to machine mode. -/
theorem witness_MachineOnly :
    let s : State := { user with config := { user.config with machineOnly :=
      [.mtsel, .mfsel, .tlbrw, .pushq, .popq, .peekq, .statq, .resetq, .di, .rex, .cache, .cachex, .pfi, .wfi] } }
    s.om ≠ 3#2 ∧ ∀ op ∈ [Config.SysOp.mtsel, .mfsel, .tlbrw, .pushq, .popq, .peekq, .statq, .resetq, .di, .rex, .cache,
      .cachex, .pfi, .wfi], op ∈ s.config.machineOnly := by decide

end Sys2Proof.Tests
end

section
/-! Segmentation: the bits of a descriptor, the bounds and rights that an access is checked against, and an access
that segmentation stops at its first byte. -/

namespace Sys2Proof.Machine

/-! ### The bits of a descriptor -/

/-- A bit of the access rights is one of the last word of the descriptor (20_memory R169). -/
theorem Descriptor.acr_getLsbD (d : Descriptor) (i : Nat) (hi : i < 20) :
    (Descriptor.acr d).getLsbD i = d.o3.getLsbD (44 + i) := by
  unfold Descriptor.acr
  rw [BitVec.getLsbD_extractLsb', decide_eq_true hi, Bool.true_and]

/-- The right that an access needs of a segment, by its bit in the descriptor (20_memory R169). -/
theorem Access.segmentRight_eq (k : Access) (d : Descriptor) :
    k.segmentRight d = d.o3.getLsbD (match k with | .load => 58 | .store => 57 | .fetch => 56) := by
  cases k
  · exact Descriptor.acr_getLsbD d 14 (by decide)
  · exact Descriptor.acr_getLsbD d 13 (by decide)
  · exact Descriptor.acr_getLsbD d 12 (by decide)

/-! ### Segmentation -/

/-- An address is outside a segment: at or above its limit, or below the limit minus the size of a stack segment
(20_memory R171, R172). -/
def OutsideSegment (d : Descriptor) (va : Word) : Prop :=
  if d.o3.getLsbD 61 then d.o2.toNat ≤ va.toNat ∨ va.toNat < d.o2.toNat - (d.o3.extractLsb' 0 44).toNat
  else d.o2.toNat ≤ va.toNat

/-- The bounds check faults outside the segment, by its kind. -/
theorem segmentBounds_outside {d : Descriptor} {va : Word} (h : OutsideSegment d va) :
    segmentBounds d va = some (if d.o3.getLsbD 61 then causeSTK else causeSGB) := by
  unfold OutsideSegment at h
  unfold segmentBounds
  rw [Descriptor.acr_getLsbD d 17 (by decide)]
  by_cases hs : d.o3.getLsbD 61 = true
  · rw [if_pos hs] at h ⊢
    rw [if_pos h, if_pos hs]
  · rw [if_neg hs] at h ⊢
    rw [if_pos h, if_neg hs]

/-- The bounds check passes inside the segment. -/
theorem segmentBounds_inside {d : Descriptor} {va : Word} (h : ¬ OutsideSegment d va) : segmentBounds d va = none := by
  unfold OutsideSegment at h
  unfold segmentBounds
  rw [Descriptor.acr_getLsbD d 17 (by decide)]
  by_cases hs : d.o3.getLsbD 61 = true
  · rw [if_pos hs] at h ⊢
    exact if_neg h
  · rw [if_neg hs] at h ⊢
    exact if_neg h

namespace State

/-- The descriptor of a settled access: the cached one of its selector, or of the CS that the fetch began with. -/
theorem accessSelector_settled (s : State) (k : Access) (seg : Nat) (d : Descriptor) (hs : s.pending.sel = [])
    (hd : if k = .fetch then s.cached seg s.fetching.cs = d else (s.selector seg).desc = some d) :
    s.segmentDescriptor k seg (s.accessSelector k seg).1 = some d ∧ (s.accessSelector k seg).2 = s := by
  unfold segmentDescriptor accessSelector
  by_cases hk : k = .fetch
  · rw [if_pos hk] at hd
    simp only [if_pos hk, hd, and_self]
  · rw [if_neg hk] at hd
    simp only [if_neg hk, useSelector_settled s seg hs, hd, and_self]

/-- What segmentation answers through a settled descriptor: with protection off the linear address, with it on the fault
of the bounds, else the linear address or the fault of the right (20_memory R161, R171). -/
theorem segment_settled (s : State) (k : Access) (seg : Nat) (va : Word) (d : Descriptor) (hs : s.pending.sel = [])
    (hk : k = .fetch → va.extractLsb' 60 4 ≠ 0xF#4)
    (hd : if k = .fetch then s.cached seg s.fetching.cs = d else (s.selector seg).desc = some d) :
    (s.pe = false → s.segment k seg va = .ok (linearAddress d.o0 va) s) ∧
    (∀ c, s.pe = true → segmentBounds d va = some c → s.segment k seg va = .trap (.memory c va) s) ∧
    (s.pe = true → segmentBounds d va = none → s.segment k seg va =
      if k.segmentRight d then .ok (linearAddress d.o0 va) s else .trap (.memory k.rightFault va) s) := by
  obtain ⟨h1, h2⟩ := accessSelector_settled s k seg d hs hd
  unfold segment
  rw [if_neg (fun h => hk h.1 h.2)]
  refine ⟨fun hpe => ?_, fun c hpe hb => ?_, fun hpe hb => ?_⟩
  · simp only [h1, h2, hpe, Bool.false_eq_true, if_false]
  · simp only [h1, h2, hpe, hb, if_true]
  · simp only [h1, h2, hpe, hb, if_true]

/-- A data access through a segment never loaded is refused (20_memory R179, 93 U6). -/
theorem segment_neverLoaded (s : State) (k : Access) (seg : Nat) (va : Word) (hs : s.pending.sel = [])
    (hk : k ≠ .fetch) (hd : (s.selector seg).desc = none) :
    s.segment k seg va = .stop (.refuse (.segmentNeverLoaded seg)) := by
  unfold segment segmentDescriptor accessSelector
  simp only [hk, if_false, useSelector_settled s seg hs, hd, false_and]

/-- A load whose segmentation raises at its first byte raises that, with nothing changed (60 R1004). -/
theorem loadOne_of_segment {s : State} {seg : Nat} {va : Word} {n : Nat} {e : Exc}
    (hd : ∀ j < n, ∀ r < 4, debugMatchesData s false (va + BitVec.ofNat 64 j) r = false)
    (h : s.segment .load seg va = .trap e s) : s.loadOne seg va n = .trap e s := by
  unfold loadOne physical
  rw [debugData_plain s false va n hd, Res.bind_ok, h]
  rfl

/-- The same of a store. -/
theorem storeOne_of_segment {s : State} {seg : Nat} {va : Word} {bs : List Byte} {e : Exc}
    (hd : ∀ j < bs.length, ∀ r < 4, debugMatchesData s true (va + BitVec.ofNat 64 j) r = false)
    (h : s.segment .store seg va = .trap e s) : s.storeOne seg va bs = .trap e s := by
  unfold storeOne physical
  rw [debugData_plain s true va _ hd, Res.bind_ok, h]
  rfl

/-- A load, aligned or not, that segmentation stops at its first byte changes nothing (60 R1004, log 14). -/
theorem memRead_of_segment {s : State} {seg : Nat} {va : Word} {n : Nat} {e : Exc} (hn : 0 < n)
    (hd : ∀ j < n, ∀ r < 4, debugMatchesData s false (va + BitVec.ofNat 64 j) r = false)
    (h : s.segment .load seg va = .trap e s) : s.memRead seg va n = .trap e s := by
  obtain ⟨m, rfl⟩ : ∃ m, n = m + 1 := ⟨n - 1, by omega⟩
  have he : s.loadEach seg va (m + 1) = .trap e s := by
    unfold loadEach
    rw [loadOne_of_segment (fun j hj => hd j (by omega)) h]
    rfl
  unfold memRead
  rw [loadOne_of_segment hd h, he, ite_self]
  rfl

/-- A store, aligned or not, that segmentation stops at its first byte changes nothing (60 R1004, log 14). -/
theorem memWrite_of_segment {s : State} {seg : Nat} {va v : Word} {n : Nat} {e : Exc} (hn : 0 < n)
    (hd : ∀ j < n, ∀ r < 4, debugMatchesData s true (va + BitVec.ofNat 64 j) r = false)
    (h : s.segment .store seg va = .trap e s) : s.memWrite seg va n v = .trap e s := by
  have hl : (bytesOf n v).length = n := by simp [bytesOf]
  have he : s.storeEach seg va (bytesOf n v) = .trap e s := by
    cases hb : bytesOf n v with
    | nil =>
      rw [hb, List.length_nil] at hl
      omega
    | cons b bs =>
      unfold storeEach
      rw [storeOne_of_segment (bs := [b]) (fun j hj => hd j (Nat.lt_of_lt_of_le hj hn)) h]
      rfl
  unfold memWrite
  rw [storeOne_of_segment (by rw [hl]; exact hd) h, he, ite_self]
  rfl

end State

/-- Settles O41, from what segmentation answers through a settled descriptor, and from the first byte of an access that
it stops. -/
theorem segmentChecks : Obligations.SegmentChecks := by
  unfold Obligations.SegmentChecks
  intro s seg va hs
  refine ⟨fun k hk hd => s.segment_neverLoaded k seg va hs hk hd, fun h => if_pos ⟨rfl, h⟩, fun k d hk hd => ?_,
    fun n e hn hb h => State.memRead_of_segment hn hb h, fun n v e hn hb h => State.memWrite_of_segment hn hb h⟩
  obtain ⟨hoff, hfault, hpass⟩ := s.segment_settled k seg va d hs hk hd
  have hright := k.segmentRight_eq d
  refine ⟨hoff, fun hpe (ho : OutsideSegment d va) => hfault _ hpe (segmentBounds_outside ho),
    fun hpe (ho : ¬ OutsideSegment d va) hr => ?_, fun hpe (ho : ¬ OutsideSegment d va) hr => ?_⟩
  · rw [hpass hpe (segmentBounds_inside ho), hright.trans hr]
    cases k <;> rfl
  · rw [hpass hpe (segmentBounds_inside ho), hright.trans hr]
    rfl

end Sys2Proof.Machine
end

section
/-! Translation: lookups, the touch of an entry, and what an exception takes back of the TLB of its fetch. -/

namespace Sys2Proof.Machine

/-! ### Canonical tables are equal when they read alike -/

/-- The first key of a canonical table is within its bound, its value is no default, and the rest is canonical. -/
theorem sparseWfFrom_cons {α : Type} [DecidableEq α] (d : α) (lo k : Nat) (v : α) (l : List (Nat × α)) :
    sparseWfFrom d lo ((k, v) :: l) = true ↔ lo ≤ k ∧ v ≠ d ∧ sparseWfFrom d (k + 1) l = true := by
  simp only [sparseWfFrom, Bool.and_eq_true, decide_eq_true_eq, and_assoc]

/-- A key below the first one of a canonical table reads the default. -/
theorem sparseGet_cons_below {α : Type} [DecidableEq α] (d : α) (k a : Nat) (v : α) (l : List (Nat × α))
    (h : sparseWfFrom d (k + 1) l = true) (ha : a < k) : sparseGet d ((k, v) :: l) a = d := by
  rw [sparseGet, if_neg (by omega)]
  exact sparseGet_below d l (k + 1) a h (by omega)

/-- The first key of a table reads its value. -/
theorem sparseGet_head {α : Type} (d : α) (k : Nat) (v : α) (l : List (Nat × α)) : sparseGet d ((k, v) :: l) k = v :=
  if_pos rfl

/-- Two canonical tables that read alike are equal. -/
theorem sparse_ext {α : Type} [DecidableEq α] (d : α) (l m : List (Nat × α)) (lo lo' : Nat)
    (hl : sparseWfFrom d lo l = true) (hm : sparseWfFrom d lo' m = true)
    (h : ∀ a, sparseGet d l a = sparseGet d m a) : l = m := by
  induction l generalizing m lo lo' with
  | nil =>
    cases m with
    | nil => rfl
    | cons e m =>
      obtain ⟨k, v⟩ := e
      obtain ⟨_, hv, _⟩ := (sparseWfFrom_cons d lo' k v m).1 hm
      exact absurd ((sparseGet_head d k v m).symm.trans (h k).symm) hv
  | cons e l ih =>
    obtain ⟨k, v⟩ := e
    obtain ⟨_, hv, hl'⟩ := (sparseWfFrom_cons d lo k v l).1 hl
    cases m with
    | nil =>
      exact absurd ((sparseGet_head d k v l).symm.trans (h k)) hv
    | cons e m =>
      obtain ⟨k', v'⟩ := e
      obtain ⟨_, hv', hm'⟩ := (sparseWfFrom_cons d lo' k' v' m).1 hm
      have hkk : k = k' := by
        rcases Nat.lt_trichotomy k k' with hlt | heq | hlt
        · exact absurd ((sparseGet_head d k v l).symm.trans
            ((h k).trans (sparseGet_cons_below d k' k v' m hm' hlt))) hv
        · exact heq
        · exact absurd ((sparseGet_head d k' v' m).symm.trans
            ((h k').symm.trans (sparseGet_cons_below d k k' v l hl' hlt))) hv'
      subst hkk
      have hvv : v = v' := (sparseGet_head d k v l).symm.trans ((h k).trans (sparseGet_head d k v' m))
      have htail : l = m := ih m (k + 1) (k + 1) hl' hm' fun a => by
        by_cases ha : k = a
        · rw [sparseGet_below d l (k + 1) a hl' (by omega), sparseGet_below d m (k + 1) a hm' (by omega)]
        · have hk := h a
          rwa [sparseGet, sparseGet, if_neg ha, if_neg ha] at hk
      rw [hvv, htail]

/-! ### The A bit -/

/-- A is bit 53 of an entry (20_memory R180). -/
theorem tlbAccessed_getLsbD (i : Nat) : tlbAccessed.getLsbD i = decide (i = 53) := by
  rw [show tlbAccessed = BitVec.twoPow 64 53 by decide, BitVec.getLsbD_twoPow, decide_eq_true (by decide),
    Bool.true_and]
  exact decide_eq_decide.2 eq_comm

/-- A is set in an entry where it has been set. -/
theorem getLsbD_or_tlbAccessed (t : Word) : (t ||| tlbAccessed).getLsbD 53 = true := by
  rw [BitVec.getLsbD_or, tlbAccessed_getLsbD, decide_eq_true rfl, Bool.or_true]

/-- Setting A where it is set changes nothing. -/
theorem or_tlbAccessed_of_set {t : Word} (h : t.getLsbD 53 = true) : t ||| tlbAccessed = t := by
  refine BitVec.eq_of_getLsbD_eq fun i _ => ?_
  rw [BitVec.getLsbD_or, tlbAccessed_getLsbD]
  by_cases hi : i = 53
  · rw [hi, h]; rfl
  · rw [decide_eq_false hi, Bool.or_false]

/-- Setting A where it is clear and clearing it again changes nothing. -/
theorem clear_or_tlbAccessed {t : Word} (h : t.getLsbD 53 = false) : (t ||| tlbAccessed) &&& ~~~tlbAccessed = t := by
  refine BitVec.eq_of_getLsbD_eq fun i hi => ?_
  rw [BitVec.getLsbD_and, BitVec.getLsbD_or, BitVec.getLsbD_not, tlbAccessed_getLsbD, decide_eq_true hi]
  by_cases hj : i = 53
  · rw [hj, h]; rfl
  · rw [decide_eq_false hj, Bool.or_false, Bool.true_and, Bool.not_false, Bool.and_true]

/-- Clearing A twice is clearing it once. -/
theorem clear_clear_tlbAccessed (t : Word) : t &&& ~~~tlbAccessed &&& ~~~tlbAccessed = t &&& ~~~tlbAccessed := by
  rw [BitVec.and_assoc, BitVec.and_self]

/-- What an access sets in its entry: A, and D for a write (20_memory R184). -/
theorem Access.touch_eq (k : Access) (t : Word) :
    k.touch t = t ||| 1#64 <<< 53 ||| (if k = .store then 1#64 <<< 54 else 0) := by
  cases k
  · exact (BitVec.or_zero (x := t ||| tlbAccessed)).symm
  · rfl
  · exact (BitVec.or_zero (x := t ||| tlbAccessed)).symm

/-- The entries that the fetch in progress has touched alone, after an access (60 R1004). -/
theorem Access.mem_mark (k : Access) (t : Word) (key m : Nat) (marks : List Nat) : m ∈ k.mark t key marks ↔
    if k = .fetch then m ∈ marks ∨ m = key ∧ t.getLsbD 53 = false else m ∈ marks ∧ m ≠ key := by
  unfold Access.mark
  by_cases hk : k = .fetch
  · rw [if_pos hk, if_pos hk]
    cases ht : t.getLsbD 53
    · simp only [Bool.false_eq_true, if_false, List.mem_cons, and_true]
      exact or_comm
    · simp only [if_true, Bool.true_eq_false, and_false, or_false]
  · rw [if_neg hk, if_neg hk]
    simp only [List.mem_filter, Bool.not_eq_true', decide_eq_false_iff_not, ne_eq]

namespace State

/-! ### Translation -/

/-- User-mode addresses below the top 16 MB are translated (20_memory R181). -/
theorem translates_iff (s : State) (la : Word) :
    s.translates la = true ↔ s.om = 0#2 ∧ la.extractLsb' 24 40 ≠ BitVec.allOnes 40 := by
  unfold translates
  rw [Bool.and_eq_true, beq_iff_eq, bne_iff_ne]

/-- The ways that match an address (20_memory R182). -/
theorem mem_tlbWays (s : State) (la : Word) (w : Nat) : w ∈ s.tlbWays la ↔ w < 4 ∧
    (s.tlbEntry w (la.extractLsb' 12 10).toNat).extractLsb' 26 22 = la.extractLsb' 22 22 ∧
    ((s.tlbEntry w (la.extractLsb' 12 10).toNat).getLsbD 55 = true ∨
      (s.tlbEntry w (la.extractLsb' 12 10).toNat).extractLsb' 56 8 = s.csr.asid) := by
  unfold tlbWays
  simp only [List.mem_filter, List.mem_range, Bool.and_eq_true, Bool.or_eq_true, beq_iff_eq]

/-- A lookup that no way matches. -/
theorem tlbLookup_none {s : State} {la : Word} (h : s.tlbWays la = []) : s.tlbLookup la = (none, s) := by
  unfold tlbLookup; rw [h]

/-- A lookup that one way matches. -/
theorem tlbLookup_one {s : State} {la : Word} {w : Nat} (h : s.tlbWays la = [w]) : s.tlbLookup la = (some w, s) := by
  unfold tlbLookup; rw [h]

/-- An address that is not translated stands for itself (20_memory R181). -/
theorem translate_untranslated {s : State} {la : Word} (k : Access) (va : Word) (h : s.translates la = false) :
    s.translate k va la = .ok la s := by
  unfold translate; rw [h]; rfl

/-- An address that no way matches takes TLB (20_memory R183). -/
theorem translate_miss {s : State} {la : Word} (k : Access) (va : Word) (h : s.translates la = true)
    (hw : s.tlbWays la = []) : s.translate k va la = .trap (.memory causeTLB va) s := by
  unfold translate; rw [if_pos h, tlbLookup_none hw]

/-- An address that one way matches is checked against the right of its page, and the entry is touched (20_memory R182,
R184). -/
theorem translate_hit {s : State} {la : Word} {w : Nat} (k : Access) (va : Word) (h : s.translates la = true)
    (hw : s.tlbWays la = [w]) : s.translate k va la =
      if k.pageRight (s.tlbEntry w (la.extractLsb' 12 10).toNat) then
        .ok (tlbPhysical (s.tlbEntry w (la.extractLsb' 12 10).toNat) la) (s.touchTlb k w (la.extractLsb' 12 10).toNat)
      else .trap (.memory k.rightFault va) s := by
  unfold translate; rw [if_pos h, tlbLookup_one hw]

/-- The entries of the TLB after one is touched. -/
theorem touchTlb_tlbEntry (s : State) (k : Access) (w e w1 e1 : Nat) (h : sparseWf 0 s.tlb = true) :
    (s.touchTlb k w e).tlbEntry w1 e1 =
      if 1024 * w1 + e1 = 1024 * w + e then k.touch (s.tlbEntry w e) else s.tlbEntry w1 e1 :=
  sparseGet_sparseSet 0 s.tlb 0 _ _ _ h

/-- A touched entry and its mark are all that a touch changes. -/
theorem touchTlb_frame (s : State) (k : Access) (w e : Nat) :
    { s.touchTlb k w e with
        tlb := s.tlb
        fetching := { (s.touchTlb k w e).fetching with marks := s.fetching.marks } } = s := rfl

end State

/-- The right that an access needs of a page, by its bit in the entry (20_memory R184). -/
theorem Access.pageRight_eq (k : Access) (t : Word) :
    k.pageRight t = t.getLsbD (match k with | .load => 50 | .store => 49 | .fetch => 48) := by
  cases k <;> rfl

/-! ### What an exception takes back of its fetch -/

/-- Clearing the A bits of some entries. -/
theorem sparseGet_clearAccessed (marks : List Nat) (tlb : List (Nat × Word)) (m : Nat) (h : sparseWf 0 tlb = true) :
    sparseGet 0 (marks.foldl clearAccessed tlb) m =
      if m ∈ marks then sparseGet 0 tlb m &&& ~~~tlbAccessed else sparseGet 0 tlb m := by
  induction marks generalizing tlb with
  | nil => rfl
  | cons k marks ih =>
    have hk : sparseGet 0 (clearAccessed tlb k) m =
        if m = k then sparseGet 0 tlb k &&& ~~~tlbAccessed else sparseGet 0 tlb m :=
      sparseGet_sparseSet 0 tlb 0 k m _ h
    rw [List.foldl_cons, ih (clearAccessed tlb k) (sparseSet_wf 0 tlb k _ h), hk]
    by_cases hmk : m = k
    · subst hmk
      rw [if_pos rfl, if_pos List.mem_cons_self, clear_clear_tlbAccessed, ite_self]
    · rw [if_neg hmk]
      simp only [List.mem_cons, hmk, false_or]

/-- `t` is a state of a fetch that began at s with nothing noted: the TLB is that of s but for A bits which were clear,
have been set, and are noted (60 R1004, log 14). -/
structure FetchTouched (s t : State) : Prop where
  form : sparseWf 0 t.tlb = true
  marked : ∀ m ∈ t.fetching.marks, (sparseGet 0 s.tlb m).getLsbD 53 = false ∧
    sparseGet 0 t.tlb m = sparseGet 0 s.tlb m ||| tlbAccessed
  others : ∀ m, m ∉ t.fetching.marks → sparseGet 0 t.tlb m = sparseGet 0 s.tlb m

namespace FetchTouched

variable {s t u : State}

/-- A fetch has touched nothing when it begins. -/
theorem refl (h : sparseWf 0 s.tlb = true) (hm : s.fetching.marks = []) : FetchTouched s s :=
  ⟨h, fun _ h => absurd (hm ▸ h) List.not_mem_nil, fun _ _ => rfl⟩

/-- A step that leaves the TLB and the marks. -/
theorem keep (h : FetchTouched s t) (ht : u.tlb = t.tlb ∧ u.fetching = t.fetching) : FetchTouched s u := by
  obtain ⟨h1, h2⟩ := ht
  exact ⟨h1 ▸ h.form, by rw [h1, h2]; exact h.marked, by rw [h1, h2]; exact h.others⟩

/-- A fetch through an entry sets its A bit, and notes it where it was clear. -/
theorem touch (h : FetchTouched s t) (w e : Nat) : FetchTouched s (t.touchTlb .fetch w e) := by
  have hget : ∀ m, sparseGet 0 (t.touchTlb .fetch w e).tlb m =
      if m = 1024 * w + e then t.tlbEntry w e ||| tlbAccessed else sparseGet 0 t.tlb m :=
    fun m => sparseGet_sparseSet 0 t.tlb 0 _ m _ h.form
  have hmark : ∀ m, m ∈ (t.touchTlb .fetch w e).fetching.marks ↔
      m ∈ t.fetching.marks ∨ m = 1024 * w + e ∧ (t.tlbEntry w e).getLsbD 53 = false :=
    fun m => Access.mem_mark .fetch _ _ m _
  have hkey : t.tlbEntry w e = sparseGet 0 t.tlb (1024 * w + e) := rfl
  refine ⟨sparseSet_wf _ _ _ _ h.form, fun m hm => ?_, fun m hm => ?_⟩
  · rw [hget]
    rcases (hmark m).1 hm with hm | ⟨rfl, hclear⟩
    · obtain ⟨h1, h2⟩ := h.marked m hm
      refine ⟨h1, ?_⟩
      by_cases he : m = 1024 * w + e
      · rw [if_pos he, hkey, ← he, h2, BitVec.or_assoc, BitVec.or_self]
      · rw [if_neg he, h2]
    · have hnot : 1024 * w + e ∉ t.fetching.marks := fun hin => by
        have hset := getLsbD_or_tlbAccessed (sparseGet 0 s.tlb (1024 * w + e))
        rw [← (h.marked _ hin).2, ← hkey, hclear] at hset
        cases hset
      have hold := h.others _ hnot
      rw [if_pos rfl, hkey, hold]
      exact ⟨by rw [← hold, ← hkey]; exact hclear, rfl⟩
  · have hm' := fun hin => hm ((hmark m).2 hin)
    rw [hget]
    by_cases he : m = 1024 * w + e
    · subst he
      have hset : (t.tlbEntry w e).getLsbD 53 = true := by
        rw [← Bool.not_eq_false]
        exact fun hc => hm' (.inr ⟨rfl, hc⟩)
      rw [if_pos rfl, or_tlbAccessed_of_set hset]
      exact h.others _ fun hin => hm' (.inl hin)
    · rw [if_neg he]
      exact h.others m fun hin => hm' (.inl hin)

/-- Taking the fetch back gives the TLB as it was. -/
theorem abandon (h : FetchTouched s t) (hs : sparseWf 0 s.tlb = true) : t.abandonFetch.tlb = s.tlb := by
  refine sparse_ext 0 _ _ 0 0 (clearAccessed_wf t.fetching.marks t.tlb h.form) hs fun m => ?_
  refine (sparseGet_clearAccessed t.fetching.marks t.tlb m h.form).trans ?_
  by_cases hm : m ∈ t.fetching.marks
  · obtain ⟨h1, h2⟩ := h.marked m hm
    rw [if_pos hm, h2, clear_or_tlbAccessed h1]
  · rw [if_neg hm, h.others m hm]

end FetchTouched

/-- `t` has the TLB and the fetch in progress of s. -/
def SameTlb (s t : State) : Prop := t.tlb = s.tlb ∧ t.fetching = s.fetching

/-- A state has its own TLB. -/
theorem SameTlb.refl (s : State) : SameTlb s s := ⟨rfl, rfl⟩

/-- Two steps that leave the TLB leave it together. -/
theorem SameTlb.trans {s t u : State} (h : SameTlb s t) (k : SameTlb t u) : SameTlb s u :=
  ⟨k.1.trans h.1, k.2.trans h.2⟩

namespace State

/-- A choice among old values and the new one leaves the TLB. -/
theorem useFrom_sameTlb {α : Type} (s : State) (olds : List α) (new : α) : SameTlb s (s.useFrom olds new).2 := by
  obtain ⟨k, hk⟩ := s.useFrom_frame olds new
  rw [hk]
  exact ⟨rfl, rfl⟩

/-- Segmentation of a fetch changes nothing: CS has been chosen (log 10). -/
theorem segment_fetch_sameTlb (s : State) (seg : Nat) (va : Word) : (s.segment .fetch seg va).Leaves (SameTlb s) := by
  unfold segment accessSelector segmentDescriptor
  split
  · exact .refl s
  · simp only [if_true]
    split
    · split
      · exact .refl s
      · split <;> exact .refl s
    · exact .refl s

/-- A lookup leaves the TLB. -/
theorem tlbLookup_sameTlb (s : State) (la : Word) : SameTlb s (s.tlbLookup la).2 := by
  unfold tlbLookup
  split <;> exact ⟨rfl, rfl⟩

/-- A key check leaves the TLB. -/
theorem checkKey_sameTlb (s : State) (va pa : Word) : (s.checkKey va pa).Leaves (SameTlb s) := by
  have hf : SameTlb s (s.fillKeys (pa.toNat / 4096)) :=
    (s.useFrom_sameTlb (pendingFor s.pending.sel 18) (s.selector 18)).trans ⟨rfl, rfl⟩
  unfold checkKey
  split
  · dsimp only
    split
    · exact hf
    · split <;> exact hf.trans (useFrom_sameTlb _ _ _)
  · exact .refl s

/-- The check of physical rights leaves the TLB. -/
theorem checkPma_sameTlb (s : State) (k : Access) (va pa : Word) : (s.checkPma k va pa).Leaves (SameTlb s) := by
  unfold checkPma
  split
  · split <;> exact .refl s
  · exact .refl s

/-- The bus leaves the TLB. -/
theorem busAnswers_sameTlb (s : State) (k : Access) (va pa : Word) (n : Nat) :
    (s.busAnswers k va pa n).Leaves (SameTlb s) := by
  unfold busAnswers
  split
  · exact .refl s
  · trivial
  · exact .refl s

end State

/-- An operation that leaves the TLB, within a fetch. -/
theorem Res.Leaves.fetchTouched {α : Type} {s t : State} {r : Res α} (hr : r.Leaves (SameTlb t))
    (h : FetchTouched s t) : r.Leaves (FetchTouched s) := by
  cases r with
  | ok _ u => exact h.keep hr
  | trap _ u => exact h.keep hr
  | stop => trivial

namespace State

variable {s t : State}

/-- Translation within a fetch. -/
theorem translate_fetchTouched (h : FetchTouched s t) (va la : Word) :
    (t.translate .fetch va la).Leaves (FetchTouched s) := by
  unfold translate
  split
  · have hl := h.keep (t.tlbLookup_sameTlb la)
    generalize t.tlbLookup la = q at hl
    obtain ⟨_ | w, t1⟩ := q
    · exact hl
    · dsimp only
      split
      · exact hl.touch w _
      · exact hl
  · exact h

/-- The fetch of one byte, within a fetch. -/
theorem fetchByte_fetchTouched (h : FetchTouched s t) (va : Word) : (t.fetchByte va).Leaves (FetchTouched s) := by
  unfold fetchByte physical
  refine Res.leaves_bind (P := FetchTouched s) ?_ (fun _ h => h) fun pa t1 h1 => ?_
  · exact Res.leaves_bind ((t.segment_fetch_sameTlb 7 va).fetchTouched h) (fun _ h => h) fun la t1 h1 =>
      Res.leaves_bind (translate_fetchTouched h1 va la) (fun _ h => h) fun pa t2 h2 =>
        Res.leaves_bind ((t2.checkKey_sameTlb va pa).fetchTouched h2) (fun _ h => h) fun _ t3 h3 =>
          Res.leaves_bind ((t3.checkPma_sameTlb .fetch va pa).fetchTouched h3) (fun _ h => h) fun _ t4 h4 => h4
  · exact Res.leaves_bind ((t1.busAnswers_sameTlb .fetch va pa 1).fetchTouched h1) (fun _ h => h) fun _ t2 h2 =>
      h2.keep (useFrom_sameTlb _ _ _)

/-- The fetch of some bytes, within a fetch. -/
theorem fetchBytes_fetchTouched (h : FetchTouched s t) (va : Word) (n : Nat) :
    (t.fetchBytes va n).Leaves (FetchTouched s) := by
  induction n generalizing t va with
  | zero => exact h
  | succ n ih =>
    exact Res.leaves_bind (fetchByte_fetchTouched h va) (fun _ h => h) fun _ t1 h1 =>
      Res.leaves_bind (ih h1 (nextIp va 1)) (fun _ h => h) fun _ _ h2 => h2

/-- The fetch of an instruction that begins with nothing noted notes all that it changes in the TLB (60 R1004). -/
theorem fetchInstruction_fetchTouched {bs : List Byte} {va : Word} (hs : sparseWf 0 s.tlb = true)
    (hm : s.fetching.marks = []) (h : s.fetchInstruction va = .ok bs t) : FetchTouched s t := by
  unfold fetchInstruction at h
  have hok := Res.restore_ok h
  suffices hleaves : Res.Leaves (FetchTouched s) (.ok bs t) from hleaves
  rw [← hok]
  refine Res.leaves_bind (fetchBytes_fetchTouched (.refl hs hm) va 2) (fun _ h => h) fun parcel s1 h1 => ?_
  split
  · exact h1
  · exact Res.leaves_bind (fetchBytes_fetchTouched h1 _ _) (fun _ h => h) fun _ _ h2 => h2

/-! ### Access through a translation -/

/-- The path of an aligned access whose segment and translation answer, that no key check covers, over memory with the
PMA right. -/
theorem pathTo_settled {s u : State} {k : Access} {seg : Nat} {va la pa : Word} {n : Nat} (hk : k ≠ .fetch)
    (hkeys : s.checksKeys = false)
    (hmem : ∀ j < n, platformKind s.config.platformMap (pa + BitVec.ofNat 64 j).toNat = .memory)
    (hdebug : ∀ j < n, ∀ r < 4, debugMatchesData s (decide (k = .store)) (va + BitVec.ofNat 64 j) r = false)
    (hseg : s.segment k seg va = .ok la s) (htr : s.translate k va la = .ok pa u)
    (hpma : ∃ a, pmaAttributes s.config.pmaTable pa.toNat = some a ∧ k.pmaRight a = true) :
    s.PathTo k seg va n pa u ∧ Touched s u := by
  have ht : Touched s u := by
    have := s.translate_touched k va la
    rw [htr] at this
    exact this
  have hconfig : u.config = s.config := ht.keeps (fun x => x.config) fun _ _ _ _ _ _ _ => rfl
  have hchecks : u.checksKeys = s.checksKeys := ht.keeps (fun x => x.checksKeys) fun _ _ _ _ _ _ _ => rfl
  have hkey : u.checkKey va pa = .ok () u := by
    unfold checkKey; rw [hchecks, hkeys]; rfl
  have hattr : u.checkPma k va pa = .ok () u := by
    obtain ⟨a, ha, hr⟩ := hpma
    unfold checkPma
    rw [hconfig, ha]
    exact if_pos hr
  have hbus : u.busAnswers k va pa n = .ok () u := busAnswers_plain u k va pa n (by rw [hconfig]; exact hmem)
  have hstep : s.debugStep k va n = .ok () s := (if_neg hk).trans (debugData_plain s _ va n hdebug)
  exact ⟨⟨(), s, hstep, la, s, hseg, pa, u, htr, (), u, hkey, (), u, hattr, (), u, hbus, rfl, rfl⟩, ht⟩

end State

/-- Settles O42: one lookup at a time, a fetch by what it leaves of the TLB from byte to byte, and an access by its
path. -/
theorem translation : Obligations.Translation := by
  unfold Obligations.Translation
  refine ⟨⟨State.translates_iff, State.mem_tlbWays, fun s k va la hs => ⟨State.translate_untranslated k va,
    State.translate_miss k va, fun h w hw => ?hit⟩⟩,
    fun s hs => ⟨rfl, rfl, fun m => sparseGet_clearAccessed s.fetching.marks s.tlb m hs⟩,
    fun s u va bs hs hm h => (State.fetchInstruction_fetchTouched hs hm h).abandon hs,
    fun s u seg va la pa n hn hn2 ha hkeys hmem =>
      ⟨fun ⟨h1, h2, h3, h4⟩ => ?load, fun ⟨h1, h2, h3, h4⟩ hw v => ?store⟩⟩
  case hit =>
    have hright := k.pageRight_eq (s.tlbEntry w (la.extractLsb' 12 10).toNat)
    have htr := State.translate_hit k va h hw
    refine ⟨fun hr => ?_, fun hr => ⟨_, htr.trans (if_pos (hright.trans hr)), ?_, fun w1 e1 hne => ?_,
      s.touchTlb_frame k w _, fun m => Access.mem_mark k _ _ m _⟩⟩
    · rw [htr, hright.trans hr]
      cases k <;> rfl
    · rw [State.touchTlb_tlbEntry s k _ _ _ _ hs, if_pos rfl, Access.touch_eq]
    · rw [State.touchTlb_tlbEntry s k _ _ _ _ hs, if_neg hne]
  case load =>
    obtain ⟨hp, ht⟩ := State.pathTo_settled (by decide) hkeys hmem h1 h2 h3 h4
    have hv : u.valueAt pa n = s.valueAt pa n := ht.keeps (fun x => x.valueAt pa n) fun _ _ _ _ _ _ _ => rfl
    rw [State.memRead_path ha hp, hv]
  case store =>
    obtain ⟨hp, ht⟩ := State.pathTo_settled (by decide) hkeys hmem h1 h2 h3 h4
    have hmem' : u.mem = s.mem := ht.keeps (fun x => x.mem) fun _ _ _ _ _ _ _ => rfl
    exact State.memWrite_path v hn hn2 ha (by rw [hmem']; exact hw) hp

end Sys2Proof.Machine
end

section
/-! The path of an access: key checks, PMA regions and the answers of the bus. -/

namespace Sys2Proof.Machine

/-! ### The path of an access -/

/-- An access that reaches its physical address has left memory as it was. -/
theorem State.PathTo.mem {s t : State} {k : Access} {seg : Nat} {va pa : Word} {n : Nat}
    (h : s.PathTo k seg va n pa t) : t.mem = s.mem := by
  obtain ⟨s1, h1, h2, _⟩ := h.physical
  have hd : (s.debugStep k va n).Leaves (Touched s) := by
    unfold State.debugStep
    split
    · exact .refl s
    · exact s.debugData_touched _ va n
  have hp := s1.physical_touched k seg va
  rw [h1] at hd
  rw [h2] at hp
  exact (hd.trans hp).keeps (fun x => x.mem) fun _ _ _ _ _ _ _ => rfl

/-! ### Keys -/

/-- When an access is checked against the keys (D29). -/
theorem State.checksKeys_iff (s : State) : s.checksKeys = true ↔ s.pe = true ∧ s.om ∈ s.config.keyCheckModes := by
  unfold State.checksKeys
  rw [Bool.and_eq_true, decide_eq_true_iff]

/-- An access that no key check covers passes. -/
theorem State.checkKey_unchecked {s : State} (h : s.checksKeys = false) (va pa : Word) :
    s.checkKey va pa = .ok () s := by
  unfold State.checkKey
  rw [h]
  rfl

/-- A value kept under a key is listed with it. -/
theorem mem_pendingFor {κ α : Type} [DecidableEq κ] (l : List (κ × α)) (k : κ) (x : α) :
    x ∈ pendingFor l k ↔ (k, x) ∈ l := by
  unfold pendingFor
  simp only [List.mem_map, List.mem_filter, decide_eq_true_eq, Prod.exists]
  constructor
  · rintro ⟨a, b, ⟨h, rfl⟩, rfl⟩
    exact h
  · exact fun h => ⟨k, x, ⟨h, rfl⟩, rfl⟩

/-- A dependent use gives the new value or an old one (70_reset R1090). -/
theorem State.useFrom_mem {α : Type} (s : State) (olds : List α) (new : α) : (s.useFrom olds new).1 ∈ new :: olds := by
  unfold State.useFrom
  split
  · exact List.mem_cons_self
  · unfold chooseFrom
    rename_i o os
    cases hg : (o :: os)[Config.freeChoice s.draw 0 % ((o :: os).length + 1)]? with
    | none => exact List.mem_cons_self
    | some x => exact List.mem_cons_of_mem _ (List.mem_of_getElem? hg)

/-- The key that the table in memory holds for a page. -/
theorem State.tableKey_memory {s : State} {base : Word} {page : Nat} (k : Nat)
    (h : firstNonMemory s.config.platformMap (keyAddress base page) 4 = none) :
    s.tableKey base page k = (Memory.tetra s.mem (keyAddress base page)).extractLsb' 0 20 := by
  unfold State.tableKey
  rw [h]

/-- What an empty key cache is filled with for a page: the key that the table holds for it, and those that it held
before it was rewritten (20_memory R196, 93 U8). -/
theorem State.mem_fillKeys {s : State} {d : Descriptor} (page : Nat) (hs : s.pending.sel = [])
    (hd : (s.selector 18).desc = some d) (hc : s.keyCache = [])
    (hm : firstNonMemory s.config.platformMap (keyAddress d.o0 page) 4 = none) (key : BitVec 20) :
    (page, key) ∈ (s.fillKeys page).keyCache ↔
      key = (Memory.tetra s.mem (keyAddress d.o0 page)).extractLsb' 0 20 ∨
        ∃ old, ((keyAddress d.o0 page).toNat, old) ∈ s.rewritten ∧ key = old.extractLsb' 0 20 := by
  have hbase : s.cached 18 (s.selector 18) = d := by
    unfold State.cached
    rw [hd]
    rfl
  have hpage : page / 16 * 16 + page % 16 = page := Nat.div_add_mod' page 16
  have hkeep : ∀ l : List (Nat × BitVec 20), l.filter (fun _ => true) = l :=
    fun _ => List.filter_eq_self.2 fun _ _ => rfl
  unfold State.fillKeys
  simp only [State.useSelector_settled s 18 hs, hbase, hc, List.not_mem_nil, decide_false, Bool.not_false,
    hkeep, List.append_nil, List.mem_append, List.mem_map, List.mem_flatMap, List.mem_range,
    Prod.mk.injEq, State.oldKeys, mem_pendingFor]
  constructor
  · rintro (⟨k, hk, h1, h2⟩ | ⟨k, hk, x, ⟨old, h1, h2⟩, h3, h4⟩)
    · rw [h1] at h2
      exact .inl (h2.symm.trans (s.tableKey_memory k hm))
    · rw [h3] at h1
      exact .inr ⟨old, h1, by rw [← h4, ← h2]⟩
  · rintro (h | ⟨old, h1, h2⟩)
    · exact .inl ⟨page % 16, Nat.mod_lt _ (by decide), hpage, by rw [hpage, s.tableKey_memory _ hm, h]⟩
    · exact .inr ⟨page % 16, Nat.mod_lt _ (by decide), key, ⟨old, by rw [hpage]; exact h1, h2.symm⟩, hpage, rfl⟩

/-- Filling the key cache draws, and changes nothing else (20_memory R196). -/
theorem State.fillKeys_frame (s : State) (page : Nat) :
    { s.fillKeys page with keyCache := s.keyCache, draw := s.draw } = s := by
  obtain ⟨k, hk⟩ := s.useSelector_frame 18
  unfold State.fillKeys
  dsimp only
  rw [hk]
  rfl

/-- A key check with a key cached for the page: some key that the cache holds for it decides, and nothing but the cache
and the draw counter changes. -/
theorem State.checkKey_checked {s : State} (va pa : Word) (hk : s.checksKeys = true) {key0 : BitVec 20}
    (h0 : (pa.toNat / 4096, key0) ∈ (s.fillKeys (pa.toNat / 4096)).keyCache) :
    ∃ key t, (pa.toNat / 4096, key) ∈ (s.fillKeys (pa.toNat / 4096)).keyCache ∧
      { t with keyCache := s.keyCache, draw := s.draw } = s ∧
      s.checkKey va pa = if key ∈ s.csr.keys.toList then .ok () t else .trap (.memory causeKEY va) t := by
  have hf := s.fillKeys_frame (pa.toNat / 4096)
  unfold State.checkKey
  rw [if_pos hk]
  dsimp only
  generalize s.fillKeys (pa.toNat / 4096) = s1 at *
  have hmem := mem_pendingFor s1.keyCache (pa.toNat / 4096)
  cases hp : pendingFor s1.keyCache (pa.toNat / 4096) with
  | nil =>
    rw [hp] at hmem
    exact absurd ((hmem key0).2 h0) List.not_mem_nil
  | cons key others =>
    rw [hp] at hmem
    obtain ⟨k, hdraw⟩ := s1.useFrom_frame others key
    refine ⟨(s1.useFrom others key).1, (s1.useFrom others key).2, (hmem _).1 (s1.useFrom_mem others key), ?_, ?_⟩
    · rw [hdraw]
      exact hf
    · simp only [decide_eq_true_eq]

/-! ### Physical memory attributes -/

/-- A region covers a physical address (20_memory R200). -/
def Covers (r : Config.PmaRegion) (pa : Nat) : Prop := r.lb.toNat ≤ pa / 16 ∧ pa / 16 ≤ r.ub.toNat

/-- The test that the attributes' lookup makes of a region. -/
theorem covers_iff (r : Config.PmaRegion) (pa : Nat) :
    (decide (r.lb.toNat ≤ pa / 16) && decide (pa / 16 ≤ r.ub.toNat)) = true ↔ Covers r pa := by
  rw [Bool.and_eq_true, decide_eq_true_iff, decide_eq_true_iff]
  rfl

/-- The attributes of an address are those of the lowest-numbered region that covers it (D31). -/
theorem pmaAttributes_lowest {table : Vector Config.PmaRegion 8} {pa : Nat} (i : Fin 8) (hi : Covers (table.get i) pa)
    (hlow : ∀ j < i, ¬ Covers (table.get j) pa) : pmaAttributes table pa = some (table.get i).attr := by
  have hlen : table.toList.length = 8 := Vector.length_toList
  have hget : ∀ (j : Nat) (hj : j < 8), table.toList[j]'(by omega) = table.get ⟨j, hj⟩ := fun j hj => by
    rw [Vector.getElem_toList]
    rfl
  have hfind : table.toList.find? (fun r => decide (r.lb.toNat ≤ pa / 16) && decide (pa / 16 ≤ r.ub.toNat)) =
      some (table.get i) := by
    refine List.find?_eq_some_iff_getElem.2 ⟨(covers_iff _ _).2 hi, i.val, by omega, hget i.val i.isLt, fun j hj => ?_⟩
    rw [Bool.not_eq_true', ← Bool.not_eq_true, covers_iff, hget j (by omega)]
    exact hlow ⟨j, by omega⟩ hj
  unfold pmaAttributes
  rw [hfind]
  rfl

/-- An address that no region covers has no attributes. -/
theorem pmaAttributes_none {table : Vector Config.PmaRegion 8} {pa : Nat} (h : ∀ i : Fin 8, ¬ Covers (table.get i) pa) :
    pmaAttributes table pa = none := by
  unfold pmaAttributes
  rw [Option.map_eq_none_iff, List.find?_eq_none]
  intro r hr
  obtain ⟨i, hi, rfl⟩ := List.getElem_of_mem hr
  rw [covers_iff, Vector.getElem_toList]
  exact h ⟨i, by rwa [Vector.length_toList] at hi⟩

/-- The PMA right that an access needs, by its bit (20_memory R201). -/
theorem Access.pmaRight_eq (k : Access) (a : BitVec 16) :
    k.pmaRight a = a.getLsbD (match k with | .load => 2 | .store => 1 | .fetch => 0) := by
  cases k <;> rfl

/-! ### The bus -/

/-- The first of some numbers in which something is found. -/
theorem findSome_range_first {α : Type} {n j : Nat} {f : Nat → Option α} {x : α} (hj : j < n)
    (hlow : ∀ i < j, f i = none) (hx : f j = some x) : (List.range n).findSome? f = some x := by
  obtain ⟨m, rfl⟩ : ∃ m, n = j + (m + 1) := ⟨n - j - 1, by omega⟩
  rw [List.range_add, List.findSome?_append, State.find_range_none j f hlow, Option.none_or, List.range_succ_eq_map,
    List.map_cons, List.findSome?_cons, Nat.add_zero, hx]

/-- The number of a byte's address, where the addresses do not wrap. -/
theorem toNat_add_ofNat {pa : Word} {j : Nat} (h : pa.toNat + j < 2 ^ 64) :
    (pa + BitVec.ofNat 64 j).toNat = pa.toNat + j := by
  rw [BitVec.toNat_add, BitVec.toNat_ofNat]
  omega

/-- The first byte that no memory answers for. -/
theorem firstNonMemory_first {map : List Config.PhysRange} {pa : Word} {n j : Nat} (hj : j < n)
    (hlow : ∀ i < j, platformKind map (pa + BitVec.ofNat 64 i).toNat = .memory) (hw : pa.toNat + j < 2 ^ 64)
    (hk : platformKind map (pa + BitVec.ofNat 64 j).toNat ≠ .memory) :
    firstNonMemory map pa n = some (pa.toNat + j, platformKind map (pa + BitVec.ofNat 64 j).toNat) := by
  unfold firstNonMemory
  refine findSome_range_first hj (fun i hi => ?_) ?_
  · dsimp only
    rw [hlow i hi]
  · dsimp only
    rw [toNat_add_ofNat hw] at hk ⊢
    cases hkind : platformKind map (pa.toNat + j) with
    | memory => exact absurd hkind hk
    | device => rfl
    | none => rfl

/-- The first absent byte raises the bus error with its address (60 R1012). -/
theorem State.busAnswers_absent {s : State} (k : Access) (va : Word) {pa : Word} {n j : Nat} (hj : j < n)
    (hlow : ∀ i < j, platformKind s.config.platformMap (pa + BitVec.ofNat 64 i).toNat = .memory)
    (hw : pa.toNat + j < 2 ^ 64)
    (hk : platformKind s.config.platformMap (pa + BitVec.ofNat 64 j).toNat = .none) :
    s.busAnswers k va pa n = .trap (.memory k.busFault (va + BitVec.ofNat 64 j)) s := by
  unfold State.busAnswers
  rw [firstNonMemory_first hj hlow hw (by rw [hk]; decide), hk]
  dsimp only
  rw [Nat.add_sub_cancel_left]

/-- A device byte is the model's fault (log 20). -/
theorem State.busAnswers_device {s : State} (k : Access) (va : Word) {pa : Word} {n j : Nat} (hj : j < n)
    (hlow : ∀ i < j, platformKind s.config.platformMap (pa + BitVec.ofNat 64 i).toNat = .memory)
    (hw : pa.toNat + j < 2 ^ 64)
    (hk : platformKind s.config.platformMap (pa + BitVec.ofNat 64 j).toNat = .device) :
    s.busAnswers k va pa n = .stop (.fault (.deviceAccess (pa.toNat + j))) := by
  unfold State.busAnswers
  rw [firstNonMemory_first hj hlow hw (by rw [hk]; decide), hk]

/-- Settles O43: aligned accesses by their path, misaligned ones by their bytes, each check of the path by itself. -/
theorem keysAndAttributes : Obligations.KeysAndAttributes := by
  unfold Obligations.KeysAndAttributes
  refine ⟨fun s seg va n hn ha => ?aligned, fun st seg va v n hn ha => ?misaligned,
    fun s t seg va v n e => ⟨State.memRead_trap s seg va n e t, State.memWrite_trap s seg va n v e t⟩,
    fun s va pa => ⟨s.checksKeys_iff, fun h => State.checkKey_unchecked h va pa, fun d hk hs hd hc hm => ?keys,
      fun n k hk => ⟨s.keepTetras_keeps pa n _ (List.mem_map.2 ⟨k, List.mem_range.2 hk, rfl⟩), rfl⟩,
      fun k i hi hlow => ?covered, fun k h => ?uncovered, fun k n hn =>
        ⟨fun h => s.busAnswers_plain k va pa n h, fun j hj hlow hw => ⟨fun h => ?absent,
          fun h => State.busAnswers_device k va hj hlow hw h⟩⟩⟩⟩
  case aligned =>
    exact ⟨fun pa t h => State.memRead_path ha h, fun f h => State.memRead_fails ha h,
      fun v pa t hn2 hw h => State.memWrite_path v hn hn2 ha (by rw [h.mem]; exact hw) h,
      fun v f h => State.memWrite_fails v ha h⟩
  case misaligned =>
    exact ⟨fun b h => State.memRead_chain st b seg va n ha h, fun h => State.memWrite_chain st seg va v n ha h,
      fun k hk f => ⟨fun h hf => State.memRead_chain_fails st seg va n k ha hk f h hf,
        fun h hf => State.memWrite_chain_fails st seg va v n k ha hk f h hf⟩⟩
  case keys =>
    have hfill := State.mem_fillKeys (pa.toNat / 4096) hs hd hc hm
    obtain ⟨key, t, h1, h2, h3⟩ := State.checkKey_checked va pa hk ((hfill _).2 (.inl rfl))
    exact ⟨key, (hfill key).1 h1, fun hin => ⟨t, h3.trans (if_pos hin), h2⟩,
      fun hout => ⟨t, h3.trans (if_neg hout), h2⟩⟩
  case covered =>
    unfold State.checkPma
    rw [pmaAttributes_lowest i hi hlow]
    dsimp only
    rw [Access.pmaRight_eq]
    rfl
  case uncovered =>
    unfold State.checkPma
    rw [pmaAttributes_none h]
    rfl
  case absent =>
    rw [State.busAnswers_absent k va hj hlow hw h]
    cases k <;> rfl

end Sys2Proof.Machine
end

section
/-! Loads and stores, instruction by instruction. -/

namespace Sys2Proof.Machine

/-! ### Loads -/

/-- The enabled elements are those from D_VSTEP to VL - 1 whose mask bit is set (48 R884). -/
theorem mem_enabledList_iff (s : State) (m : BitVec 3) (x : Nat) : x ∈ s.enabledList m ↔
    s.csr.vstep.toNat ≤ x ∧ x < s.vl.toNat ∧ (s.mask m).getLsbD x = true := by
  rw [mem_enabledList]
  exact ⟨fun ⟨h1, h2, h3⟩ => ⟨h1, by omega, h3⟩, fun ⟨h1, h2, h3⟩ => ⟨h1, by omega, h3⟩⟩

/-- A vector register as index gives its element (45 R667). -/
theorem elementIndexValue_vec (f : Fmt.LSX) (mask : Word) (x : Nat) (s : State) (h : f.tb = 1#2) :
    elementIndexValue f mask x s = s.vec f.rb x := by
  have ho : opnd f.tb f.rb = .vec f.rb := by rw [h]; rfl
  rw [elementIndexValue, ho]

/-- A scalar index is multiplied by the rank of the element (45 R667). -/
theorem elementIndexValue_scalar (f : Fmt.LSX) (mask : Word) (x : Nat) (s : State) (b : Word)
    (h : (opnd f.tb f.rb).scalar s = some b) :
    elementIndexValue f mask x s = b * BitVec.ofNat 64 (elementRank f.c mask x) := by
  unfold elementIndexValue
  cases ho : opnd f.tb f.rb with
  | gpr n => rw [ho] at h; cases h; rfl
  | vec n => rw [ho] at h; cases h
  | imm w => rw [ho] at h; cases h; rfl

/-- The address of an element does not depend on D_VSTEP: a resumed access goes on where it stopped (48 R884). -/
theorem elementAddress_setVstep (f : Fmt.LSX) (s : State) (k x : Nat) :
    (s.setVstep k).elementAddress f x = s.elementAddress f x := rfl

/-- Settles O35, from what a load does in its displacement and in its indexed form: every load is one of the two with
its number of bytes and its extension. -/
theorem loadInstructions : Obligations.LoadInstructions := by
  unfold Obligations.LoadInstructions
  refine ⟨fun f s mask x => ⟨elementIndexValue_vec f mask x s, elementIndexValue_scalar f mask x s⟩,
    fun f s x => rfl, mem_enabledList_iff, elementAddress_setVstep, ⟨?_, ?_, ?_, ?_, ?_, ?_, ?_, ?_⟩,
    fun f s b => rfl, ?_, ?_, ?_, ?_, ?_, ?_, ?_⟩
  iterate 8 exact fun f s => loadsAt_of_finishSeq _ _ s _ _ _ _ _ (by decide) rfl rfl
  iterate 7 exact fun f => loadsIndexed_of_loadLSX _ _ f _ _ (by decide) rfl fun _ => rfl

/-! ### Stores -/

/-- What a store in the register form does with its operand, and that it refuses a vector register (45 R664). -/
theorem storesAt_of_moveLSR (i : Instr) (c : Ctx) (f : Fmt.LSR) (s : State) (n : Nat) (hn : 0 < n) (hn2 : n < 2 ^ 64)
    (hc : c = Instr.ctx i)
    (h : exec i s = moveLSR c f (fun sel ea b s1 => s1.memWrite sel.toNat ea n b) s) :
    (∀ b, (opnd f.tb f.rb).scalar s = some b → StoresAt i s f.sel (addressLSR f s) n b) ∧
      ((opnd f.tb f.rb).scalar s = none → exec i s = .refused .vectorOperandInScalar) := by
  refine ⟨fun b hb => storesAt_of_finishSeq i c s _ _ n b hn hn2 hc ?_, fun hb => ?_⟩
  · rw [h, moveLSR, hb]
  · rw [h, moveLSR, hb]; rfl

/-- Settles O36, from what a store does: every displacement store writes the bytes of its register, every store of the
register form those of its operand. -/
theorem stores : Obligations.Stores := by
  unfold Obligations.Stores
  refine ⟨?_, ?_, ?_, ?_, ?_, ?_, ?_, ?_⟩
  iterate 5 exact fun f s => storesAt_of_finishSeq _ _ s _ _ _ _ (by decide) (by decide) rfl rfl
  iterate 3 exact fun f s => storesAt_of_moveLSR _ _ f s _ (by decide) (by decide) rfl rfl

end Sys2Proof.Machine
end

section
/-! Linear and physical addresses without an access. -/

namespace Sys2Proof.Machine

/-! ### Addresses -/

/-- The base addition adds bits 63:12 (20_memory R161). -/
theorem linearAddress_page (base va : Word) :
    (linearAddress base va).extractLsb' 12 52 = va.extractLsb' 12 52 + base.extractLsb' 12 52 :=
  BitVec.extractLsb'_append_eq_left

/-- The base addition passes bits 11:0 (20_memory R161). -/
theorem linearAddress_offset (base va : Word) : (linearAddress base va).extractLsb' 0 12 = va.extractLsb' 0 12 :=
  BitVec.extractLsb'_append_eq_right

/-- The linear address through a settled selector changes nothing (45 R700). -/
theorem State.linear_settled (s : State) (seg : Nat) (va : Word) (hs : s.pending.sel = []) :
    s.linear seg va = (linearAddress (s.cached seg (s.selector seg)).o0 va, s) := by
  unfold State.linear
  rw [State.useSelector_settled s seg hs]

/-- What LLAL and LLALX write through a settled selector (45 R700). -/
theorem linearMove_settled (l : Lane) (rt : RegNum) (sel : BitVec 3) (ea : Word) (s : State) (hs : s.pending.sel = []) :
    linearMove l rt sel ea s =
      .ok () (s.writeLane l rt (linearAddress (s.cached sel.toNat (s.selector sel.toNat)).o0 ea)) := by
  unfold linearMove
  rw [State.linear_settled s _ ea hs]

namespace LoopState

/-- A part of the state that vector registers and U_FSTAT are no part of reads as before the loop. -/
theorem keeps {α : Type} {s t : State} {rt : RegNum} {x : Nat} (h : LoopState s t rt x) (p : State → α)
    (hp : ∀ (u : State) v w, p { u with vregs := v, csr := { u.csr with fstat := w } } = p u) : p t = p s :=
  (hp t s.vregs s.csr.fstat).symm.trans (congrArg p h.frame)

/-- The address of an element during a loop that has not yet written it. -/
theorem address {s t : State} {rt : RegNum} {x : Nat} (h : LoopState s t rt x) (f : Fmt.LSX) :
    addressLSX f t (elementIndexValue f (s.mask f.m) x t) = s.elementAddress f x := by
  unfold State.elementAddress addressLSX
  rw [h.index, h.reg]

end LoopState

/-! ### Instructions that write Rt alone -/

/-- A scalar indexed instruction with a scalar index makes its one move. -/
theorem loadLSX_scalar (c : Ctx) (f : Fmt.LSX) (act : Move) (s : State) (hv : f.v = 0#1) (b : Word)
    (hb : (opnd f.tb f.rb).scalar s = some b) :
    loadLSX c f act s = finishSeq c (act none f.rt f.sel (addressLSX f s b) s) := by
  rw [loadLSX, indexedMove, if_neg (by rw [hv]; decide), hb]

/-- A scalar indexed instruction with a vector register as index is refused (93 U30). -/
theorem loadLSX_refused (c : Ctx) (f : Fmt.LSX) (act : Move) (s : State) (hv : f.v = 0#1)
    (hb : (opnd f.tb f.rb).scalar s = none) : loadLSX c f act s = .refused .vectorOperandInScalar := by
  rw [loadLSX, indexedMove, if_neg (by rw [hv]; decide), hb]
  rfl

/-- A vector indexed instruction whose move writes element y of the target with `g y`, and nothing else, has the result
of 48 R880. -/
theorem loadLSX_vector (c : Ctx) (f : Fmt.LSX) (act : Move) (s : State) (g : Nat → Word) (hv : f.v = 1#1)
    (hvl : s.pending.vl = [])
    (hact : ∀ y t, y ∈ s.enabledList f.m → LoopState s t f.rt y →
      act (some y) f.rt f.sel (s.elementAddress f y) t = .ok () (t.setVec f.rt y (g y))) :
    ∃ t, loadLSX c f act s = .next t ∧ VectorResult s s.looped t c.size f.rt f.m f.z g := by
  obtain ⟨t, h1, h2⟩ := vectorLoop_spec s f.m f.rt f.z c.size g (fun _ w => w) (fun _ => True)
    (fun x s1 => act (some x) f.rt f.sel (addressLSX f s1 (elementIndexValue f (s.mask f.m) x s1)) s1) hvl
    (fun _ _ _ => trivial) trivial (fun y t hy ht _ => by
      simp only [ht.address]
      exact hact y t hy ht)
  rw [foldl_keep] at h2
  refine ⟨t, ?_, h2⟩
  rw [loadLSX, indexedMove, if_pos hv, finishSeq, h1]
  rfl

/-- A vector computational instruction whose rule answers `g y` for element y, and changes nothing, has the result of
48 R880. -/
theorem run_vector (c : Ctx) (o : Operands) (f : Rule) (s : State) (g : Nat → Word) (hv : o.v = 1#1)
    (hvl : s.pending.vl = [])
    (hf : ∀ y t, y ∈ s.enabledList o.m → LoopState s t o.rt y →
      f y (o.a.element s y) (o.b.element s y) (o.c.element s y) t = .ok (g y) t) :
    ∃ t, run c o f s = .next t ∧ VectorResult s s.looped t c.size o.rt o.m o.z g := by
  obtain ⟨t, h1, h2⟩ := vectorLoop_spec s o.m o.rt o.z c.size g (fun _ w => w) (fun _ => True)
    (fun x s1 => (f x (o.a.element s1 x) (o.b.element s1 x) (o.c.element s1 x) s1).bind fun t s2 =>
      .ok () (s2.setVec o.rt x t)) hvl (fun _ _ _ => trivial) trivial (fun y t hy ht _ => by
      simp only [ht.element, hf y t hy ht, Res.bind_ok]
      rfl)
  rw [foldl_keep] at h2
  refine ⟨t, ?_, h2⟩
  rw [run, if_pos hv, finishSeq, runVector, h1]
  rfl

/-! ### Physical addresses without an access -/

namespace State

/-- An address that is not translated is its own physical address (45 R702). -/
theorem linearToPhysical_untranslated {s : State} {la : Word} (k : Nat) (h : s.translates la = false) :
    s.linearToPhysical la k = (la, s) := by
  unfold linearToPhysical
  rw [h]
  rfl

/-- One way gives its page and the offset (45 R702). -/
theorem linearToPhysical_hit {s : State} {la : Word} {w : Nat} (k : Nat) (h : s.translates la = true)
    (hw : s.tlbWays la = [w]) :
    s.linearToPhysical la k = (tlbPhysical (s.tlbEntry w (la.extractLsb' 12 10).toNat) la, s) := by
  unfold linearToPhysical tlbLookup
  rw [if_pos h, hw]

/-- A miss gives a free value (45 R702, 93 U37). -/
theorem linearToPhysical_miss {s : State} {la : Word} (k : Nat) (h : s.translates la = true) (hw : s.tlbWays la = []) :
    s.linearToPhysical la k = (s.free k, s.fresh) := by
  unfold linearToPhysical tlbLookup
  rw [if_pos h, hw]

end State

/-- The rule of LIN2PHL (45 R702). -/
def linearToPhysicalRule : Rule := fun x a _ _ s =>
  let u := s.linearToPhysical a x
  .ok u.1 u.2

/-- LIN2PHL runs this rule. -/
theorem exec_lin2phl (f : Fmt.R3) (s : State) :
    exec (.lin2phl f) s = run (Instr.ctx (.lin2phl f)) (operandsR3 f) linearToPhysicalRule s := rfl

/-- The rule at an element of the vector form whose address is not translated or matched by one way. -/
theorem linearToPhysicalRule_element {s t : State} {rt : RegNum} {y : Nat} (h : LoopState s t rt y) (la b c : Word)
    (w : Nat) (hw : s.translates la = true → s.tlbWays la = [w]) :
    linearToPhysicalRule y la b c t = .ok
      (if s.translates la then tlbPhysical (s.tlbEntry w (la.extractLsb' 12 10).toNat) la else la) t := by
  have htr : t.translates la = s.translates la := h.keeps (fun u => u.translates la) fun _ _ _ => rfl
  have hways : t.tlbWays la = s.tlbWays la := h.keeps (fun u => u.tlbWays la) fun _ _ _ => rfl
  have hentry : ∀ e, t.tlbEntry w e = s.tlbEntry w e := fun e => h.keeps (fun u => u.tlbEntry w e) fun _ _ _ => rfl
  unfold linearToPhysicalRule
  cases hs : s.translates la with
  | false => rw [State.linearToPhysical_untranslated y (htr.trans hs)]; rfl
  | true => rw [State.linearToPhysical_hit y (htr.trans hs) (hways.trans (hw hs)), hentry]; rfl

/-- Settles O39, from what one move of LLAL and one element of LIN2PHL write, in scalar and in vector form. -/
theorem addressInstructions : Obligations.AddressInstructions := by
  unfold Obligations.AddressInstructions
  refine ⟨fun base va => ⟨linearAddress_page base va, linearAddress_offset base va⟩, fun f s => ?llal,
    fun f s d hs hd => ?llalx, fun f s => ?llahx, fun f s => ?lin2phl,
    fun f => computes_pure _ _ (operandsR3 f) _ (fun _ => rfl) rfl⟩
  case llal =>
    have hmove := fun hs =>
      congrArg (finishSeq (Instr.ctx (.llal f))) (linearMove_settled none f.rt f.sel (addressLSD f s) s hs)
    refine ⟨fun d hs hd => (hmove hs).trans ?_, fun hs hd => (hmove hs).trans ?_, rfl⟩
    · rw [State.cached, hd]
      rfl
    · rw [State.cached, hd]
      rfl
  case llalx =>
    refine ⟨fun hv b hb => (loadLSX_scalar _ f _ s hv b hb).trans ?_, fun hv hvl =>
      loadLSX_vector (Instr.ctx (.llalx f)) f linearMove s _ hv hvl fun y t _ ht => ?_⟩
    · rw [linearMove_settled none f.rt f.sel _ s hs, hd]
      rfl
    · have hst : t.pending.sel = [] := (ht.keeps (fun u => u.pending.sel) fun _ _ _ => rfl).trans hs
      have hdt : t.cached f.sel.toNat (t.selector f.sel.toNat) = d :=
        (ht.keeps (fun u => u.cached f.sel.toNat (u.selector f.sel.toNat)) fun _ _ _ => rfl).trans hd
      rw [linearMove_settled (some y) f.rt f.sel _ t hst, hdt]
      rfl
  case llahx =>
    exact ⟨fun hv hb => ⟨loadLSX_refused _ f _ s hv hb, loadLSX_refused _ f _ s hv hb⟩,
      fun hv b hb => loadLSX_scalar _ f _ s hv b hb, fun hv hvl =>
        loadLSX_vector (Instr.ctx (.llahx f)) f linearHighMove s _ hv hvl fun _ _ _ _ => rfl⟩
  case lin2phl =>
    refine ⟨fun hv a b c ha hb hc => ⟨fun h => ?_, fun w h hw => ?_, fun h hw => ?_⟩,
      fun hv h => run_refused _ _ _ s hv h, fun hv hvl way hway =>
        run_vector (Instr.ctx (.lin2phl f)) (operandsR3 f) linearToPhysicalRule s _ hv hvl fun y t hy ht =>
          linearToPhysicalRule_element ht _ _ _ (way y) (hway y hy)⟩
    all_goals rw [exec_lin2phl]
    · refine run_scalar _ _ _ s a b c a s hv ha hb hc ?_
      rw [linearToPhysicalRule, State.linearToPhysical_untranslated 0 h]
    · refine run_scalar _ _ _ s a b c _ s hv ha hb hc ?_
      rw [linearToPhysicalRule, State.linearToPhysical_hit 0 h hw]
    · refine run_scalar _ _ _ s a b c _ s.fresh hv ha hb hc ?_
      rw [linearToPhysicalRule, State.linearToPhysical_miss 0 h hw]

end Sys2Proof.Machine
end

section
/-! Returns through a link register and through a call gate. -/

namespace Sys2Proof.Machine

/-! ### Returns and gates -/

/-- RTS removes eight bytes for each argument (46 R805). -/
theorem returnStack_eq (f : Fmt.RTS) (s : State) : returnStack f s = s.reg 27#6 + 8 * f.const15.setWidth 64 := by
  unfold returnStack zext
  refine congrArg (s.reg 27#6 + ·) ?_
  rw [BitVec.shiftLeft_eq_mul_twoPow, BitVec.mul_comm]
  rfl

/-- RTS through a link register to another address than its own (46 R805). -/
theorem execRts_jump (f : Fmt.RTS) (s : State) (hl : f.lk = 1#2 ∨ f.lk = 2#2) (d : Descriptor) (u : State)
    (ht : returnTarget f s ≠ s.codeAddr 7)
    (hu : (s.setReg 27#6 (s.reg 27#6 + 8 * f.const15.setWidth 64)).loadDescriptor (returnTarget f s).sel false =
      .ok d u) :
    execRts f s = .next ((u.putSelector 7 ⟨(returnTarget f s).sel, some d⟩).setIp (returnTarget f s).off) := by
  unfold execRts
  rw [if_neg (by rcases hl with h | h <;> rw [h] <;> decide), if_neg ht, returnStack_eq, State.jumpFar_ok _ _ d u hu]
  rfl

/-- RTS to its own address (46 R748). -/
theorem execRts_self (f : Fmt.RTS) (s : State) (hl : f.lk = 1#2 ∨ f.lk = 2#2) (ht : returnTarget f s = s.codeAddr 7) :
    execRts f s = s.raise (Instr.ctx (.rts f)) (.plain causeBT) := by
  unfold execRts
  rw [if_neg (by rcases hl with h | h <;> rw [h] <;> decide), if_pos ht]
  rfl

/-- A call gate is a system descriptor of type 4 (20_memory R173, R177). -/
theorem isCallGate_iff (d : Descriptor) :
    isCallGate d = true ↔ d.o3.getLsbD 62 = true ∧ d.o3.extractLsb' 56 4 = 4#4 := by
  have h1 : Descriptor.isSystem d = d.o3.getLsbD 62 := Descriptor.acr_getLsbD d 18 (by decide)
  have h2 : Descriptor.type d = d.o3.extractLsb' 56 4 := by
    unfold Descriptor.type Descriptor.acr
    ext i hi
    rw [BitVec.getElem_extractLsb', BitVec.getElem_extractLsb', BitVec.getLsbD_extractLsb',
      decide_eq_true (show 12 + i < 20 by omega), Bool.true_and, show 44 + (12 + i) = 56 + i by omega]
  unfold isCallGate
  rw [Bool.and_eq_true, beq_iff_eq, h1, h2]

/-- JGATE with a descriptor read goes through it where it is a call gate, and is refused where it is none (46 R800). -/
theorem execJgate_read (f : Fmt.JGATE) (s s1 : State) (g : Descriptor) (inside : Bool) (hl : f.lk ≠ 3#2)
    (hr : s.readDescriptor f.selector = .ok (g, inside) s1) :
    execJgate f s = if isCallGate g then gateJump (Instr.ctx (.jgate f)) f.lk (gateTarget g) s1
      else .refused .notCallGate := by
  unfold execJgate
  rw [if_neg hl, hr]
  rfl

/-- The link registers (46 R746). -/
theorem State.link_cases (s : State) (ret : Word) : s.link 0 ret = s ∧
    s.link 1 ret = s.setCodeAddr 1 ⟨ret, s.cs⟩ ∧ s.link 2 ret = s.setCodeAddr 2 ⟨ret, s.cs⟩ := ⟨rfl, rfl, rfl⟩

/-- Settles O46, by the target of RTS and the descriptor that JGATE reads. -/
theorem returnsAndGates : Obligations.ReturnsAndGates := by
  unfold Obligations.ReturnsAndGates
  refine ⟨fun f s => ⟨fun hl => if_pos hl, fun hl => ⟨execRts_self f s hl, fun ht d u => execRts_jump f s hl d u ht⟩⟩,
    fun f s => ⟨fun hl => if_pos hl, fun hl g inside s1 hr => ?_⟩, State.link_cases, fun f s => rfl⟩
  have hx : exec (.jgate f) s = _ := execJgate_read f s s1 g inside hl hr
  refine ⟨fun hg => ?_, fun hg ht => ?_, fun hg ht d u hu => ?_⟩
  · rw [hx, if_neg (fun h => hg ((isCallGate_iff g).1 h))]
  · rw [hx, if_pos ((isCallGate_iff g).2 hg)]
    exact if_pos ht
  · rw [hx, if_pos ((isCallGate_iff g).2 hg)]
    exact (if_neg ht).trans (congrArg (finish _) (State.jumpFar_ok _ _ d u hu))

end Sys2Proof.Machine
end

section
/-! SEI, DI, WFI and the barriers. -/

namespace Sys2Proof.Machine

/-! ### Interrupt control -/

/-- A write of the current IPL leaves the operating mode (10_state R104). -/
theorem setIpl_om (pm : Word) (l : BitVec 3) : (setIpl pm l).extractLsb' 4 2 = pm.extractLsb' 4 2 := by
  unfold setIpl
  ext i hi
  have hpm : (pm.extractLsb' 4 60).getLsbD i = pm.getLsbD (4 + i) := by
    rw [BitVec.getLsbD_extractLsb', decide_eq_true (show i < 60 by omega), Bool.true_and]
  simp only [BitVec.getElem_extractLsb', BitVec.getLsbD_append]
  rw [if_neg (by omega), if_neg (by omega), show 4 + i - 1 - 3 = i by omega, hpm]

/-- The bank of r27 does not depend on IPL, so a register may be written before or after it (10_state R23). -/
theorem State.setReg_setIpl (s : State) (n : RegNum) (w : Word) (l : BitVec 3) :
    { s.setReg n w with mode := { (s.setReg n w).mode with pmStack := setIpl (s.setReg n w).mode.pmStack l } } =
      State.setReg { s with mode := { s.mode with pmStack := setIpl s.mode.pmStack l } } n w := by
  have hb : State.bank { s with mode := { s.mode with pmStack := setIpl s.mode.pmStack l } } n = s.bank n := by
    unfold State.bank State.om
    simp only [setIpl_om]
  unfold State.setReg
  simp only [hb]
  split <;> rfl

/-- An instruction that MACHINE_ONLY does not keep from this mode runs (47 R821). -/
theorem State.machineOnly_of_allows {s : State} {op : Config.SysOp} (h : s.allows op) (r : Res Unit) :
    s.machineOnly op r = r := by
  unfold State.machineOnly
  rw [if_neg]
  rintro ⟨h1, h2⟩
  exact h.elim h2 fun h3 => h3 h1

/-- SEI with a scalar operand outside machine mode (47 R828). -/
theorem execSei_user (f : Fmt.OSR2) (s : State) (b : Word) (hb : (opnd f.tb f.rb).scalar s = some b)
    (hm : s.om ≠ 3#2) : execSei f s = s.raise (Instr.ctx (.sei f)) (.plain causePRIV) := by
  unfold execSei withOperandB
  rw [hb]
  dsimp only
  rw [if_pos hm]
  rfl

/-- SEI with a scalar operand in machine mode (47 R828). -/
theorem execSei_machine (f : Fmt.OSR2) (s : State) (b : Word) (hb : (opnd f.tb f.rb).scalar s = some b)
    (hm : s.om = 3#2) : execSei f s = .next (State.result
      { s with mode := { s.mode with pmStack := setIpl s.mode.pmStack (b.extractLsb' 0 3) } } 6 f.rt
      (s.ipl.setWidth 64)) := by
  unfold execSei withOperandB
  rw [hb]
  dsimp only
  rw [if_neg (fun h => h hm), finishSeq_ok, State.setReg_setIpl]
  rfl

/-- SEI with a vector register as operand is refused (93 U30). -/
theorem execSei_refused (f : Fmt.OSR2) (s : State) (hb : (opnd f.tb f.rb).scalar s = none) :
    execSei f s = .refused .vectorOperandInScalar := by
  unfold execSei withOperandB
  rw [hb]

/-- DI with a scalar operand (47 R826). -/
theorem execDi_allowed (f : Fmt.OSR2) (s : State) (b : Word) (hb : (opnd f.tb f.rb).scalar s = some b)
    (ha : s.allows .di) :
    execDi f s = .next (State.advance { s with mode := { s.mode with diCount := b.extractLsb' 0 3 } } 6) := by
  unfold execDi withB
  rw [State.machineOnly_of_allows ha, hb, finishSeq_ok]

/-- DI with a vector register as operand is refused (93 U30). -/
theorem execDi_refused (f : Fmt.OSR2) (s : State) (hb : (opnd f.tb f.rb).scalar s = none) (ha : s.allows .di) :
    execDi f s = .refused .vectorOperandInScalar := by
  unfold execDi withB
  rw [State.machineOnly_of_allows ha, hb, finishSeq_stop]
  rfl

/-- WFI waits at itself without a request, and else only advances (47 R829). -/
theorem execWfi_allowed (f : Fmt.S16) (s : State) (ha : s.allows .wfi) : execWfi f s =
    if s.inputs.irqLevel = 0#3 ∧ s.inputs.nmi = false then .next { s with mode := { s.mode with waiting := true } }
    else .next (s.advance 2) := by
  unfold execWfi
  rw [if_neg fun ⟨h1, h2⟩ => ha.elim h2 fun h3 => h3 h1]
  rfl

/-- Settles O50, by the instruction, its operand and the mode. -/
theorem interruptControl : Obligations.InterruptControl := by
  unfold Obligations.InterruptControl
  refine ⟨fun f s => ⟨execSei_refused f s, fun ha hb => execDi_refused f s hb ha, fun b hb =>
    ⟨execSei_user f s b hb, execSei_machine f s b hb, execDi_allowed f s b hb⟩⟩,
    fun f s => ⟨fun ha h1 h2 => ?_, fun ha h => ?_, rfl, rfl, rfl⟩⟩
  · exact (execWfi_allowed f s ha).trans (if_pos ⟨h1, h2⟩)
  · refine (execWfi_allowed f s ha).trans (if_neg fun ⟨h1, h2⟩ => ?_)
    rcases h with h | h
    · exact h h1
    · rw [h2] at h; cases h

end Sys2Proof.Machine
end

section
/-! What the decoder rejects: undefined roots and function codes, and bit 8 where a row fixes it, well-formed instructions
among them. -/

namespace Sys2Proof

open Machine

/-! ### Fields as numbers -/

/-- A field of a word as a number. -/
theorem fieldAt_toNat (w : Word) (lo n : Nat) : (fieldAt w lo n).toNat = w.toNat / 2 ^ lo % 2 ^ n := by
  rw [BitVec.extractLsb'_toNat, Nat.shiftRight_eq_div_pow]

/-! ### Bytes that are no instruction -/

/-- A root opcode without a length is rejected (30 R243). -/
theorem decode_undefinedRoot {root : Byte} {rest : List Byte} (h : lengthOf root = none) :
    decode (root :: rest) = .reject (.unimplementedRoot root) := by
  simp only [decode, h]

/-- An instruction cut short is rejected. -/
theorem decode_cutShort {root : Byte} {rest : List Byte} {n : Nat} (h : lengthOf root = some n)
    (hn : rest.length + 1 < n) : decode (root :: rest) = .reject .tooShort := by
  simp only [decode, h, List.length_cons, if_pos hn]

/-- What the core decoder rejects is rejected. -/
theorem decodeWord_of_reject {w : Word} {r : Reject} (h : decodeCore w = .reject r) : decodeWord w = .reject r := by
  rw [decodeWord, h]

/-! ### Rows that fix bit 8 -/

/-- A row that fixes bit 8 to 0 rejects it set (48 R881). -/
theorem scalarOnly_set {w : Word} (h : vectorBitOf w = 1#1) (i : Instr) :
    scalarOnly w i = .reject (.vectorBit (rootOf w)) :=
  if_neg fun h0 => absurd (h0.symm.trans h) (by decide)

/-- A row that fixes bit 8 to 1 rejects it clear. -/
theorem vectorOnly_clear {w : Word} (h : vectorBitOf w = 0#1) (n : Nat) (i : Instr) :
    vectorOnly w n i = .reject (.unimplementedFunction (rootOf w) n) :=
  if_neg fun h1 => absurd (h1.symm.trans h) (by decide)

/-- The root opcodes whose one row fixes bit 8 to 0 (48 R881, D67). -/
def scalarRoots : List Byte :=
  [0x00, 0x10, 0x12, 0x14, 0x20, 0x24, 0x25, 0x26, 0x27, 0x28, 0x29, 0x2A, 0x2B, 0x2C, 0x2D, 0x2E, 0x2F,
    0x30, 0x34, 0x35, 0x36, 0x37, 0x38, 0x39, 0x3A, 0x3B, 0x3C, 0x3D, 0x3E, 0x3F, 0x53, 0x80, 0x81, 0x82,
    0x83, 0x84, 0x85, 0x86, 0x87, 0x88, 0x89, 0x90, 0x91, 0x92, 0x93, 0x94, 0x95, 0x9F, 0xA5, 0xA6, 0xE1,
    0xE2, 0xE3, 0xE4, 0xF2, 0xF7, 0xF8, 0xF9, 0xFA]

/-- Such a root opcode gives a row that fixes bit 8 to 0. -/
theorem decodeCore_scalarRoot {w : Word} (h : rootOf w ∈ scalarRoots) : ∃ i, decodeCore w = scalarOnly w i := by
  unfold decodeCore
  generalize rootOf w = root at h
  unfold scalarRoots at h
  repeat
    rcases List.mem_cons.mp h with rfl | h
    · exact ⟨_, rfl⟩
  exact absurd h List.not_mem_nil

/-! ### Groups -/

/-- The root opcode of the CSR group leads to its decoder (47 R822). -/
theorem decodeCore_csr {w : Word} (h : rootOf w = 0x0F#8) : decodeCore w = decodeGroup0F w := by
  unfold decodeCore
  rw [h]
  rfl

/-- The rows of CSR instructions fix bit 8 to 0, and the reserved operations reject it set (47 R822). -/
theorem decodeGroup0F_set {w : Word} (h : vectorBitOf w = 1#1) : decodeGroup0F w = .reject (.vectorBit (rootOf w)) := by
  unfold decodeGroup0F
  split
  case h_5 => exact if_pos h
  all_goals exact scalarOnly_set h _

/-- A CSR word with a reserved operation is rejected as that (93 U38). -/
theorem decodeGroup0F_reserved {w : Word} (h : vectorBitOf w = 0#1) (hop : 4 ≤ (fieldAt w 41 3).toNat) :
    decodeGroup0F w = .reject .reservedCsrOp := by
  unfold decodeGroup0F
  split
  case h_5 => exact if_neg fun h1 => absurd (h1.symm.trans h) (by decide)
  all_goals omega

/-- The decoder of a group by its root opcode (30 R255 to R261). -/
noncomputable def groupDecoder (root : Byte) (w : Word) : Decoded Instr :=
  match root.toNat with
  | 0x01 => decodeGroup01 w
  | 0x02 => decodeGroup02 w
  | 0x07 => decodeGroup07 w
  | 0x52 => decodeGroup52 w
  | 0x61 => decodeGroup61 w
  | 0x62 => decodeGroup62 w
  | 0x63 => decodeGroup63 w
  | 0x65 => decodeGroup65 w
  | 0x66 => decodeGroup66 w
  | 0x67 => decodeGroup67 w
  | 0x72 => decodeGroup72 w
  | 0x76 => decodeGroup76 w
  | 0x77 => decodeGroup77 w
  | 0xAA => decodeGroupAA w
  | 0xF5 => decodeGroupF5 w
  | _ => decodeCore w

/-- A group's root opcode leads to its decoder. -/
theorem decodeCore_group (w : Word) : decodeCore w = groupDecoder (rootOf w) w := by
  unfold groupDecoder
  split
  case h_16 => rfl
  all_goals
    rename_i h
    unfold decodeCore
    rw [h]
    rfl

/-- A function code that no rule lists falls through every row of its group (30 R255 to R261). -/
theorem decodeCore_unlisted {w : Word} {root : Byte} {lo n : Nat} {codes : List Nat} (hr : rootOf w = root)
    (hg : (root, lo, n, codes) ∈ functionCodes) (hc : (fieldAt w lo n).toNat ∉ codes) :
    decodeCore w = .reject (.unimplementedFunction root (fieldAt w lo n).toNat) := by
  rw [decodeCore_group, hr]
  unfold functionCodes at hg
  repeat
    rcases List.mem_cons.mp hg with hgroup | hg
    · cases hgroup
      simp only [groupDecoder, BitVec.reduceToNat, decodeGroup01, decodeGroup02, decodeGroup07, decodeGroup52,
        decodeGroup61, decodeGroup62, decodeGroup63, decodeGroup65, decodeGroup66, decodeGroup67, decodeGroup72,
        decodeGroup76, decodeGroup77, decodeGroupAA, decodeGroupF5, hr]
      generalize (fieldAt w _ _).toNat = k at hc
      split
      any_goals rfl
      all_goals exact absurd (by decide) hc
  exact absurd hg List.not_mem_nil

/-- The listed codes of these groups have rows that fix bit 8 to 0 (48 R881, D67). -/
theorem decodeCore_scalarCode {w : Word} {root : Byte} {lo n : Nat} {codes : List Nat} (hr : rootOf w = root)
    (hg : (root, lo, n, codes) ∈ scalarCodes) (hc : (fieldAt w lo n).toNat ∈ codes) :
    ∃ i, decodeCore w = scalarOnly w i := by
  rw [decodeCore_group, hr]
  unfold scalarCodes at hg
  repeat
    rcases List.mem_cons.mp hg with hgroup | hg
    · cases hgroup
      simp only [groupDecoder, BitVec.reduceToNat, decodeGroup07, decodeGroup52, decodeGroup61, decodeGroup65]
      generalize (fieldAt w _ _).toNat = k at hc
      repeat
        rcases List.mem_cons.mp hc with rfl | hc
        · exact ⟨_, rfl⟩
      exact absurd hc List.not_mem_nil
  exact absurd hg List.not_mem_nil

/-- The listed codes of these groups have rows that fix bit 8 to 1. -/
theorem decodeCore_vectorCode {w : Word} {root : Byte} {lo n : Nat} {codes : List Nat} (hr : rootOf w = root)
    (hg : (root, lo, n, codes) ∈ vectorCodes) (hc : (fieldAt w lo n).toNat ∈ codes) :
    ∃ i, decodeCore w = vectorOnly w (fieldAt w lo n).toNat i := by
  rw [decodeCore_group, hr]
  unfold vectorCodes at hg
  repeat
    rcases List.mem_cons.mp hg with hgroup | hg
    · cases hgroup
      simp only [groupDecoder, BitVec.reduceToNat, decodeGroup01, decodeGroup02]
      generalize (fieldAt w _ _).toNat = k at hc
      repeat
        rcases List.mem_cons.mp hc with rfl | hc
        · exact ⟨_, rfl⟩
      exact absurd hc List.not_mem_nil
  exact absurd hg List.not_mem_nil

/-- Settles O3, by the root opcode, the function code and bit 8. -/
theorem decodeRejects : Obligations.DecodeRejects := by
  unfold Obligations.DecodeRejects
  refine ⟨fun _ _ h => decode_undefinedRoot h, fun _ _ _ h hn => decode_cutShort h hn, fun w hroot hv => ?_,
    fun w root lo n codes hr => ?_⟩
  · rcases List.mem_cons.mp hroot with h0F | hscalar
    · exact decodeWord_of_reject ((decodeCore_csr h0F).trans (decodeGroup0F_set hv))
    · obtain ⟨i, hi⟩ := decodeCore_scalarRoot hscalar
      exact decodeWord_of_reject (hi.trans (scalarOnly_set hv i))
  · rw [← fieldAt_toNat]
    refine ⟨fun hg hc => decodeWord_of_reject (decodeCore_unlisted hr hg hc), fun hg hc hv => ?_, fun hg hc hv => ?_,
      fun h0F hop hv => ?_⟩
    · obtain ⟨i, hi⟩ := decodeCore_scalarCode hr hg hc
      rw [← hr]
      exact decodeWord_of_reject (hi.trans (scalarOnly_set hv i))
    · obtain ⟨i, hi⟩ := decodeCore_vectorCode hr hg hc
      rw [← hr]
      exact decodeWord_of_reject (hi.trans (vectorOnly_clear hv _ i))
    · refine decodeWord_of_reject ((decodeCore_csr (hr.trans h0F)).trans (decodeGroup0F_reserved hv ?_))
      rw [fieldAt_toNat]
      exact hop

/-! ### A well-formed instruction without a word -/

/-- Refutes O2: VCMPRSS with v = 0 is well formed, but its row fixes bit 8 to 1, so the decoder rejects its bytes. So it is
with VSCAN, VBITS2V, VSLLV and VSRLV. -/
theorem not_decodeEncode : ¬ Obligations.DecodeEncode := by
  unfold Obligations.DecodeEncode
  intro h
  have hwf : WellFormed (.vcmprss ⟨0, 3, 1, 0, 0⟩) := by unfold WellFormed; decide
  have hrejected : decode (encode (.vcmprss ⟨0, 3, 1, 0, 0⟩) ++ []) = .reject (.unimplementedFunction 0x01 0x2C) := by
    decide
  exact nomatch hrejected.symm.trans (h _ [] hwf)

end Sys2Proof
end

section
/-! What a step does that reaches its fetch: the fetch fails, its bytes are rejected, or an instruction runs. -/

namespace Sys2Proof.Machine

/-! ### A step that reaches its fetch -/

/-- The core moves where it is scheduled next or nothing is (log 5). -/
theorem nextMove_core {s : State} (h : s.env = [] ∨ s.env.head? = some .core) :
    nextMove s = coreStep { s with env := s.env.tail } := by
  unfold nextMove
  cases henv : s.env with
  | nil =>
    have hs : { s with env := [] } = s := by rw [← henv]
    exact congrArg coreStep hs.symm
  | cons e rest =>
    rcases h with h | h
    · rw [henv] at h; cases h
    · rw [henv] at h; cases h; rfl

/-- With nothing waiting, requested or pending, the step of the core goes on to fetch (60 R1013). -/
theorem coreStep_fetches {s v : State} (hw : s.mode.waiting = false) (hn : s.inputs.nmi = false)
    (hr : s.recognised = false) (hs : s.mode.stepPending = false) (hm : s.instructionMatch = .ok () v) :
    coreStep s = fetchAndRun v.beginFetch := by
  simp only [coreStep, hw, hn, hr, hs, hm, Bool.false_eq_true, if_false]

/-- A step that reaches its fetch is that fetch and what it runs. -/
theorem State.Reaches.step_eq {s u : State} (h : s.Reaches u) : step s = fetchAndRun u := by
  obtain ⟨v, hv, rfl⟩ := h.unmatched
  exact (nextMove_core h.scheduled).trans (coreStep_fetches h.awake h.unmasked h.unrequested h.unstepped hv)

/-! ### A fetch and what it runs -/

/-- An odd instruction pointer is refused (93 U12). -/
theorem fetchAndRun_odd {s : State} (h : s.ip.getLsbD 0 = true) : fetchAndRun s = .refused .oddInstructionPointer :=
  if_pos h

/-- A fetch that raises takes its exception with no instruction decoded. -/
theorem fetchAndRun_trap {s t : State} {e : Exc} (h : s.ip.getLsbD 0 = false)
    (hf : s.fetchInstruction s.ip = .trap e t) : fetchAndRun s = t.raiseUndecoded e := by
  simp only [fetchAndRun, h, hf, Bool.false_eq_true, if_false]

/-- A fetch that answers has its bytes run. -/
theorem fetchAndRun_ok {s t : State} {bs : List Byte} (h : s.ip.getLsbD 0 = false)
    (hf : s.fetchInstruction s.ip = .ok bs t) : fetchAndRun s = runFetched bs { s with draw := t.draw } t := by
  simp only [fetchAndRun, h, hf, Bool.false_eq_true, if_false]

/-- Bytes that decode run as their instruction; EXI instructions run in the state before their fetch. -/
theorem runFetched_ok {bs : List Byte} {s t : State} {i : Instr} {n : Nat} (h : decode bs = .ok (i, n)) :
    runFetched bs s t = runDecoded i (if isPrefix i then s else t) := by
  rw [runFetched, h]

/-- A CSR word with a reserved operation is refused (93 U38). -/
theorem runFetched_reserved {bs : List Byte} {s t : State} (h : decode bs = .reject .reservedCsrOp) :
    runFetched bs s t = .refused .reservedCsrOperation := by
  rw [runFetched, h]

/-- Other rejected bytes take UNIMP in the state before their fetch (30 R285). -/
theorem runFetched_reject {bs : List Byte} {s t : State} {r : Reject} (h : decode bs = .reject r)
    (hr : r ≠ .reservedCsrOp) : runFetched bs s t = s.raiseUnimplemented bs := by
  rw [runFetched, h]
  cases r with
  | reservedCsrOp => exact absurd rfl hr
  | _ => rfl

/-- A well-formed instruction is executed. -/
theorem runDecoded_wellFormed {i : Instr} (s : State) (h : WellFormed i) : runDecoded i s = exec i s.begin := by
  unfold WellFormed at h
  rw [runDecoded, h]

/-- An ill-formed instruction is refused under the name of its flaw. -/
theorem runDecoded_flaw {i : Instr} {flaw : Flaw} (s : State) (h : WellFormed.check i = some flaw) :
    runDecoded i s = .refused (refusalOf flaw) := by
  rw [runDecoded, h]

/-- Settles O5: a step that reaches its fetch runs what the fetched bytes decode to. -/
theorem stepRunsDecoded : Obligations.StepRunsDecoded := by
  unfold Obligations.StepRunsDecoded
  intro s s1 s2 bs i n hs hip hf hd hi
  exact hs.step_eq.trans <| (fetchAndRun_ok hip hf).trans <| (runFetched_ok hd).trans (runDecoded_wellFormed _ hi)

/-- Settles O6, by what the fetch answers and what its bytes decode to. -/
theorem stepWithoutInstruction : Obligations.StepWithoutInstruction := by
  unfold Obligations.StepWithoutInstruction
  intro s s1 hs
  rw [hs.step_eq]
  refine ⟨fetchAndRun_odd, fun hip => ⟨fun e s2 hf => fetchAndRun_trap hip hf, fun bs s2 hf => ?_⟩⟩
  rw [fetchAndRun_ok hip hf]
  exact ⟨fun r hd hr => runFetched_reject hd hr, runFetched_reserved,
    fun i n flaw hd hw => (runFetched_ok hd).trans (runDecoded_flaw _ hw)⟩

end Sys2Proof.Machine
end

section
/-! Integer arithmetic, comparisons and set instructions, and what the operand forms select. -/

namespace Sys2Proof.Machine

/-! ### Operand forms -/

/-- T = 0 is the general register (30 R250). -/
theorem opnd_register (r : RegNum) : opnd 0#2 r = .gpr r := rfl

/-- T = 1 is the vector register (30 R250). -/
theorem opnd_vector (r : RegNum) : opnd 1#2 r = .vec r := rfl

/-- T = 2 is the number of the register field (30 R250, D79). -/
theorem opnd_immediate (r : RegNum) : opnd 2#2 r = .imm (r.setWidth 64) := by
  have h : ∀ r : RegNum, sext (0#1 ++ r) = r.setWidth 64 := by decide
  exact congrArg Src.imm (h r)

/-- T = 3 is the number of the register field less 64 (30 R250, D79). -/
theorem opnd_immediate_negative (r : RegNum) : opnd 3#2 r = .imm (r.setWidth 64 - 64) := by
  have h : ∀ r : RegNum, sext (1#1 ++ r) = r.setWidth 64 - 64 := by decide
  exact congrArg Src.imm (h r)

/-- Settles O19, instruction by instruction. -/
theorem integerAndCompare : Obligations.IntegerAndCompare := by
  unfold Obligations.IntegerAndCompare
  refine ⟨⟨⟨fun f => computes_pure (.addS f) _ _ _ (fun _ => rfl) rfl,
      fun f => computes_pure (.add f) _ _ _ (fun _ => rfl) rfl,
      fun f => computes_pure (.addi f) _ _ _ (fun _ => rfl) rfl,
      fun f => computes_pure (.addil f) _ _ _ (fun _ => rfl) rfl,
      fun f => computes_pure (.ldi f) _ _ _ (fun _ => rfl) rfl,
      fun f => computes_pure (.sub f) _ _ _ (fun _ => rfl) rfl,
      fun f => computes_pure (.neg f) _ _ _ (fun _ => rfl) rfl,
      fun f => computes_pure (.subfi f) _ _ _ (fun _ => rfl) rfl,
      fun f => computes_pure (.mul f) _ _ _ (fun _ => rfl) rfl,
      fun f => computes_pure (.mulh f) _ _ _ (fun _ => rfl) rfl,
      fun f => computes_pure (.muli f) _ _ _ (fun _ => rfl) rfl,
      fun f => computes_pure (.mulf f) _ _ _ (fun _ => rfl) rfl,
      fun f => computes_pure (.mulfi f) _ _ _ (fun _ => rfl) rfl,
      fun f => computes_free (.div f) _ _ _ (fun _ => rfl) rfl,
      fun f => computes_free (.divi f) _ _ _ (fun _ => rfl) rfl,
      fun f => computes_free (.divil f) _ _ _ (fun _ => rfl) rfl,
      fun f => computes_free (.divu f) _ _ _ (fun _ => rfl) rfl,
      fun f => computes_free (.divui f) _ _ _ (fun _ => rfl) rfl,
      fun f => computes_free (.divsu f) _ _ _ (fun _ => rfl) rfl,
      fun f => computes_pure (.ptrdif f) _ _ _ (fun _ => rfl) rfl,
      fun f => computes_pure (.dif f) _ _ _ (fun _ => rfl) rfl,
      fun f => computes_pure (.abs f) _ _ _ (fun _ => rfl) rfl,
      fun f => computes_pure (.min f) _ _ _ (fun _ => rfl) rfl,
      fun f => computes_pure (.max f) _ _ _ (fun _ => rfl) rfl⟩,
    fun f => computes_pure (.cmp f) _ _ _ (fun _ => rfl) rfl,
    fun f => computes_pure (.cmpi f) _ _ _ (fun _ => rfl) rfl,
    fun f => computes_pure (.cmpil f) _ _ _ (fun _ => rfl) rfl,
    fun f => computes_pure (.cmpu f) _ _ _ (fun _ => rfl) rfl,
    fun f => computes_pure (.cmpui f) _ _ _ (fun _ => rfl) rfl,
    fun f => computes_pure (.seq f) _ _ _ (fun _ => rfl) rfl,
    fun f => computes_pure (.seqi f) _ _ _ (fun _ => rfl) rfl,
    fun f => computes_pure (.seqil f) _ _ _ (fun _ => rfl) rfl,
    fun f => computes_pure (.sne f) _ _ _ (fun _ => rfl) rfl,
    fun f => computes_pure (.snei f) _ _ _ (fun _ => rfl) rfl,
    fun f => computes_pure (.sneil f) _ _ _ (fun _ => rfl) rfl,
    fun f => computes_pure (.slt f) _ _ _ (fun _ => rfl) rfl,
    fun f => computes_pure (.slti f) _ _ _ (fun _ => rfl) rfl,
    fun f => computes_pure (.sltil f) _ _ _ (fun _ => rfl) rfl,
    fun f => computes_pure (.sltu f) _ _ _ (fun _ => rfl) rfl,
    fun f => computes_pure (.sge f) _ _ _ (fun _ => rfl) rfl,
    fun f => computes_pure (.sgeu f) _ _ _ (fun _ => rfl) rfl,
    fun f => computes_pure (.sgti f) _ _ _ (fun _ => rfl) rfl,
    fun f => computes_pure (.sgtil f) _ _ _ (fun _ => rfl) rfl,
    fun f => computes_pure (.sgtui f) _ _ _ (fun _ => rfl) rfl,
    fun f => computes_pure (.sgtuil f) _ _ _ (fun _ => rfl) rfl,
    fun f => computes_pure (.slei f) _ _ _ (fun _ => rfl) rfl⟩,
    fun s t r x => ⟨?_, ?_, ?_, ?_, rfl, rfl, rfl, rfl, rfl, rfl, fun w => ⟨rfl, rfl⟩⟩,
    fun _ => rfl, fun _ => rfl, fun _ => rfl, fun _ => rfl, fun _ => rfl, fun _ _ => rfl, fun _ _ => rfl⟩
  · rintro rfl; rw [opnd_register]; exact ⟨rfl, rfl⟩
  · rintro rfl; rw [opnd_vector]; exact ⟨rfl, rfl⟩
  · rintro rfl; rw [opnd_immediate]; exact ⟨rfl, rfl⟩
  · rintro rfl; rw [opnd_immediate_negative]; exact ⟨rfl, rfl⟩

end Sys2Proof.Machine
end

section
/-! Immediate prefixes: the bytes of the instruction after one, and what the two compute. -/

namespace Sys2Proof

/-! ### Bytes of a word -/

/-- The bytes of a word from the second one on are those of the word shifted down. -/
theorem bytesOf_succ (n : Nat) (w : Word) : bytesOf (n + 1) w = rootOf w :: bytesOf n (w >>> 8) := by
  rw [bytesOf, bytesOf, List.range_succ_eq_map, List.map_cons, List.map_map]
  refine congrArg (List.cons _) (List.map_congr_left fun k _ => ?_)
  apply BitVec.eq_of_getLsbD_eq
  intro i hi
  simp only [Function.comp_apply, BitVec.getLsbD_extractLsb', BitVec.getLsbD_ushiftRight]
  rw [show 8 * Nat.succ k + i = 8 + (8 * k + i) by omega]

/-- The first byte of a word is its root opcode (30 R240). -/
theorem bytesOf_headD (n : Nat) (w : Word) : (bytesOf (n + 1) w).headD 0 = rootOf w := by
  rw [bytesOf_succ]
  rfl

/-- A word that n bytes hold is the value of those bytes (20 R141). -/
theorem wordOf_bytesOf (n : Nat) (w : Word) (h : w.toNat < 2 ^ (8 * n)) : wordOf (bytesOf n w) = w := by
  induction n generalizing w with
  | zero => exact (BitVec.eq_of_toNat_eq (y := 0) (Nat.lt_one_iff.mp h)).symm
  | succ n ih =>
    have hs : (w >>> 8).toNat < 2 ^ (8 * n) := by
      rw [BitVec.toNat_ushiftRight, Nat.shiftRight_eq_div_pow, Nat.div_lt_iff_lt_mul (by decide), ← Nat.pow_add]
      exact h
    rw [bytesOf_succ, wordOf, ih _ hs]
    apply BitVec.eq_of_getLsbD_eq
    intro i hi
    simp only [BitVec.getLsbD_or, BitVec.getLsbD_shiftLeft, BitVec.getLsbD_ushiftRight, BitVec.getLsbD_setWidth,
      BitVec.getLsbD_extractLsb', hi, decide_true, Bool.true_and, Nat.zero_add]
    by_cases hi8 : i < 8
    · simp only [hi8, decide_true, Bool.not_true, Bool.false_and, Bool.true_and, Bool.false_or]
    · simp only [hi8, decide_false, Bool.not_false, show 8 + (i - 8) = i by omega, Bool.true_and, Bool.false_and,
        Bool.or_false]

/-- An RIL instruction is six bytes long (30 R249). -/
theorem Fmt.RIL.word_lt (op : BitVec 8) (f : Fmt.RIL) : (f.word op).toNat < 2 ^ (8 * 6) := by
  rw [Fmt.RIL.word, BitVec.toNat_setWidth]
  exact Nat.lt_of_le_of_lt (Nat.mod_le _ _) (f.bits op).isLt

end Sys2Proof

namespace Sys2Proof.Machine

/-! ### The instruction after an EXI -/

/-- Each RIL instruction computes its operation of A and the immediate it is given (30 R263). -/
theorem prefixedMeaning_some {root : Byte} {op : Word → Word → Word → Word} (h : (root, op) ∈ prefixedOperations) :
    ∃ g, prefixedMeaning root = some g ∧
      ∀ f imm c s, g f imm c s = computeFree c (operandsRIL f imm) (fun free a b _ => op free a b) s := by
  unfold prefixedOperations at h
  repeat
    rcases List.mem_cons.mp h with hrow | h
    · cases hrow
      exact ⟨_, rfl, fun _ _ _ _ => rfl⟩
  exact absurd h List.not_mem_nil

/-- No other root opcode has such a meaning. -/
theorem prefixedMeaning_none {root : Byte} (h : ∀ e ∈ prefixedOperations, e.1 ≠ root) : prefixedMeaning root = none := by
  have hall : ∀ root : Byte, (prefixedMeaning root).isSome = true → root ∈ prefixedOperations.map Prod.fst := by decide
  cases hg : prefixedMeaning root with
  | none => rfl
  | some g =>
    obtain ⟨e, he, hroot⟩ := List.mem_map.mp (hall root (by rw [hg]; rfl))
    exact absurd hroot (h e he)

/-! ### An EXI and the instruction after it -/

section
variable {w size : Nat} {p : BitVec w} {s s1 : State}

/-- Before an RIL instruction the two run as one; in scalar form m3 and z have no role (30 R254, R263). -/
theorem runPrefix_ril {root : Byte} {g : Fmt.RIL} {m : Fmt.RIL → Word → Ctx → State → Outcome}
    (hf : s.fetchPair size = .ok (bytesOf 6 (g.word root)) s1) (hm : prefixedMeaning root = some m) :
    runPrefix size p s = if g.v = 0#1 ∧ ¬(g.z = 0#1 ∧ g.m = 0#3) then .refused .noRoleField
      else m g (sext (p ++ g.imm)) ⟨size + 6, g.word root⟩ s1 := by
  simp only [runPrefix, hf, bytesOf_headD, Fmt.RIL.rootOf_word, hm, wordOf_bytesOf 6 _ (g.word_lt root),
    Fmt.RIL.ofWord_word]

/-- Before another defined instruction an EXI is refused (93 U46). -/
theorem runPrefix_defined {bs : List Byte} (hf : s.fetchPair size = .ok bs s1)
    (hm : prefixedMeaning (bs.headD 0) = none) (hl : lengthOf (bs.headD 0) ≠ none) :
    runPrefix size p s = .refused .prefixTarget := by
  simp only [runPrefix, hf, hm, if_neg hl]

/-- Before an undefined root opcode the unit takes UNIMP (60 R1015). -/
theorem runPrefix_undefined {bs : List Byte} (hf : s.fetchPair size = .ok bs s1)
    (hm : prefixedMeaning (bs.headD 0) = none) (hl : lengthOf (bs.headD 0) = none) :
    runPrefix size p s = { s with draw := s1.draw }.raiseUnimplemented bs := by
  simp only [runPrefix, hf, hm, if_pos hl]

/-- A fetch of the unit that raises takes its exception. -/
theorem runPrefix_trap {e : Exc} (hf : s.fetchPair size = .trap e s1) : runPrefix size p s = s1.raiseUndecoded e := by
  simp only [runPrefix, hf]

end

/-- The operation of an RIL instruction in scalar form. -/
theorem computeFree_ril_scalar (c : Ctx) (g : Fmt.RIL) (imm : Word) (op : Word → Word → Word → Word) (s : State)
    (hv : g.v = 0#1) : computeFree c (operandsRIL g imm) (fun free a b _ => op free a b) s =
      .next (s.result c.size g.rt (op (s.free 0) (s.reg g.ra) imm)) := by
  refine run_scalar c (operandsRIL g imm) _ s (s.reg g.ra) imm 0 _ s hv ?_ rfl rfl rfl
  simp only [operandsRIL, hv]
  rfl

/-- The operation of an RIL instruction in vector form. -/
theorem computeFree_ril_vector (c : Ctx) (g : Fmt.RIL) (imm : Word) (op : Word → Word → Word → Word) (s : State)
    (hv : g.v = 1#1) (hvl : s.pending.vl = []) :
    ∃ t, computeFree c (operandsRIL g imm) (fun free a b _ => op free a b) s = .next t ∧
      VectorResult s s.looped t c.size g.rt g.m g.z fun x => op (s.free x) (s.vec g.ra x) imm := by
  refine run_vector c (operandsRIL g imm) _ s _ hv hvl fun y t _ ht => ?_
  simp only [freeRule, ht.free, operandsRIL, hv]
  rfl

/-- Each EXI instruction extends the instruction after it, or stops as the fetch of the two says (30 R262, R263). -/
theorem prefixesWith_of_runPrefix {w : Nat} {i : Instr} {size : Nat} {p : BitVec w}
    (h : ∀ s, exec i s = runPrefix size p s) : PrefixesWith i size p := by
  intro s
  rw [h s]
  refine ⟨fun root op hop g s1 hf => ?_, fun bs s1 hf hbs => ?_, fun e s1 hf => runPrefix_trap hf⟩
  · obtain ⟨m, hm, hcompute⟩ := prefixedMeaning_some hop
    rw [runPrefix_ril hf hm, hcompute]
    refine ⟨fun hv hz hm3 => ?_, fun hv hmask => ?_, fun hv hvl => ?_⟩
    · rw [if_neg fun hc => hc.2 ⟨hz, hm3⟩]
      exact computeFree_ril_scalar _ g _ op s1 hv
    · exact if_pos ⟨hv, fun hc => hmask.elim (· hc.1) (· hc.2)⟩
    · rw [if_neg fun hc => absurd (hv.symm.trans hc.1) (by decide)]
      exact computeFree_ril_vector _ g _ op s1 hv hvl
  · have hm := prefixedMeaning_none hbs
    exact ⟨runPrefix_defined hf hm, runPrefix_undefined hf hm⟩

/-- Settles O58, one EXI instruction after the other. -/
theorem prefixes : Obligations.Prefixes := by
  unfold Obligations.Prefixes
  exact ⟨fun _ => prefixesWith_of_runPrefix fun _ => rfl, fun _ => prefixesWith_of_runPrefix fun _ => rfl,
    fun _ => prefixesWith_of_runPrefix fun _ => rfl, fun _ => prefixesWith_of_runPrefix fun _ => rfl⟩

end Sys2Proof.Machine
end

section
/-! Words of the spec's encodings and the instructions that they decode to. -/

namespace Sys2Proof.Machine

/-- Settles O1: the decoder, evaluated on each word. -/
theorem sampleWords : Obligations.SampleWords := by
  unfold Obligations.SampleWords
  decide

end Sys2Proof.Machine
end

section
/-! The integer rules as arithmetic of signed and unsigned numbers. -/

namespace Sys2Proof.Machine

/-! ### Products -/

/-- A product of two sign-extended words is that of their numbers: 128 bits hold it. -/
theorem toInt_mul_signExtend (a b : Word) : (a.signExtend 128 * b.signExtend 128).toInt = a.toInt * b.toInt := by
  have hle : a.toInt * b.toInt ≤ 2 ^ 126 := BitVec.toInt_mul_toInt_le
  have hge : -2 ^ 126 ≤ a.toInt * b.toInt := BitVec.le_toInt_mul_toInt
  rw [BitVec.toInt_mul, BitVec.toInt_signExtend_of_le (by decide), BitVec.toInt_signExtend_of_le (by decide)]
  exact Int.bmod_eq_of_le (by omega) (by omega)

/-- The high half of a signed number is that number divided by 2^64, rounded down. -/
theorem toInt_highHalf (x : BitVec 128) : (x.extractLsb' 64 64).toInt = x.toInt / 2 ^ 64 := by
  have hx := x.isLt
  have hhigh : (x.extractLsb' 64 64).toNat = x.toNat / 2 ^ 64 := by
    rw [BitVec.extractLsb'_toNat, Nat.shiftRight_eq_div_pow, Nat.mod_eq_of_lt (by omega)]
  rw [BitVec.toInt_eq_toNat_cond, BitVec.toInt_eq_toNat_cond, hhigh]
  omega

/-- MULH is the signed product divided by 2^64 (40 R316). -/
theorem mulHigh_toInt (a b : Word) : (mulHigh a b).toInt = a.toInt * b.toInt / 2 ^ 64 := by
  rw [mulHigh, toInt_highHalf, toInt_mul_signExtend]

/-- MULF is the product of the low 24 and the low 16 bits (40 R318). -/
theorem mulFast_toNat (a b : Word) : (mulFast a b).toNat = a.toNat % 2 ^ 24 * (b.toNat % 2 ^ 16) := by
  have ha : (zext (a.extractLsb' 0 24)).toNat = a.toNat % 2 ^ 24 := by
    rw [BitVec.toNat_setWidth_of_le (by decide), BitVec.extractLsb'_toNat, Nat.shiftRight_zero]
  have hb : (zext (b.extractLsb' 0 16)).toNat = b.toNat % 2 ^ 16 := by
    rw [BitVec.toNat_setWidth_of_le (by decide), BitVec.extractLsb'_toNat, Nat.shiftRight_zero]
  have hlt : a.toNat % 2 ^ 24 * (b.toNat % 2 ^ 16) < 2 ^ 24 * 2 ^ 16 :=
    Nat.mul_lt_mul'' (Nat.mod_lt _ (by decide)) (Nat.mod_lt _ (by decide))
  rw [mulFast, BitVec.toNat_mul, ha, hb]
  exact Nat.mod_eq_of_lt (Nat.lt_trans hlt (by decide))

/-! ### Quotients -/

/-- A signed quotient by a number that is not 0 is the signed division of bit vectors (40 R320). -/
theorem divSigned_eq_sdiv {free a b : Word} (hb : b ≠ 0) : divSigned free a b = a.sdiv b := by
  rw [divSigned, if_neg hb]
  apply BitVec.eq_of_toInt_eq
  rw [BitVec.toInt_ofInt, BitVec.toInt_sdiv]

/-- It is rounded toward zero where it is in range (40 R320). -/
theorem divSigned_toInt {free a b : Word} (hb : b ≠ 0) (h : ¬(a = 0x8000000000000000 ∧ b = -1)) :
    (divSigned free a b).toInt = a.toInt.tdiv b.toInt := by
  rw [divSigned_eq_sdiv hb]
  exact BitVec.toInt_sdiv_of_ne_or_ne a b (Decidable.not_and_iff_not_or_not.mp h)

/-- An unsigned quotient is the quotient of natural numbers (40 R323). -/
theorem divUnsigned_toNat {free a b : Word} (hb : b ≠ 0) : (divUnsigned free a b).toNat = a.toNat / b.toNat := by
  rw [divUnsigned, if_neg hb, BitVec.toNat_ofNat]
  exact Nat.mod_eq_of_lt (Nat.lt_of_le_of_lt (Nat.div_le_self _ _) a.isLt)

/-- A quotient by a natural number lies between the dividend and 0. -/
theorem tdiv_natCast_bounds (a : Int) (n : Nat) :
    (0 ≤ a → 0 ≤ a.tdiv n ∧ a.tdiv n ≤ a) ∧ (a ≤ 0 → a ≤ a.tdiv n ∧ a.tdiv n ≤ 0) := by
  refine ⟨fun ha => ⟨Int.tdiv_nonneg ha (Int.natCast_nonneg n), Int.tdiv_le_self _ ha⟩, fun ha => ?_⟩
  have hneg : 0 ≤ -a := by omega
  have hlow := Int.tdiv_nonneg hneg (Int.natCast_nonneg n)
  have hhigh := Int.tdiv_le_self (n : Int) hneg
  rw [Int.neg_tdiv] at hlow hhigh
  omega

/-- A quotient of a signed by an unsigned number is rounded toward zero, and always in range (40 R325). -/
theorem divSignedUnsigned_toInt {free a b : Word} (hb : b ≠ 0) :
    (divSignedUnsigned free a b).toInt = a.toInt.tdiv b.toNat := by
  have hlt : a.toInt < 2 ^ 63 := BitVec.toInt_lt
  have hge : -2 ^ 63 ≤ a.toInt := BitVec.le_toInt a
  obtain ⟨hpos, hneg⟩ := tdiv_natCast_bounds a.toInt b.toNat
  rw [divSignedUnsigned, if_neg hb]
  exact BitVec.toInt_ofInt_eq_self (by decide) (by omega) (by omega)

/-! ### Absolute values, extremes and comparisons -/

/-- The absolute value as an unsigned number (40 R306). -/
theorem absWord_toNat (a : Word) : (absWord a).toNat = a.toInt.natAbs := by
  have ha := a.isLt
  have hint := BitVec.toInt_eq_toNat_cond a
  unfold absWord
  split
  · rw [BitVec.toNat_neg]
    omega
  · omega

/-- PTRDIF is |A - B| divided by a power of two (40 R327). -/
theorem pointerDifference_toNat (a b c : Word) :
    (pointerDifference a b c).toNat = (a - b).toInt.natAbs / 2 ^ (c.toNat % 16) := by
  rw [pointerDifference, BitVec.toNat_ushiftRight, absWord_toNat, BitVec.extractLsb'_toNat, Nat.shiftRight_zero,
    Nat.shiftRight_eq_div_pow]

/-- MIN is the least of three signed numbers (40 R328). -/
theorem min3_toInt (a b c : Word) : (min3 a b c).toInt = min (min a.toInt b.toInt) c.toInt := by
  unfold min3
  split
  · omega
  · split <;> omega

/-- MAX is the greatest of three signed numbers (40 R329). -/
theorem max3_toInt (a b c : Word) : (max3 a b c).toInt = max (max a.toInt b.toInt) c.toInt := by
  unfold max3
  split
  · omega
  · split <;> omega

/-- CMP is the sign of the difference of signed numbers (40 R330). -/
theorem compareSigned_toInt (a b : Word) : (compareSigned a b).toInt = (a.toInt - b.toInt).sign := by
  unfold compareSigned
  split
  next hlt => exact (Int.sign_eq_neg_one_of_neg (by omega)).symm
  next hlt =>
    split
    next heq => rw [heq, Int.sub_self]; rfl
    next hne =>
      have hne' : a.toInt ≠ b.toInt := fun h => hne (BitVec.eq_of_toInt_eq h)
      exact (Int.sign_eq_one_of_pos (by omega)).symm

/-- CMPU is the sign of the difference of unsigned numbers (40 R333). -/
theorem compareUnsigned_toInt (a b : Word) : (compareUnsigned a b).toInt = ((a.toNat : Int) - b.toNat).sign := by
  unfold compareUnsigned
  split
  next hlt => exact (Int.sign_eq_neg_one_of_neg (by omega)).symm
  next hlt =>
    split
    next heq => rw [heq, Int.sub_self]; rfl
    next hne =>
      have hne' : a.toNat ≠ b.toNat := fun h => hne (BitVec.eq_of_toNat_eq h)
      exact (Int.sign_eq_one_of_pos (by omega)).symm

/-- Settles O20, rule by rule. -/
theorem integerRules : Obligations.IntegerRules := by
  unfold Obligations.IntegerRules
  intro free a b c
  exact ⟨mulHigh_toInt a b, mulFast_toNat a b, divSigned_toInt, rfl, divUnsigned_toNat, divSignedUnsigned_toInt,
    absWord_toNat a, pointerDifference_toNat a b c, min3_toInt a b c, max3_toInt a b c, compareSigned_toInt a b,
    compareUnsigned_toInt a b⟩

end Sys2Proof.Machine
end

section
/-! Bounds checks, conditional moves, the spreading of bits and the CPUID table. -/

namespace Sys2Proof.Machine

/-! ### Checks -/

/-- A write to v0 is discarded (10_state R51). -/
theorem State.setVec_discarded (s : State) (x : Nat) (w : Word) : s.setVec 0#6 x w = s := if_pos rfl

/-- A disabled element of v0 changes nothing. -/
theorem zeroing_discarded (z : BitVec 1) (x : Nat) (s : State) : zeroing z 0#6 x s = s := by
  rw [zeroing, State.setVec_discarded, ite_self]

/-- A loop whose elements change nothing changes nothing. -/
theorem elementLoop_unchanged {mask : Word} {act : Nat → State → Res Unit} {off : Nat → State → State} {s : State}
    (n x : Nat) (hact : ∀ y, x ≤ y → y < x + n → mask.getLsbD y = true → act y s = .ok () s)
    (hoff : ∀ y, off y s = s) : elementLoop mask act off n x s = .ok () s := by
  induction n generalizing x with
  | zero => rfl
  | succ n ih =>
    have hrest := ih (x + 1) fun y h1 h2 => hact y (by omega) (by omega)
    rw [elementLoop_succ]
    split
    next hm => rw [hact x (Nat.le_refl x) (by omega) hm]; exact hrest
    next => rw [hoff]; exact hrest

/-- A vector instruction whose enabled elements change nothing leaves D_VSTEP 0 and no more (48 R884). -/
theorem vectorLoop_unchanged {s : State} {m : BitVec 3} {act : Nat → State → Res Unit} {off : Nat → State → State}
    (hvl : s.pending.vl = []) (hact : ∀ y ∈ s.enabledList m, act y s = .ok () s) (hoff : ∀ y, off y s = s) :
    s.vectorLoop m act off = .ok () s.looped := by
  have hloop := elementLoop_unchanged (mask := s.mask m) (s.vl.toNat - s.csr.vstep.toNat) s.csr.vstep.toNat
    (fun y h1 h2 hm => hact y (mem_enabledList.mpr ⟨h1, h2, hm⟩)) hoff
  simp only [State.vectorLoop, State.useVl_settled s hvl, hloop, Res.bind_ok]
  rfl

/-- A vector instruction that raises at its element x, those below it changing nothing, leaves D_VSTEP x and no more
(48 R884 b). -/
theorem vectorLoop_unchanged_trap {s : State} {m : BitVec 3} {act : Nat → State → Res Unit}
    {off : Nat → State → State} {e : Exc} {x : Nat} (hvl : s.pending.vl = []) (hx : x ∈ s.enabledList m)
    (hact : ∀ y ∈ s.enabledList m, y < x → act y s = .ok () s) (hoff : ∀ y, off y s = s)
    (htrap : act x s = .trap e s) : s.vectorLoop m act off = .trap e (s.setVstep x) := by
  refine vectorLoop_stop s s s m act off e x hvl hx (elementLoop_unchanged _ _ (fun y h1 h2 hm => ?_) hoff) htrap
  obtain ⟨_, hend, _⟩ := mem_enabledList.mp hx
  exact hact y (mem_enabledList.mpr ⟨h1, by omega, hm⟩) (by omega)

/-- A check that passes changes nothing. -/
theorem checkRule_pass {cn : BitVec 3} {a b c : Word} (h : boundsPass cn a b c = true) (x : Nat) (s : State) :
    checkRule cn x a b c s = .ok 0 s := if_pos h

/-- A check that fails raises CHK. -/
theorem checkRule_fail {cn : BitVec 3} {a b c : Word} (h : boundsPass cn a b c = false) (x : Nat) (s : State) :
    checkRule cn x a b c s = .trap (.plain causeCHK) s := if_neg (by rw [h]; decide)

/-- An instruction that runs the bounds test without a target only checks, in both forms. -/
theorem checks_of_run (i : Instr) (o : Operands) (cn : BitVec 3)
    (h : ∀ s, exec i s = run (Instr.ctx i) o (checkRule cn) s) (hrt : o.rt = 0#6) :
    Checks i o (boundsPass cn) := by
  intro s
  have hvector : o.v = 1#1 → exec i s = finishSeq (Instr.ctx i) (runVector o (checkRule cn) s) := fun hv => by
    rw [h, run, if_pos hv]
  have hoff : ∀ y, zeroing o.z o.rt y s = s := fun y => by rw [hrt, zeroing_discarded]
  have hdone : ∀ y, boundsPass cn (o.a.element s y) (o.b.element s y) (o.c.element s y) = true →
      ((checkRule cn y (o.a.element s y) (o.b.element s y) (o.c.element s y) s).bind fun t s2 =>
        .ok () (s2.setVec o.rt y t)) = .ok () s := fun y hp => by
    rw [checkRule_pass hp, Res.bind_ok, hrt, State.setVec_discarded]
  refine ⟨fun hv a b c ha hb hc => ?_, fun hv hn => ?_, fun hv hvl hpass => ?_, fun hv hvl x hx hfail hpass => ?_⟩
  · rw [h]
    split
    next hp =>
      rw [run_scalar _ o _ s a b c 0 s hv ha hb hc (checkRule_pass hp 0 s), hrt]
      rfl
    next hp =>
      exact run_scalar_trap _ o _ s a b c _ s hv ha hb hc (checkRule_fail (eq_false_of_ne_true hp) 0 s)
  · rw [h, run_refused _ o _ s hv hn]
  · rw [hvector hv, runVector, vectorLoop_unchanged hvl (fun y hy => hdone y (hpass y hy)) hoff]
    rfl
  · have htrap : ((checkRule cn x (o.a.element s x) (o.b.element s x) (o.c.element s x) s).bind fun t s2 =>
        .ok () (s2.setVec o.rt x t)) = .trap (.plain causeCHK) s := by
      rw [checkRule_fail hfail, Res.bind_trap]
    rw [hvector hv, runVector,
      vectorLoop_unchanged_trap hvl hx (fun y hy hyx => hdone y (hpass y hy hyx)) hoff htrap]
    rfl

/-- The bounds test of each cn: bit 1 excludes the lower bound, bit 0 includes the upper one, bit 2 negates (40 R335). -/
theorem boundsPass_cases (a b c : Word) :
    boundsPass 0 a b c = (decide (a.toInt ≥ b.toInt) && decide (a.toInt < c.toInt)) ∧
    boundsPass 1 a b c = (decide (a.toInt ≥ b.toInt) && decide (a.toInt ≤ c.toInt)) ∧
    boundsPass 2 a b c = (decide (a.toInt > b.toInt) && decide (a.toInt < c.toInt)) ∧
    boundsPass 3 a b c = (decide (a.toInt > b.toInt) && decide (a.toInt ≤ c.toInt)) ∧
    boundsPass 4 a b c = !(decide (a.toInt ≥ b.toInt) && decide (a.toInt < c.toInt)) ∧
    boundsPass 5 a b c = !(decide (a.toInt ≥ b.toInt) && decide (a.toInt ≤ c.toInt)) ∧
    boundsPass 6 a b c = !(decide (a.toInt > b.toInt) && decide (a.toInt < c.toInt)) ∧
    boundsPass 7 a b c = !(decide (a.toInt > b.toInt) && decide (a.toInt ≤ c.toInt)) :=
  ⟨rfl, rfl, rfl, rfl, rfl, rfl, rfl, rfl⟩

/-! ### Selects -/

/-- A vector loop leaves the implementation's parameters. -/
theorem LoopState.config {s t : State} {rt : RegNum} {x : Nat} (h : LoopState s t rt x) : t.config = s.config :=
  congrArg (fun u => u.config) h.frame

/-- An instruction of the CMOVNZ encoding selects B or C by A, or by bit x of A in vector form (40 R337). -/
theorem computesEach_select (i : Instr) (c : Ctx) (f : Fmt.R3)
    (h : ∀ s, exec i s = run c (operandsR3ScalarA f) (conditionalMove f.v) s) (hc : c.size = i.size) :
    ComputesEach i (operandsR3ScalarA f)
      (fun x _ a b c => if (if f.v = 1#1 then a.getLsbD x else a != 0) then b else c) :=
  computes_each i c _ _ _ h hc (fun _ _ _ _ _ => rfl) fun _ _ _ _ _ _ _ _ => rfl

/-- Settles O21: the checks by their loop, the selects by their one encoding, CPUID by the parameters a loop keeps. -/
theorem checksAndSelects : Obligations.ChecksAndSelects := by
  unfold Obligations.ChecksAndSelects
  refine ⟨⟨fun f => checks_of_run (.chk f) _ _ (fun _ => rfl) rfl,
      fun f => checks_of_run (.chki f) _ f.cn (fun _ => rfl) rfl, boundsPass_cases⟩,
    fun f => computesEach_select (.cmovnz f) _ f (fun _ => rfl) rfl,
    fun f => computesEach_select (.mkbool f) _ f (fun _ => rfl) rfl,
    fun f => computesEach_select (.not f) _ f (fun _ => rfl) rfl,
    fun f => computesEach_select (.vbits2vC f) _ f (fun _ => rfl) rfl,
    fun f => computes_each (.vbits2v f) _ _ _ _ (fun _ => rfl) rfl (fun _ _ _ _ _ => rfl)
      fun _ _ _ _ _ _ _ _ => rfl,
    fun f => computes_each (.cpuid f) _ _ _ _ (fun _ => rfl) rfl (fun _ _ _ _ _ => rfl)
      fun _ _ _ _ _ _ _ ht => by simp only [ht.config]⟩

end Sys2Proof.Machine
end

section
/-! What the aliases' fixed fields make of their rules. -/

namespace Sys2Proof.Machine

/-! ### Scalar forms -/

/-- With v = 0 an R3 instruction writes its rule of r[Ra], B and C to r[Rt] (30 R247). -/
theorem ComputesEach.r3_scalar {i : Instr} {f : Fmt.R3} {g : Nat → State → Word → Word → Word → Word}
    (h : ComputesEach i (operandsR3 f) g) {s : State} {b c w : Word} (hv : f.v = 0)
    (hb : (opnd f.tb f.rb).scalar s = some b) (hc : (opnd f.tc f.rc).scalar s = some c)
    (hw : g 0 s (s.reg f.ra) b c = w) : exec i s = .next (s.result i.size f.rt w) := by
  obtain ⟨hscalar, -, -⟩ := h s
  have ha : (operandsR3 f).a.scalar s = some (s.reg f.ra) := by
    simp only [operandsR3, hv]
    rfl
  rw [hscalar hv _ b c ha hb hc, hw]
  rfl

/-- The same of the format whose Ra is a scalar register in both forms (40 R337). -/
theorem ComputesEach.r3ScalarA_scalar {i : Instr} {f : Fmt.R3} {g : Nat → State → Word → Word → Word → Word}
    (h : ComputesEach i (operandsR3ScalarA f) g) {s : State} {b c w : Word} (hv : f.v = 0)
    (hb : (opnd f.tb f.rb).scalar s = some b) (hc : (opnd f.tc f.rc).scalar s = some c)
    (hw : g 0 s (s.reg f.ra) b c = w) : exec i s = .next (s.result i.size f.rt w) := by
  obtain ⟨hscalar, -, -⟩ := h s
  rw [hscalar hv _ b c rfl hb hc, hw]
  rfl

/-- With v = 0 an RI instruction writes its rule of r[Ra] and the immediate to r[Rt] (30 R248). -/
theorem ComputesEach.ri_scalar {i : Instr} {f : Fmt.RI} {imm : Word} {g : Nat → State → Word → Word → Word → Word}
    (h : ComputesEach i (operandsRI f imm) g) {s : State} {w : Word} (hv : f.v = 0)
    (hw : g 0 s (s.reg f.ra) imm 0 = w) : exec i s = .next (s.result i.size f.rt w) := by
  obtain ⟨hscalar, -, -⟩ := h s
  have ha : (operandsRI f imm).a.scalar s = some (s.reg f.ra) := by
    simp only [operandsRI, hv]
    rfl
  rw [hscalar hv _ imm 0 ha rfl rfl, hw]
  rfl

/-- r0 as an operand is 0 (10_state R21, 30 R250). -/
theorem opnd_zero_scalar {t : BitVec 2} {r : RegNum} (s : State) (ht : t = 0) (hr : r = 0) :
    (opnd t r).scalar s = some 0 := by
  rw [ht, hr]
  rfl

/-- A general register as an operand (30 R250). -/
theorem opnd_register_scalar {t : BitVec 2} {r q : RegNum} (s : State) (ht : t = 0) (hr : r = q) :
    (opnd t r).scalar s = some (s.reg q) := by
  rw [ht, hr]
  rfl

/-- A small immediate as an operand (30 R250). -/
theorem opnd_immediate_scalar {t : BitVec 2} {r n : RegNum} (s : State) (ht : t = 2) (hr : r = n) :
    (opnd t r).scalar s = some (n.setWidth 64) := by
  rw [ht, hr, show (2 : BitVec 2) = 2#2 from rfl, opnd_immediate]
  rfl

/-! ### Shifts -/

/-- A shift amount is its low six bits (41 R420, D47). -/
theorem shiftAmount_eq (w : Word) : shiftAmount w = w.toNat % 64 := by
  rw [shiftAmount, BitVec.extractLsb'_toNat, Nat.shiftRight_zero]

/-- The low half of a pair shifted right (41 R423). -/
theorem shiftRightPair_eq (a b c : Word) :
    shiftRightPair a b c = a >>> (c.toNat % 64) ||| b <<< (64 - c.toNat % 64) := by
  have hn : c.toNat % 64 < 64 := Nat.mod_lt _ (by decide)
  rw [shiftRightPair, shiftAmount_eq]
  generalize c.toNat % 64 = n at hn
  apply BitVec.eq_of_getLsbD_eq
  intro i hi
  simp only [BitVec.getLsbD_extractLsb', BitVec.getLsbD_ushiftRight, BitVec.getLsbD_append, BitVec.getLsbD_or,
    BitVec.getLsbD_shiftLeft, hi, decide_true, Bool.true_and, Nat.zero_add]
  by_cases hlow : n + i < 64
  · rw [if_pos hlow, decide_eq_true (show i < 64 - n by omega), Bool.not_true, Bool.false_and, Bool.or_false]
  · rw [if_neg hlow, decide_eq_false (show ¬ i < 64 - n by omega), Bool.not_false, Bool.true_and,
      BitVec.getLsbD_of_ge a _ (by omega), Bool.false_or, show n + i - 64 = i - (64 - n) by omega]

/-- The high half of a pair shifted left (41 R422). -/
theorem shiftLeftPair_eq (a b c : Word) :
    shiftLeftPair a b c = b <<< (c.toNat % 64) ||| a >>> (64 - c.toNat % 64) := by
  have hn : c.toNat % 64 < 64 := Nat.mod_lt _ (by decide)
  rw [shiftLeftPair, shiftAmount_eq]
  generalize c.toNat % 64 = n at hn
  apply BitVec.eq_of_getLsbD_eq
  intro i hi
  simp only [BitVec.getLsbD_extractLsb', BitVec.getLsbD_ushiftRight, BitVec.getLsbD_append, BitVec.getLsbD_or,
    BitVec.getLsbD_shiftLeft, hi, decide_true, Bool.true_and]
  rw [decide_eq_true (show 64 + i < 128 by omega), decide_eq_false (show ¬ 64 + i < n by omega), Bool.not_false,
    Bool.true_and, Bool.true_and]
  by_cases hlow : i < n
  · rw [if_pos (by omega), decide_eq_true hlow, Bool.not_true, Bool.false_and, Bool.false_or,
      show 64 + i - n = 64 - n + i by omega]
  · rw [if_neg (by omega), decide_eq_false hlow, Bool.not_false, Bool.true_and,
      BitVec.getLsbD_of_ge a _ (by omega), Bool.or_false, show 64 + i - n - 64 = i - n by omega]

/-- With zero above it a pair shifts like its low word: SRL (41 R424). -/
theorem shiftRightPair_zero (a c : Word) : shiftRightPair a 0 c = a >>> (c.toNat % 64) := by
  rw [shiftRightPair_eq]
  simp only [BitVec.ofNat_eq_ofNat, BitVec.zero_shiftLeft, BitVec.or_zero]

/-- A pair of one word twice rotates it left: ROL (41 R426). -/
theorem shiftLeftPair_self (a c : Word) : shiftLeftPair a a c = a.rotateLeft (c.toNat % 64) := by
  rw [shiftLeftPair_eq, BitVec.rotateLeft_def, Nat.mod_mod]

/-- A pair of one word twice rotates it right: ROR (41 R427). -/
theorem shiftRightPair_self (a c : Word) : shiftRightPair a a c = a.rotateRight (c.toNat % 64) := by
  rw [shiftRightPair_eq, BitVec.rotateRight_def, Nat.mod_mod]

/-! ### Fields from bit 0 -/

/-- A field with Mb = 0 and a constant Me is one that the rule is defined on (42 R481). -/
theorem onField_zero (g : Word → Nat → Nat → Word) (free a : Word) (me : RegNum) :
    onField g free a 0 (me.setWidth 64) = g a 0 me.toNat := by
  have hme : ((me.setWidth 64).extractLsb' 0 6).toNat = me.toNat := by
    rw [BitVec.extractLsb'_toNat, BitVec.toNat_setWidth, Nat.shiftRight_zero]
    have := me.isLt
    omega
  simp only [onField, hme]
  rfl

/-- The mask of the low bits (42 R480). -/
theorem fieldMask_zero_getLsbD (me i : Nat) (hme : me < 64) :
    (fieldMask 0 me).getLsbD i = decide (i ≤ me) := by
  rw [fieldMask, BitVec.shiftLeft_zero, BitVec.allOnes_and, BitVec.getLsbD_ushiftRight, BitVec.getLsbD_allOnes]
  exact decide_eq_decide.mpr (by omega)

/-- BFEXTU of the low bits zero-extends them: MOV and MOVZX (42 R492, R494). -/
theorem fieldUnsigned_zero (a : Word) (me : Nat) (hme : me < 64) :
    fieldUnsigned a 0 me = (a.extractLsb' 0 (me + 1)).setWidth 64 := by
  apply BitVec.eq_of_getLsbD_eq
  intro i hi
  rw [fieldUnsigned, BitVec.ushiftRight_zero, BitVec.getLsbD_and, fieldMask_zero_getLsbD me i hme,
    BitVec.getLsbD_setWidth, BitVec.getLsbD_extractLsb', decide_eq_true hi, Nat.zero_add, Bool.true_and, Bool.and_comm]
  exact congrArg (· && a.getLsbD i) (decide_eq_decide.mpr Nat.lt_succ_iff.symm)

/-- BFEXT of the low bits sign-extends them: MOVSX (42 R493). -/
theorem fieldSigned_zero (a : Word) (me : Nat) (hme : me < 64) :
    fieldSigned a 0 me = (a.extractLsb' 0 (me + 1)).signExtend 64 := by
  apply BitVec.eq_of_getLsbD_eq
  intro i hi
  rw [fieldSigned, BitVec.getLsbD_sshiftRight, BitVec.getLsbD_signExtend, BitVec.msb_eq_getLsbD_last,
    BitVec.msb_eq_getLsbD_last]
  simp only [BitVec.getLsbD_shiftLeft, BitVec.getLsbD_extractLsb', hi, decide_true, Bool.true_and, Nat.zero_add,
    Nat.add_zero, Nat.add_sub_cancel, Nat.not_le.mpr hi, decide_false, Bool.not_false]
  by_cases hlow : i < me + 1
  · rw [if_pos (by omega), if_pos hlow, decide_eq_true hlow, decide_eq_true (show 63 - me + i < 64 by omega),
      decide_eq_false (show ¬ 63 - me + i < 63 - me by omega), Bool.not_false, Bool.true_and, Bool.true_and,
      Bool.true_and, show 63 - me + i - (63 - me) = i by omega]
  · rw [if_neg (by omega), if_neg hlow, decide_eq_true (show me < me + 1 by omega),
      decide_eq_false (show ¬ 64 - 1 < 63 - me by omega), show 64 - 1 - (63 - me) = me by omega]
    rfl

/-! ### The aliases -/

/-- The absolute value of 0 - B is that of B, $8000000000000000 too: ABS (40 R306). -/
theorem absWord_neg (b : Word) : absWord (-b) = absWord b := by
  apply BitVec.eq_of_toNat_eq
  have hint := BitVec.toInt_eq_toNat_cond b
  have hneg := BitVec.toInt_eq_toNat_cond (-b)
  rw [BitVec.toNat_neg] at hneg
  have hb := b.isLt
  rw [absWord_toNat, absWord_toNat]
  omega

/-- DIF and ABS shift their difference by r0, that is by 0 (40 R306, R326). -/
theorem pointerDifference_zero (a b : Word) : pointerDifference a b 0 = absWord (a - b) :=
  BitVec.ushiftRight_zero _

/-- r0 is 0 (10_state R21). -/
theorem State.reg_eq_zero (s : State) {r : RegNum} (h : r = 0) : s.reg r = 0#64 := if_pos h

/-- A scalar select whose A is not compared bit by bit: MKBOOL and NOT (40 R337, R339, R340). -/
theorem select_scalar {v : BitVec 1} (a b c : Word) (hv : v = 0) :
    (if (if v = 1#1 then a.getLsbD 0 else a != 0) then b else c) = if a = 0 then c else b := by
  have hwhole : (if v = 1#1 then a.getLsbD 0 else a != 0) = (a != 0) := if_neg (by rw [hv]; decide)
  rw [hwhole]
  by_cases ha : a = 0
  · rw [if_pos ha, ha]
    rfl
  · rw [if_neg ha, if_pos (bne_iff_ne.mpr ha)]

/-- With Tb = Tc = 2 and Rb = 0 a bit-field instruction applies its rule to the field from bit 0 to Rc. -/
theorem exec_lowField {i : Instr} {f : Fmt.R3} {g : Word → Nat → Nat → Word}
    (h : Computes i (operandsR3 f) (onField g)) (s : State) (n : RegNum) (hv : f.v = 0) (htb : f.tb = 2)
    (hrb : f.rb = 0) (htc : f.tc = 2) (hrc : f.rc = n) :
    exec i s = .next (s.result i.size f.rt (g (s.reg f.ra) 0 n.toNat)) :=
  h.r3_scalar hv (opnd_immediate_scalar s htb hrb) (opnd_immediate_scalar s htc hrc) (onField_zero g _ _ n)

/-- MOVZX: BFEXTU of the bits from 0 on (42 R492, R494). -/
theorem exec_zeroExtend {i : Instr} {f : Fmt.R3} (h : Computes i (operandsR3 f) (onField fieldUnsigned))
    (s : State) (n : RegNum) (hv : f.v = 0) (htb : f.tb = 2) (hrb : f.rb = 0) (htc : f.tc = 2) (hrc : f.rc = n) :
    exec i s = .next (s.result i.size f.rt (((s.reg f.ra).extractLsb' 0 (n.toNat + 1)).setWidth 64)) := by
  rw [exec_lowField h s n hv htb hrb htc hrc, fieldUnsigned_zero _ _ n.isLt]

/-- MOVSX: BFEXT of the bits from 0 on (42 R493). -/
theorem exec_signExtend {i : Instr} {f : Fmt.R3} (h : Computes i (operandsR3 f) (onField fieldSigned))
    (s : State) (n : RegNum) (hv : f.v = 0) (htb : f.tb = 2) (hrb : f.rb = 0) (htc : f.tc = 2) (hrc : f.rc = n) :
    exec i s = .next (s.result i.size f.rt (((s.reg f.ra).extractLsb' 0 (n.toNat + 1)).signExtend 64)) := by
  rw [exec_lowField h s n hv htb hrb htc hrc, fieldSigned_zero _ _ n.isLt]

/-- Settles O25, name by name: the rule of the encoding at the fixed fields. -/
theorem aliasMeanings : Obligations.AliasMeanings := by
  unfold Obligations.AliasMeanings
  refine ⟨fun f s hv hra => ?ldi, fun f s b hv hra htc hrc hb => ?neg, fun f s b hv htc hrc hb => ?dif,
    fun f s b hv hra htc hrc hb => ?abs, fun f s hv htb hrb htc hrc => ?mkbool, fun f s hv htb hrb htc hrc => ?not,
    fun f s b hv htb hrb hc => ?srl, fun f s b hv htb hrb hc => ?rol, fun f s b hv htb hrb hc => ?ror,
    fun f s hv htb hrb htc hrc => ?com, fun f s hv htb hrb htc hrc => ?mov,
    fun f s => exec_zeroExtend (computes_free (.movzxb f) _ _ _ (fun _ => rfl) rfl) s 7,
    fun f s => exec_signExtend (computes_free (.movsxb f) _ _ _ (fun _ => rfl) rfl) s 7,
    fun f s => exec_zeroExtend (computes_free (.movzxw f) _ _ _ (fun _ => rfl) rfl) s 15,
    fun f s => exec_signExtend (computes_free (.movsxw f) _ _ _ (fun _ => rfl) rfl) s 15,
    fun f s => exec_zeroExtend (computes_free (.movzxt f) _ _ _ (fun _ => rfl) rfl) s 31,
    fun f s => exec_signExtend (computes_free (.movsxt f) _ _ _ (fun _ => rfl) rfl) s 31⟩
  case ldi =>
    exact (computes_pure (.ldi f) _ _ _ (fun _ => rfl) rfl).ri_scalar hv
      (by simp only [s.reg_eq_zero hra, BitVec.zero_add])
  case neg =>
    exact (computes_pure (.neg f) _ _ _ (fun _ => rfl) rfl).r3_scalar hv hb (opnd_zero_scalar s htc hrc)
      (by simp only [s.reg_eq_zero hra, BitVec.zero_sub])
  case dif =>
    exact (computes_pure (.dif f) _ _ _ (fun _ => rfl) rfl).r3_scalar hv hb (opnd_zero_scalar s htc hrc)
      (pointerDifference_zero _ _)
  case abs =>
    exact (computes_pure (.abs f) _ _ _ (fun _ => rfl) rfl).r3_scalar hv hb (opnd_zero_scalar s htc hrc)
      (by simp only [pointerDifference_zero, s.reg_eq_zero hra, BitVec.zero_sub, absWord_neg])
  case mkbool =>
    exact (computesEach_select (.mkbool f) _ f (fun _ => rfl) rfl).r3ScalarA_scalar hv
      (opnd_immediate_scalar s htb hrb) (opnd_immediate_scalar s htc hrc) (select_scalar _ _ _ hv)
  case not =>
    exact (computesEach_select (.not f) _ f (fun _ => rfl) rfl).r3ScalarA_scalar hv
      (opnd_immediate_scalar s htb hrb) (opnd_immediate_scalar s htc hrc) (select_scalar _ _ _ hv)
  case srl =>
    exact (computes_pure (.srl f) _ _ _ (fun _ => rfl) rfl).r3_scalar hv (opnd_zero_scalar s htb hrb) hc
      (shiftRightPair_zero _ _)
  case rol =>
    exact (computes_pure (.rol f) _ _ _ (fun _ => rfl) rfl).r3_scalar hv (opnd_register_scalar s htb hrb) hc
      (shiftLeftPair_self _ _)
  case ror =>
    exact (computes_pure (.ror f) _ _ _ (fun _ => rfl) rfl).r3_scalar hv (opnd_register_scalar s htb hrb) hc
      (shiftRightPair_self _ _)
  case com =>
    have hones : fieldMask 0 63 = BitVec.allOnes 64 := by decide
    have hnot : ~~~s.reg f.ra = s.reg f.ra ^^^ fieldMask 0 63 := by rw [hones, BitVec.xor_allOnes]
    rw [hnot]
    exact exec_lowField (computes_free (.com f) _ _ _ (fun _ => rfl) rfl) s 63 hv htb hrb htc hrc
  case mov =>
    have hcopy : s.reg f.ra = ((s.reg f.ra).extractLsb' 0 64).setWidth 64 := by
      rw [BitVec.setWidth_eq, BitVec.extractLsb'_eq_self]
    rw [hcopy]
    exact exec_zeroExtend (computes_free (.mov f) _ _ _ (fun _ => rfl) rfl) s 63 hv htb hrb htc hrc

end Sys2Proof.Machine
end

section
/-! Logic, shifts, counts, reversals, matrices, byte maps, carry-less products and searches, instruction by instruction. -/

namespace Sys2Proof.Machine

/-- Settles O22, instruction by instruction: the dispatcher runs each as its rule through the one wrapper. -/
theorem logicAndBitOperations : Obligations.LogicAndBitOperations := by
  unfold Obligations.LogicAndBitOperations
  refine ⟨⟨fun f => computes_pure (.andS f) _ _ _ (fun _ => rfl) rfl,
      fun f => computes_pure (.and f) _ _ _ (fun _ => rfl) rfl,
      fun f => computes_pure (.andc f) _ _ _ (fun _ => rfl) rfl,
      fun f => computes_pure (.orS f) _ _ _ (fun _ => rfl) rfl,
      fun f => computes_pure (.or f) _ _ _ (fun _ => rfl) rfl,
      fun f => computes_pure (.orc f) _ _ _ (fun _ => rfl) rfl,
      fun f => computes_pure (.eorS f) _ _ _ (fun _ => rfl) rfl,
      fun f => computes_pure (.eor f) _ _ _ (fun _ => rfl) rfl,
      fun f => computes_pure (.enor f) _ _ _ (fun _ => rfl) rfl,
      fun f => computes_pure (.nand f) _ _ _ (fun _ => rfl) rfl,
      fun f => computes_pure (.nor f) _ _ _ (fun _ => rfl) rfl,
      fun f => computes_pure (.mux f) _ _ _ (fun _ => rfl) rfl,
      fun f => computes_pure (.andi f) _ _ _ (fun _ => rfl) rfl,
      fun f => computes_pure (.andil f) _ _ _ (fun _ => rfl) rfl,
      fun f => computes_pure (.ori f) _ _ _ (fun _ => rfl) rfl,
      fun f => computes_pure (.oril f) _ _ _ (fun _ => rfl) rfl,
      fun f => computes_pure (.eori f) _ _ _ (fun _ => rfl) rfl,
      fun f => computes_pure (.eoril f) _ _ _ (fun _ => rfl) rfl,
      fun f => computes_pure (.sllS f) _ _ _ (fun _ => rfl) rfl,
      fun f => computes_pure (.sllp f) _ _ _ (fun _ => rfl) rfl,
      fun f => computes_pure (.srlp f) _ _ _ (fun _ => rfl) rfl,
      fun f => computes_pure (.srl f) _ _ _ (fun _ => rfl) rfl,
      fun f => computes_pure (.sra f) _ _ _ (fun _ => rfl) rfl,
      fun f => computes_pure (.rol f) _ _ _ (fun _ => rfl) rfl,
      fun f => computes_pure (.ror f) _ _ _ (fun _ => rfl) rfl⟩,
    fun f => computes_pure (.cntlz f) _ _ _ (fun _ => rfl) rfl,
    fun f => computes_pure (.cntpop f) _ _ _ (fun _ => rfl) rfl,
    fun sz f => computes_pure (.revbit sz f) _ _ _ (fun _ => rfl) rfl,
    fun f => computes_pure (.mor f) _ _ _ (fun _ => rfl) rfl,
    fun f => computes_pure (.mxor f) _ _ _ (fun _ => rfl) rfl,
    fun f => computes_pure (.mort f) _ _ _ (fun _ => rfl) rfl,
    fun f => computes_pure (.mxort f) _ _ _ (fun _ => rfl) rfl,
    fun f => computes_pure (.bmap f) _ _ _ (fun _ => rfl) rfl,
    fun f => computes_pure (.clmul f) _ _ _ (fun _ => rfl) rfl,
    fun f => computes_pure (.clmulh f) _ _ _ (fun _ => rfl) rfl,
    fun f => computes_pure (.bytndx f) _ _ _ (fun _ => rfl) rfl,
    fun f => computes_pure (.bytndxi f) _ _ _ (fun _ => rfl) rfl,
    fun f => computes_pure (.wydendx f) _ _ _ (fun _ => rfl) rfl,
    fun f => computes_pure (.wydendxi f) _ _ _ (fun _ => rfl) rfl,
    fun f => computes_pure (.utf21ndx f) _ _ _ (fun _ => rfl) rfl,
    fun f => computes_pure (.utf21ndxi f) _ _ _ (fun _ => rfl) rfl⟩

end Sys2Proof.Machine
end

section
/-! The rules on words, bit by bit: shifts of pairs, counts, reversals, bit matrices, byte maps, carry-less products and
index searches. -/

namespace Sys2Proof.Machine

/-! ### Shifts and extensions -/

/-- A pair shifted left, bit by bit (41 R422). -/
theorem shiftLeftPair_getLsbD (a b c : Word) (i : Nat) (hi : i < 64) : (shiftLeftPair a b c).getLsbD i =
    if i < c.toNat % 64 then a.getLsbD (64 + i - c.toNat % 64) else b.getLsbD (i - c.toNat % 64) := by
  rw [shiftLeftPair_eq, BitVec.getLsbD_or, BitVec.getLsbD_shiftLeft, BitVec.getLsbD_ushiftRight]
  split
  case isTrue hlow =>
    simp only [hi, hlow, decide_true, Bool.not_true, Bool.and_false, Bool.false_and, Bool.false_or]
    rw [show 64 - c.toNat % 64 + i = 64 + i - c.toNat % 64 by omega]
  case isFalse hhigh =>
    rw [BitVec.getLsbD_of_ge a _ (by omega)]
    simp only [hi, hhigh, decide_true, decide_false, Bool.not_false, Bool.true_and, Bool.or_false]

/-- A pair shifted right, bit by bit (41 R423). -/
theorem shiftRightPair_getLsbD (a b c : Word) (i : Nat) (hi : i < 64) : (shiftRightPair a b c).getLsbD i =
    if i + c.toNat % 64 < 64 then a.getLsbD (i + c.toNat % 64) else b.getLsbD (i + c.toNat % 64 - 64) := by
  rw [shiftRightPair_eq, BitVec.getLsbD_or, BitVec.getLsbD_shiftLeft, BitVec.getLsbD_ushiftRight,
    Nat.add_comm (c.toNat % 64)]
  split
  case isTrue hlow =>
    simp only [show i < 64 - c.toNat % 64 by omega, decide_true, Bool.not_true, Bool.and_false, Bool.false_and,
      Bool.or_false]
  case isFalse hhigh =>
    rw [BitVec.getLsbD_of_ge a _ (by omega), show i - (64 - c.toNat % 64) = i + c.toNat % 64 - 64 by omega]
    simp only [hi, show ¬ i < 64 - c.toNat % 64 by omega, decide_true, decide_false, Bool.not_false, Bool.true_and,
      Bool.false_or]

/-- A one-extended number has ones above its bits (00 R9). -/
theorem oext_getLsbD {n : Nat} (v : BitVec n) (i : Nat) (hi : i < 64) :
    (oext v).getLsbD i = if i < n then v.getLsbD i else true := by
  rw [oext, BitVec.getLsbD_or, BitVec.getLsbD_setWidth, BitVec.getLsbD_shiftLeft, BitVec.getLsbD_allOnes]
  split
  case isTrue hlow => simp only [hi, hlow, decide_true, Bool.true_and, Bool.not_true, Bool.false_and, Bool.or_false]
  case isFalse hhigh =>
    simp only [hi, hhigh, show i - n < 64 by omega, decide_true, decide_false, Bool.not_false, Bool.true_and,
      Bool.or_true]

/-! ### Counts -/

/-- The count of leading zeros is at most 64 (41 R430). -/
theorem clz_toNat_le (a : Word) : a.clz.toNat ≤ 64 := BitVec.le_def.mp BitVec.clz_le

/-- The bits that CNTLZ counts are zeros (41 R430). -/
theorem getLsbD_above_clz (a : Word) (i : Nat) (hi : i < a.clz.toNat) : a.getLsbD (63 - i) = false := by
  have hle := clz_toNat_le a
  have hlt : a.toNat < 2 ^ (63 - i) :=
    Nat.lt_of_lt_of_le BitVec.toNat_lt_two_pow_sub_clz (Nat.pow_le_pow_right (by decide) (by omega))
  exact Nat.testBit_lt_two_pow hlt

/-- A word whose count is below 64 has its highest one right below them (41 R430). -/
theorem getLsbD_at_clz (a : Word) (h : a.clz.toNat < 64) : a.getLsbD (63 - a.clz.toNat) = true :=
  BitVec.getLsbD_true_clz_of_ne_zero (by decide) (BitVec.clz_lt_iff_ne_zero.mp (BitVec.lt_def.mpr h))

/-- The count of a word whose highest one is known. -/
theorem clz_toNat_of_highest (a : Word) (n : Nat) (hone : a.getLsbD n = true)
    (hzero : ∀ i, n < i → a.getLsbD i = false) : a.clz.toNat = 63 - n := by
  have hn : n < 64 := BitVec.lt_of_getLsbD hone
  have hge : ¬ 63 - n < a.clz.toNat := fun hlt => by
    have hbit := getLsbD_above_clz a _ hlt
    rw [show 63 - (63 - n) = n by omega, hone] at hbit
    exact Bool.noConfusion hbit
  have hle : ¬ a.clz.toNat < 63 - n := fun hlt => by
    have hbit := getLsbD_at_clz a (by omega)
    rw [hzero _ (by omega)] at hbit
    exact Bool.noConfusion hbit
  omega

/-- The count over a range, with its last number split off. -/
theorem length_filter_range_succ (f : Nat → Bool) (n : Nat) :
    ((List.range (n + 1)).filter f).length = ((List.range n).filter f).length + (f n).toNat := by
  rw [List.range_succ, List.filter_append, List.length_append, List.filter_cons, List.filter_nil]
  cases f n <;> rfl

/-- The count of ones below position n, by its recursion. -/
theorem cpopNatRec_eq (a : Word) (n : Nat) : a.cpopNatRec n 0 = ((List.range n).filter fun i => a.getLsbD i).length := by
  induction n with
  | zero => exact BitVec.cpopNatRec_zero_self
  | succ n ih =>
    rw [BitVec.cpopNatRec_succ, BitVec.cpopNatRec_add, ih, length_filter_range_succ]

/-- CNTPOP counts the ones (41 R431). -/
theorem cpop_toNat (a : Word) : a.cpop.toNat = ((List.range 64).filter fun i => a.getLsbD i).length := by
  rw [BitVec.toNat_cpop, cpopNatRec_eq]

/-! ### Words of bits and of bytes -/

/-- The bits of a vector given by its bits. -/
theorem bitsOf_getLsbD (p : Nat → Bool) (n i : Nat) (hi : i < n) : (bitsOf p n).getLsbD i = p i := by
  induction n with
  | zero => omega
  | succ n ih =>
    rw [bitsOf, BitVec.getLsbD_cons]
    split
    case isTrue heq => rw [heq]
    case isFalse hne => exact ih (by omega)

/-- The bytes of a word made of bytes, the first in bits 7:0. -/
theorem wordOf_extractLsb' (l : List Byte) (n : Nat) (hn : n < l.length) (h8 : n < 8) :
    (wordOf l).extractLsb' (8 * n) 8 = l[n] := by
  induction l generalizing n with
  | nil => exact absurd hn (Nat.not_lt_zero n)
  | cons b bs ih =>
    apply BitVec.eq_of_getLsbD_eq
    intro i hi
    rw [wordOf, BitVec.getLsbD_extractLsb', BitVec.getLsbD_or, BitVec.getLsbD_shiftLeft, BitVec.getLsbD_setWidth,
      decide_eq_true hi, decide_eq_true (show 8 * n + i < 64 by omega)]
    cases n with
    | zero =>
      simp only [Nat.mul_zero, Nat.zero_add, hi, decide_true, Bool.not_true, Bool.true_and, Bool.false_and,
        Bool.false_or, Bool.and_false, List.getElem_cons_zero]
    | succ n =>
      have hn' : n < bs.length := Nat.lt_of_succ_lt_succ hn
      have hrest : ((wordOf bs).extractLsb' (8 * n) 8).getLsbD i = bs[n].getLsbD i :=
        congrArg (·.getLsbD i) (ih n hn' (by omega))
      rw [BitVec.getLsbD_extractLsb', decide_eq_true hi, Bool.true_and] at hrest
      rw [BitVec.getLsbD_of_ge b _ (by omega), decide_eq_false (show ¬ 8 * (n + 1) + i < 8 by omega),
        show 8 * (n + 1) + i - 8 = 8 * n + i by omega, hrest, List.getElem_cons_succ]
      simp only [Bool.not_false, Bool.true_and, Bool.and_false, Bool.or_false]

/-- REVBIT mirrors each group (41 R432). -/
theorem reverseBits_getLsbD (sz : BitVec 2) (a : Word) (i : Nat) (hi : i < 64) : (reverseBits sz a).getLsbD i =
    a.getLsbD (i / (8 <<< sz.toNat) * (8 <<< sz.toNat) + ((8 <<< sz.toNat) - 1 - i % (8 <<< sz.toNat))) := by
  rw [reverseBits, bitsOf_getLsbD _ _ _ hi]

/-- BMAP: byte n of the result is the byte of the pair that nibble n of C names (41 R436, D49). -/
theorem byteMap_extractLsb' (a b c : Word) (n : Nat) (hn : n < 8) : (byteMap a b c).extractLsb' (8 * n) 8 =
    let k := (c.toNat / 16 ^ n) % 16
    if k < 8 then a.extractLsb' (8 * k) 8 else b.extractLsb' (8 * (k - 8)) 8 := by
  have hnibble : (c.extractLsb' (4 * n) 4).toNat = c.toNat / 16 ^ n % 16 := by
    rw [BitVec.extractLsb'_toNat, Nat.shiftRight_eq_div_pow, Nat.pow_mul]
  rw [byteMap, wordOf_extractLsb' _ n (by simpa using hn) hn, List.getElem_map, List.getElem_range, hnibble]
  dsimp only
  split
  case isTrue hlow => exact BitVec.extractLsb'_append_eq_of_add_le (by omega)
  case isFalse hhigh => rw [BitVec.extractLsb'_append_eq_of_le (by omega), Nat.mul_sub]

/-! ### Sums modulo 2 -/

/-- An exclusive or over a range, with its last term split off. -/
theorem foldl_xor_range_succ (f : Nat → Bool) (n : Nat) :
    ((List.range (n + 1)).map f).foldl xor false = xor (((List.range n).map f).foldl xor false) (f n) := by
  rw [List.range_succ, List.map_append, List.foldl_append]
  rfl

/-- Terms that are false may be left out at the end. -/
theorem foldl_xor_range_of_le {f : Nat → Bool} {m n : Nat} (hmn : m ≤ n) (hf : ∀ i, m ≤ i → f i = false) :
    ((List.range n).map f).foldl xor false = ((List.range m).map f).foldl xor false := by
  induction hmn with
  | refl => rfl
  | step hle ih => rw [foldl_xor_range_succ, ih, hf _ hle, Bool.xor_false]

/-- An exclusive or is whether the number of terms that hold is odd. -/
theorem foldl_xor_eq_testBit (f : Nat → Bool) (n : Nat) :
    ((List.range n).map f).foldl xor false = ((List.range n).filter f).length.testBit 0 := by
  induction n with
  | zero => exact (Nat.zero_testBit 0).symm
  | succ n ih =>
    rw [foldl_xor_range_succ, ih, length_filter_range_succ]
    cases f n
    · exact Bool.xor_false _
    · rw [Bool.xor_true, Bool.toNat_true, Nat.testBit_zero, Nat.testBit_zero, ← decide_not]
      exact decide_eq_decide.mpr (by omega)

/-! ### Bit matrices -/

/-- Element (i, j) of a word made of a matrix (41 R435). -/
theorem matrixBit_ofMatrix (p : Nat → Nat → Bool) (i j : Nat) (hi : i < 8) (hj : j < 8) :
    matrixBit (ofMatrix p) i j = p i j := by
  rw [matrixBit, ofMatrix, bitsOf_getLsbD _ _ _ (by omega), show (63 - (63 - (8 * i + j))) / 8 = i by omega,
    show (63 - (63 - (8 * i + j))) % 8 = j by omega]

/-- MOR: some product of the row and the column holds (41 R435). -/
theorem matrixOr_iff (a b : Word) (i j : Nat) :
    matrixOr a b i j = true ↔ ∃ k < 8, matrixBit a i k = true ∧ matrixBit b k j = true := by
  simp only [matrixOr, matrixTerms, List.any_map, List.any_eq_true, List.mem_range, Function.comp_apply, id_eq,
    Bool.and_eq_true]

/-! ### Carry-less products -/

/-- The first n steps of the product, bit by bit. -/
theorem carrylessProduct_steps (a b : Word) (n k : Nat) (hk : k < 128) :
    ((List.range n).foldl (fun p i => if b.getLsbD i then p ^^^ (a.setWidth 128 <<< i) else p) 0#128).getLsbD k =
      ((List.range n).map fun i => b.getLsbD i && (decide (i ≤ k) && a.getLsbD (k - i))).foldl xor false := by
  induction n with
  | zero => exact BitVec.getLsbD_zero
  | succ n ih =>
    rw [foldl_xor_range_succ, ← ih, List.range_succ, List.foldl_append, List.foldl_cons, List.foldl_nil]
    split
    case isTrue hb =>
      rw [BitVec.getLsbD_xor, BitVec.getLsbD_shiftLeft, BitVec.getLsbD_setWidth, hb, decide_eq_true hk,
        decide_eq_true (show k - n < 128 by omega), ← decide_not]
      simp only [Nat.not_lt, Bool.true_and]
    case isFalse hb => rw [eq_false_of_ne_true hb, Bool.false_and, Bool.xor_false]

/-- Bit k of the product is the exclusive or of the products of bits i and k - i (41 R437). -/
theorem carrylessProduct_getLsbD (a b : Word) (k : Nat) (hk : k < 128) : (carrylessProduct a b).getLsbD k =
    ((List.range (k + 1)).map fun i => b.getLsbD i && a.getLsbD (k - i)).foldl xor false := by
  have hterms : (List.range (k + 1)).map (fun i => b.getLsbD i && (decide (i ≤ k) && a.getLsbD (k - i))) =
      (List.range (k + 1)).map fun i => b.getLsbD i && a.getLsbD (k - i) := by
    refine List.map_congr_left fun i hi => ?_
    rw [decide_eq_true (Nat.lt_succ_iff.mp (List.mem_range.mp hi)), Bool.true_and]
  rw [carrylessProduct, carrylessProduct_steps a b 64 k hk, ← hterms,
    ← foldl_xor_range_of_le (show 64 ≤ 128 by decide) fun i hi => by rw [BitVec.getLsbD_of_ge b i hi, Bool.false_and],
    foldl_xor_range_of_le (show k + 1 ≤ 128 by omega) fun i hi => by
      rw [decide_eq_false (by omega), Bool.false_and, Bool.and_false]]

/-! ### Searches -/

/-- A search finds the first item that matches (41 R440 to R446). -/
theorem searchIndex_first {w n : Nat} {a : Word} {x : BitVec w} {i : Nat} (hi : i < n)
    (hbefore : ∀ j < i, a.extractLsb' (w * j) w ≠ x) (hmatch : a.extractLsb' (w * i) w = x) :
    searchIndex w n a x = BitVec.ofNat 64 i := by
  have hfind : (List.range n).find? (fun i => a.extractLsb' (w * i) w == x) = some i :=
    List.find?_range_eq_some.mpr ⟨beq_iff_eq.mpr hmatch, List.mem_range.mpr hi, fun j hj => by
      rw [beq_false_of_ne (hbefore j hj)]; rfl⟩
  rw [searchIndex, hfind]

/-- A search without a match answers all ones (41 R440 to R446). -/
theorem searchIndex_none {w n : Nat} {a : Word} {x : BitVec w} (h : ∀ i < n, a.extractLsb' (w * i) w ≠ x) :
    searchIndex w n a x = BitVec.allOnes 64 := by
  have hfind : (List.range n).find? (fun i => a.extractLsb' (w * i) w == x) = none :=
    List.find?_range_eq_none.mpr fun i hi => by rw [beq_false_of_ne (h i hi)]; rfl
  rw [searchIndex, hfind]

end Sys2Proof.Machine
end

section
/-! Bit fields, decimal digits and blending, bit by bit and digit by digit. -/

namespace Sys2Proof.Machine

/-! ### Bit fields -/

/-- A field mask has ones from Mb to Me (42 R480). -/
theorem fieldMask_getLsbD (mb me i : Nat) (hi : i < 64) (hme : me < 64) :
    (fieldMask mb me).getLsbD i = (decide (mb ≤ i) && decide (i ≤ me)) := by
  have hlow : (!decide (i < mb)) = decide (mb ≤ i) := by rw [← decide_not]; exact decide_eq_decide.mpr Nat.not_lt
  have hhigh : decide (63 - me + i < 64) = decide (i ≤ me) := decide_eq_decide.mpr (by omega)
  rw [fieldMask, BitVec.getLsbD_and, BitVec.getLsbD_shiftLeft, BitVec.getLsbD_allOnes, BitVec.getLsbD_ushiftRight,
    BitVec.getLsbD_allOnes, hlow, hhigh, decide_eq_true hi, decide_eq_true (show i - mb < 64 by omega), Bool.true_and,
    Bool.and_true]

/-- BFEXTU right-aligns the field, with zeros above it (42 R485). -/
theorem fieldUnsigned_getLsbD (a : Word) {mb me : Nat} (i : Nat) (hle : mb ≤ me) (hme : me < 64) :
    (fieldUnsigned a mb me).getLsbD i = (decide (i ≤ me - mb) && a.getLsbD (i + mb)) := by
  rw [fieldUnsigned, BitVec.getLsbD_ushiftRight, BitVec.getLsbD_and, Nat.add_comm mb]
  by_cases hin : i + mb < 64
  · rw [fieldMask_getLsbD mb me _ hin hme, decide_eq_true (Nat.le_add_left mb i), Bool.true_and, Bool.and_comm]
    exact congrArg (· && a.getLsbD (i + mb)) (decide_eq_decide.mpr (by omega))
  · rw [BitVec.getLsbD_of_ge a _ (by omega), Bool.false_and, Bool.and_false]

/-- BFEXT right-aligns the field, with copies of bit Me above it (42 R486). -/
theorem fieldSigned_getLsbD (a : Word) {mb me : Nat} (i : Nat) (hle : mb ≤ me) (hme : me < 64) (hi : i < 64) :
    (fieldSigned a mb me).getLsbD i = a.getLsbD (if i ≤ me - mb then i + mb else me) := by
  have hmsb : (a <<< (63 - me)).msb = a.getLsbD me := by
    rw [BitVec.msb_eq_getLsbD_last, BitVec.getLsbD_shiftLeft, decide_eq_true (show 64 - 1 < 64 by decide),
      decide_eq_false (show ¬ 64 - 1 < 63 - me by omega), show 64 - 1 - (63 - me) = me by omega]
    rfl
  rw [fieldSigned, BitVec.getLsbD_sshiftRight, hmsb, decide_eq_false (Nat.not_le.mpr hi), Bool.not_false,
    Bool.true_and]
  by_cases hin : i ≤ me - mb
  · rw [if_pos hin, if_pos (by omega), BitVec.getLsbD_shiftLeft, decide_eq_true (show 63 - me + mb + i < 64 by omega),
      decide_eq_false (show ¬ 63 - me + mb + i < 63 - me by omega),
      show 63 - me + mb + i - (63 - me) = i + mb by omega]
    rfl
  · rw [if_neg hin, if_neg (by omega)]

/-- BFFFO: the highest one of the right-aligned field, or -1 (42 R484, D50). -/
theorem fieldFirstOne_eq (a : Word) (mb me : Nat) : fieldFirstOne a mb me =
    if fieldUnsigned a mb me = 0 then BitVec.allOnes 64 else 63 - (fieldUnsigned a mb me).clz := rfl

/-- BFFFO of a field of zeros (42 R484, D50). -/
theorem fieldFirstOne_none (a : Word) {mb me : Nat} (hle : mb ≤ me) (hme : me < 64)
    (hzero : ∀ i, mb ≤ i → i ≤ me → a.getLsbD i = false) : fieldFirstOne a mb me = BitVec.allOnes 64 := by
  have hfield : fieldUnsigned a mb me = 0 := by
    apply BitVec.eq_of_getLsbD_eq
    intro i _
    rw [fieldUnsigned_getLsbD a i hle hme, BitVec.ofNat_eq_ofNat, BitVec.getLsbD_zero, Bool.and_eq_false_imp]
    intro hin
    have hin := of_decide_eq_true hin
    exact hzero (i + mb) (by omega) (by omega)
  rw [fieldFirstOne_eq, if_pos hfield]

/-- BFFFO of a field with a one: the index of the highest, relative to Mb (42 R484, D50). -/
theorem fieldFirstOne_highest (a : Word) {mb me i : Nat} (hme : me < 64) (hmb : mb ≤ i) (hi : i ≤ me)
    (hone : a.getLsbD i = true) (hzero : ∀ j, i < j → j ≤ me → a.getLsbD j = false) :
    fieldFirstOne a mb me = BitVec.ofNat 64 (i - mb) := by
  have hbit := fun k => fieldUnsigned_getLsbD a k (Nat.le_trans hmb hi) hme
  have htop : (fieldUnsigned a mb me).getLsbD (i - mb) = true := by
    rw [hbit, Nat.sub_add_cancel hmb, hone, decide_eq_true (by omega)]
    rfl
  have habove : ∀ k, i - mb < k → (fieldUnsigned a mb me).getLsbD k = false := fun k hk => by
    rw [hbit, Bool.and_eq_false_imp]
    intro hin
    have hin := of_decide_eq_true hin
    exact hzero (k + mb) (by omega) (by omega)
  have hne : fieldUnsigned a mb me ≠ 0 := fun h0 => by
    rw [h0] at htop
    exact Bool.noConfusion (BitVec.getLsbD_zero.symm.trans htop)
  have hclz := clz_toNat_of_highest _ _ htop habove
  rw [fieldFirstOne_eq, if_neg hne]
  apply BitVec.eq_of_toNat_eq
  rw [BitVec.toNat_sub, hclz, BitVec.toNat_ofNat, show (63 : Word).toNat = 63 from rfl]
  omega

/-- A rule on fields reads the low six bits of B and C, and has a free value for Mb above Me (42 R480, R481). -/
theorem onField_eq (g : Word → Nat → Nat → Word) (free a b c : Word) : onField g free a b c =
    if c.toNat % 64 < b.toNat % 64 then free else g a (b.toNat % 64) (c.toNat % 64) := by
  simp only [onField, BitVec.extractLsb'_toNat, Nat.shiftRight_zero, Nat.reducePow]

/-! ### Decimal digits -/

/-- The digits of a byte (42 R495). -/
theorem bcd_digits_toNat {x : BitVec 8} {h l : Nat} (hl : l < 16) (hx : x.toNat = 16 * h + l) :
    (x.extractLsb' 4 4).toNat = h ∧ (x.extractLsb' 0 4).toNat = l := by
  have hlt := x.isLt
  rw [BitVec.extractLsb'_toNat, BitVec.extractLsb'_toNat, Nat.shiftRight_zero, Nat.shiftRight_eq_div_pow, hx]
  omega

/-- The number that the digits of a byte stand for (42 R495). -/
theorem bcdValue_eq {x : BitVec 8} {h l : Nat} (hl : l < 16) (hx : x.toNat = 16 * h + l) :
    bcdValue x = 10 * h + l := by
  obtain ⟨hhigh, hlow⟩ := bcd_digits_toNat hl hx
  rw [bcdValue, hhigh, hlow]

/-- A byte is a decimal number when both digits are at most 9 (42 R495). -/
theorem bcdValid_iff {x : BitVec 8} {h l : Nat} (hl : l < 16) (hx : x.toNat = 16 * h + l) :
    bcdValid x = true ↔ h ≤ 9 ∧ l ≤ 9 := by
  obtain ⟨hhigh, hlow⟩ := bcd_digits_toNat hl hx
  rw [bcdValid, hhigh, hlow, decide_eq_true_iff]

/-- A BCD rule applies to the numbers of the low bytes, and has a free value for a digit above 9 (42 R495, D51). -/
theorem onBcd_eq (g : Nat → Nat → Nat) (free : Word) {a b : Word} {h l h' l' : Nat} (hl : l < 16) (hl' : l' < 16)
    (ha : a.toNat % 256 = 16 * h + l) (hb : b.toNat % 256 = 16 * h' + l') : onBcd g free a b =
      if (h ≤ 9 ∧ l ≤ 9) ∧ h' ≤ 9 ∧ l' ≤ 9 then BitVec.ofNat 64 (g (10 * h + l) (10 * h' + l')) else free := by
  have hbyte : ∀ w : Word, (w.extractLsb' 0 8).toNat = w.toNat % 256 := fun w => by
    rw [BitVec.extractLsb'_toNat, Nat.shiftRight_zero]
  have hx := (hbyte a).trans ha
  have hy := (hbyte b).trans hb
  simp only [onBcd, bcdValue_eq hl hx, bcdValue_eq hl' hy, Bool.and_eq_true, bcdValid_iff hl hx, bcdValid_iff hl' hy]

/-- Nibble i of a BCD number is its decimal digit i (42 R495). -/
theorem bcdDigits_digit (n k i : Nat) (hi : i < n) : bcdDigits n k / 16 ^ i % 16 = k / 10 ^ i % 10 := by
  induction n generalizing k i with
  | zero => exact absurd hi (Nat.not_lt_zero i)
  | succ n ih =>
    rw [bcdDigits]
    cases i with
    | zero => omega
    | succ i =>
      have hrest : (k % 10 + 16 * bcdDigits n (k / 10)) / 16 = bcdDigits n (k / 10) := by omega
      rw [Nat.pow_succ', ← Nat.div_div_eq_div_mul, hrest, ih _ i (Nat.lt_of_succ_lt_succ hi), Nat.div_div_eq_div_mul,
        ← Nat.pow_succ']

/-! ### Blending -/

/-- A blended component is the weighted mean of the two, rounded down (49 R975, D75). -/
theorem blendComponent_toNat (a b k : BitVec 8) :
    (blendComponent a b k).toNat = (a.toNat * k.toNat + b.toNat * (255 - k.toNat)) / 256 := by
  have hk := k.isLt
  have ha : a.toNat * k.toNat ≤ 255 * k.toNat := Nat.mul_le_mul_right _ (by omega)
  have hb : b.toNat * (255 - k.toNat) ≤ 255 * (255 - k.toNat) := Nat.mul_le_mul_right _ (by omega)
  rw [blendComponent, BitVec.toNat_ofNat, Nat.mod_eq_of_lt (by omega)]

/-- Colour p of a blend is the blend of the two colours p (49 R975). -/
theorem blendColors_component (a b c : Word) (p : Nat) (hp : p < 3) : (blendColors a b c).extractLsb' (8 * p) 8 =
    blendComponent (a.extractLsb' (8 * p) 8) (b.extractLsb' (8 * p) 8) (c.extractLsb' 0 8) := by
  have hcases : p = 0 ∨ p = 1 ∨ p = 2 := by omega
  obtain rfl | rfl | rfl := hcases
  · exact BitVec.extractLsb'_append_eq_right
  · exact (BitVec.extractLsb'_append_eq_of_le (by decide)).trans BitVec.extractLsb'_append_eq_right
  · exact (BitVec.extractLsb'_append_eq_of_le (by decide)).trans
      ((BitVec.extractLsb'_append_eq_of_le (by decide)).trans BitVec.extractLsb'_append_eq_right)

/-- Above its colours a blend keeps A[31:24] and nothing else (49 R975). -/
theorem blendColors_above (a b c : Word) :
    (blendColors a b c).extractLsb' 24 40 = (a.extractLsb' 24 8).setWidth 40 := by
  have htop : (blendColors a b c).extractLsb' 24 40 = 0#32 ++ a.extractLsb' 24 8 :=
    (BitVec.extractLsb'_append_eq_of_le (by decide)).trans <|
      (BitVec.extractLsb'_append_eq_of_le (by decide)).trans <|
        (BitVec.extractLsb'_append_eq_of_le (by decide)).trans (BitVec.extractLsb'_eq_self)
  rw [htop]
  exact (BitVec.setWidth_eq_append (by decide)).symm

end Sys2Proof.Machine
end

section
/-! The bit-by-bit rules together. -/

namespace Sys2Proof.Machine

/-- Settles O23, rule by rule. -/
theorem bitRules : Obligations.BitRules := by
  unfold Obligations.BitRules
  refine ⟨fun a b c => ⟨shiftLeftPair_getLsbD a b c, shiftRightPair_getLsbD a b c, getLsbD_above_clz a,
      getLsbD_at_clz a, clz_toNat_le a, cpop_toNat a, fun sz => reverseBits_getLsbD sz a,
      carrylessProduct_getLsbD a b,
      fun w n x _ => ⟨fun i hi hbefore hmatch => searchIndex_first hi hbefore hmatch, searchIndex_none⟩,
      fieldMask_getLsbD,
      fun mb me i hle hme hi => ⟨fieldUnsigned_getLsbD a i hle hme, fieldSigned_getLsbD a i hle hme hi⟩,
      fun i hi j hj => ⟨matrixOr_iff a b i j, foldl_xor_eq_testBit _ 8, fun p => matrixBit_ofMatrix p i j hi hj⟩,
      byteMap_extractLsb' a b c,
      fun mb me hle hme => ⟨fieldFirstOne_none a hle hme, fun i => fieldFirstOne_highest a hme⟩,
      fun g free => ⟨fun hle => ?field, fun hlt => ?noField⟩,
      fun g free h l h' l' hh hl hh' hl' ha hb => ⟨fun h9 l9 h9' l9' => ?digits, fun habove => ?noDigits⟩,
      bcdDigits_digit, blendColors_above a b c, fun p hp => ?blend⟩,
    shiftAmount_eq, fun n v i _ hi => oext_getLsbD v i hi, fun p => rfl⟩
  case field => rw [onField_eq, if_neg (Nat.not_lt.mpr hle)]
  case noField => rw [onField_eq, if_pos hlt]
  case digits => rw [onBcd_eq g free hl hl' ha hb, if_pos ⟨⟨h9, l9⟩, h9', l9'⟩]
  case noDigits => rw [onBcd_eq g free hl hl' ha hb, if_neg (by omega)]
  case blend =>
    rw [blendColors_component a b c p hp, blendComponent_toNat, BitVec.extractLsb'_toNat _ _ c, Nat.shiftRight_zero]

end Sys2Proof.Machine
end

section
/-! Bit-field instructions, register moves and BCD arithmetic, instruction by instruction. -/

namespace Sys2Proof.Machine

/-- Settles O24, instruction by instruction: the bit-field instructions and the moves run their rule on the field, BCD
arithmetic its rule on the digits, and each takes the free value of its element where the field or a digit is none. -/
theorem bitFieldsAndBcd : Obligations.BitFieldsAndBcd := by
  unfold Obligations.BitFieldsAndBcd
  exact ⟨fun f => computes_free (.bfalign f) _ _ _ (fun _ => rfl) rfl,
    fun f => computes_free (.bfffo f) _ _ _ (fun _ => rfl) rfl,
    fun f => computes_free (.bfextu f) _ _ _ (fun _ => rfl) rfl,
    fun f => computes_free (.bfext f) _ _ _ (fun _ => rfl) rfl,
    fun f => computes_free (.andm f) _ _ _ (fun _ => rfl) rfl,
    fun f => computes_free (.bfset f) _ _ _ (fun _ => rfl) rfl,
    fun f => computes_free (.bfchg f) _ _ _ (fun _ => rfl) rfl,
    fun f => computes_free (.bfclr f) _ _ _ (fun _ => rfl) rfl,
    fun f => computes_free (.com f) _ _ _ (fun _ => rfl) rfl,
    fun f => computes_free (.mov f) _ _ _ (fun _ => rfl) rfl,
    fun f => computes_free (.movsxb f) _ _ _ (fun _ => rfl) rfl,
    fun f => computes_free (.movsxw f) _ _ _ (fun _ => rfl) rfl,
    fun f => computes_free (.movsxt f) _ _ _ (fun _ => rfl) rfl,
    fun f => computes_free (.movzxb f) _ _ _ (fun _ => rfl) rfl,
    fun f => computes_free (.movzxw f) _ _ _ (fun _ => rfl) rfl,
    fun f => computes_free (.movzxt f) _ _ _ (fun _ => rfl) rfl,
    fun f => computes_free (.bcdadd f) _ _ _ (fun _ => rfl) rfl,
    fun f => computes_free (.bcdsub f) _ _ _ (fun _ => rfl) rfl,
    fun f => computes_free (.bcdmul f) _ _ _ (fun _ => rfl) rfl⟩

end Sys2Proof.Machine
end

section
/-! Decimal floating-point instructions, instruction by instruction. -/

namespace Sys2Proof.Machine

/-- Settles O31, instruction by instruction: each runs its operation on the open decimal format through the one rule that
commits a floating-point result, in the dynamic mode or in that of its Rm3 field, and records its own word where it
takes FLT. -/
theorem decimalFloat : Obligations.DecimalFloat := by
  unfold Obligations.DecimalFloat
  exact ⟨⟨fun f => computes_fp (.dftoi f) _ _ _ _ (fun _ => rfl) rfl,
      fun f => computes_fp (.itodf f) _ _ _ _ (fun _ => rfl) rfl,
      fun f => computes_fp (.dfadd f) _ _ _ _ (fun _ => rfl) rfl,
      fun f => computes_fp (.dfaddL f) _ _ _ _ (fun _ => rfl) rfl,
      fun f => computes_fp (.dfsub f) _ _ _ _ (fun _ => rfl) rfl,
      fun f => computes_fp (.dfsubL f) _ _ _ _ (fun _ => rfl) rfl,
      fun f => computes_fp (.dfmul f) _ _ _ _ (fun _ => rfl) rfl,
      fun f => computes_fp (.dfmulL f) _ _ _ _ (fun _ => rfl) rfl,
      fun f => computes_fp (.dfdiv f) _ _ _ _ (fun _ => rfl) rfl,
      fun f => computes_fp (.dfdivL f) _ _ _ _ (fun _ => rfl) rfl,
      fun f => computes_fp (.dfcmp f) _ _ _ _ (fun _ => rfl) rfl,
      fun f => computes_fp (.dfcmpb f) _ _ _ _ (fun _ => rfl) rfl,
      fun f => computes_fp (.dfma f) _ _ _ _ (fun _ => rfl) rfl,
      fun f => computes_fp (.dfmaL f) _ _ _ _ (fun _ => rfl) rfl,
      fun f => computes_fp (.dfms f) _ _ _ _ (fun _ => rfl) rfl,
      fun f => computes_fp (.dfmsL f) _ _ _ _ (fun _ => rfl) rfl,
      fun f => computes_fp (.dfnma f) _ _ _ _ (fun _ => rfl) rfl,
      fun f => computes_fp (.dfnmaL f) _ _ _ _ (fun _ => rfl) rfl,
      fun f => computes_fp (.dfnms f) _ _ _ _ (fun _ => rfl) rfl,
      fun f => computes_fp (.dfnmsL f) _ _ _ _ (fun _ => rfl) rfl⟩,
    fun _ => rfl⟩

end Sys2Proof.Machine
end

section
/-! Indexed and conditional stores, instruction by instruction. -/

namespace Sys2Proof.Machine

/-! ### Indexed stores -/

/-- Settles O37, from what an indexed store does in its scalar and in its vector form: the four differ in their number of
bytes alone. -/
theorem indexedStores : Obligations.IndexedStores := by
  unfold Obligations.IndexedStores
  refine ⟨fun f s mask x => ⟨elementIndexValue_vec f mask x s, elementIndexValue_scalar f mask x s⟩,
    fun f s x => rfl, mem_enabledList_iff, elementAddress_setVstep, ?_, ?_, ?_, ?_⟩
  all_goals exact fun f => storesIndexed_of_storeLSX _ _ f _ (by decide) (by decide) rfl fun _ => rfl

/-! ### A plain store -/

/-- A plain store answers with the bytes stored (20_memory R143). -/
theorem State.memWrite_plain_storedAt {s : State} {seg : Nat} {base va : Word} {n : Nat} (v : Word) (hn : 0 < n)
    (hn2 : n < 2 ^ 64) (hw : Memory.wf s.mem = true) (hp : s.Plain .store seg base va n) :
    ∃ t, s.memWrite seg va n v = .ok () t ∧ StoredAt s s t (linearAddress base va) n v := by
  obtain ⟨r, hr, htetras⟩ := s.memWrite_plain seg base va n v hp hn hw
  exact ⟨_, hr, s.storedAt_storeBytes (linearAddress base va) n v hw hn2 r htetras⟩

namespace StoredAt

variable {s base t : State} {pa v : Word} {n : Nat}

/-- The sequential advance comes on top of what a store leaves. -/
theorem advance (h : StoredAt s base t pa n v) (k : Nat) : StoredAt s (base.advance k) (t.advance k) pa n v := by
  obtain ⟨hbytes, hother, hframe, hstale, htetras⟩ := h
  exact ⟨hbytes, hother, congrArg (fun u => State.advance u k) hframe, hstale.advance k, htetras.advance k⟩

/-- So does the end of the reservation (45 R716). -/
theorem unreserved (h : StoredAt s base t pa n v) :
    StoredAt s { base with resv := none } { t with resv := none } pa n v := by
  obtain ⟨hbytes, hother, hframe, hstale, htetras⟩ := h
  exact ⟨hbytes, hother, congrArg (fun u : State => { u with resv := none }) hframe,
    ⟨hstale.values, hstale.keeps, hstale.replaced, hstale.others⟩, ⟨htetras.keeps, htetras.replaced, htetras.others⟩⟩

end StoredAt

/-! ### Conditional stores -/

namespace State

variable {s : State} {ea : Word} (sel : BitVec 3) (v : Word)

/-- Without a reservation at the address nothing is stored (45 R716). -/
theorem storeConditional_unreserved (h : s.resv ≠ some ea) :
    s.storeConditional sel ea v = .ok () { s with resv := none } := if_neg h

/-- With one the octa is stored, and the reservation ends where the store answers (45 R716). -/
theorem storeConditional_reserved (h : s.resv = some ea) :
    s.storeConditional sel ea v = (s.memWrite sel.toNat ea 8 v).bind fun _ u => .ok () { u with resv := none } :=
  if_pos h

/-- Where no reservation exists at all a conditional store changes nothing (D22). -/
theorem storeConditional_unchanged (ea : Word) (h : s.resv = none) : s.storeConditional sel ea v = .ok () s := by
  have hs : { s with resv := none } = s := by rw [← h]
  rw [storeConditional_unreserved sel v (by simp [h]), hs]

end State

/-- What a conditional store does, in one of its scalar forms (45 R716). -/
theorem storesConditionally_of_finishSeq (i : Instr) (s : State) (sel : BitVec 3) (va v : Word)
    (h : exec i s = finishSeq (Instr.ctx i) (s.storeConditional sel va v)) : StoresConditionally i s sel va v := by
  refine ⟨fun hno => ?unreserved, fun hat => ?reserved⟩
  case unreserved => rw [h, State.storeConditional_unreserved sel v hno]; rfl
  case reserved =>
    rw [State.storeConditional_reserved sel v hat] at h
    have hanswer : ∀ t, s.memWrite sel.toNat va 8 v = .ok () t →
        exec i s = .next ({ t with resv := none }.advance i.size) := fun t ht => by rw [h, ht]; rfl
    refine ⟨fun base hw hp => ?_, hanswer, fun e t ht => by rw [h, ht]; rfl⟩
    obtain ⟨t, ht, hstored⟩ := State.memWrite_plain_storedAt v (by decide) (by decide) hw hp
    exact ⟨_, hanswer t ht, hstored.unreserved.advance i.size⟩

/-- The store-register long form acts on its scalar operand (45 R664). -/
theorem moveLSR_scalar (c : Ctx) (f : Fmt.LSR) (act : BitVec 3 → Word → Word → State → Res Unit) {s : State} {b : Word}
    (hb : (opnd f.tb f.rb).scalar s = some b) : moveLSR c f act s = finishSeq c (act f.sel (addressLSR f s) b s) := by
  rw [moveLSR, hb]

/-- The store-register long form refuses a vector register (93 U30). -/
theorem moveLSR_refused (c : Ctx) (f : Fmt.LSR) (act : BitVec 3 → Word → Word → State → Res Unit) {s : State}
    (hb : (opnd f.tb f.rb).scalar s = none) : moveLSR c f act s = .refused .vectorOperandInScalar := by
  rw [moveLSR, hb]
  rfl

/-- A scalar indexed store with a scalar index makes its one move. -/
theorem storeLSX_scalar (c : Ctx) (f : Fmt.LSX) (act : Move) {s : State} {b : Word} (hv : f.v = 0#1)
    (hb : (opnd f.tb f.rb).scalar s = some b) :
    storeLSX c f act s = finishSeq c (act none f.rt f.sel (addressLSX f s b) s) := by
  rw [storeLSX, indexedMove, if_neg (by rw [hv]; decide), hb]

/-- A scalar indexed store with a vector register as index is refused (93 U30). -/
theorem storeLSX_refused (c : Ctx) (f : Fmt.LSX) (act : Move) {s : State} (hv : f.v = 0#1)
    (hb : (opnd f.tb f.rb).scalar s = none) : storeLSX c f act s = .refused .vectorOperandInScalar := by
  rw [storeLSX, indexedMove, if_neg (by rw [hv]; decide), hb]
  rfl

/-- A vector indexed store whose moves change nothing leaves D_VSTEP 0 and goes on (48 R884). -/
theorem storeLSX_vector_unchanged (c : Ctx) (f : Fmt.LSX) (act : Move) {s : State} (hv : f.v = 1#1)
    (hvl : s.pending.vl = []) (hact : ∀ x ea, act (some x) f.rt f.sel ea s = .ok () s) :
    storeLSX c f act s = .next (s.looped.advance c.size) := by
  rw [storeLSX, indexedMove, if_pos hv, vectorLoop_unchanged hvl (fun y _ => ?move) (fun _ => ?disabled), finishSeq_ok]
  case move => exact hact y _
  case disabled => rfl

/-- STOCL is the conditional store of the store-register long form (45 R717). -/
theorem exec_stocl (f : Fmt.LSR) (s : State) : exec (.stocl f) s =
    moveLSR (Instr.ctx (.stocl f)) f (fun sel ea b u => u.storeConditional sel ea b) s := rfl

/-- Settles O38, from what one conditional store does: STOC, STOCL and scalar STOCX make one, at the address of their
format; vector STOCX makes one per enabled element, each without effect where no reservation exists. -/
theorem conditionalStores : Obligations.ConditionalStores := by
  unfold Obligations.ConditionalStores
  refine ⟨fun f s => ?stoc, fun f s => ?stocl, fun f s => ?stocx⟩
  case stoc => exact storesConditionally_of_finishSeq _ _ _ _ _ rfl
  case stocl =>
    rw [exec_stocl]
    exact ⟨fun b hb => storesConditionally_of_finishSeq _ s _ _ b ((exec_stocl f s).trans (moveLSR_scalar _ f _ hb)),
      moveLSR_refused _ f _⟩
  case stocx =>
    exact ⟨fun hv b hb => storesConditionally_of_finishSeq (.stocx f) s _ _ _
        (storeLSX_scalar _ f conditionalMove8 hv hb),
      fun hv hb => storeLSX_refused _ f conditionalMove8 hv hb,
      fun hv hvl hno => storeLSX_vector_unchanged (Instr.ctx (.stocx f)) f conditionalMove8 hv hvl
        fun _ ea => State.storeConditional_unchanged f.sel _ ea hno⟩

end Sys2Proof.Machine
end

section
/-! Branches: what a branch does in each of its cases, and the instructions that branch. -/

namespace Sys2Proof.Machine

/-! ### Targets and the loop counter -/

/-- The Ca values that leave the selector unchanged (46 R745). -/
theorem nearBase_iff (ca : BitVec 3) : nearBase ca = true ↔ ca = 0#3 ∨ ca = 7#3 := by
  unfold nearBase
  rw [Bool.or_eq_true, beq_iff_eq, beq_iff_eq]

/-- The target with ip as the base of Ca = 7 (46 R744, R745). -/
theorem branchTarget_eq (s : State) (ca : BitVec 3) (disp : Word) : branchTarget s ca disp =
    ⟨(if ca = 7#3 then s.ip else (s.codeAddr ca).off) + disp,
      if ca = 0#3 ∨ ca = 7#3 then s.cs else (s.codeAddr ca).sel⟩ := by
  have hbase : (if ca = 7#3 then s.ip else (s.codeAddr ca).off) = (s.codeAddr ca).off := by
    split
    case isTrue h => rw [h]; rfl
    case isFalse => rfl
  unfold branchTarget
  simp only [nearBase_iff, hbase]

/-- A counting branch takes 1 from LC, modulo 2^64 (46 R780). -/
theorem State.countLoop_lc_toNat (s : State) :
    (s.countLoop true).lc.toNat = (s.lc.toNat + (2 ^ 64 - 1)) % 2 ^ 64 := by
  rw [State.countLoop, if_pos rfl, State.setLc_lc, BitVec.toNat_sub, Nat.add_comm]
  rfl

/-! ### The cases of a branch -/

section
variable (c : Ctx) {lk : BitVec 2} {ca : BitVec 3} {disp : Word} {dec cond : Bool} {s : State}

/-- Lk = 3 is refused (46 R746, 93 U38). -/
theorem branch_reserved (hl : lk = 3#2) : branch c lk ca disp dec cond s = .refused .reservedLink := if_pos hl

/-- A branch that is not taken goes on, the link register and LC written (46 R746, R780). -/
theorem branch_not_taken (hl : lk ≠ 3#2) (ht : branchTaken s dec cond = false) :
    branch c lk ca disp dec cond s = .next ((s.linked c.size lk dec).advance c.size) := by
  unfold branch
  rw [if_neg hl, ht]
  rfl

/-- A taken branch to its own address raises BT (46 R748). -/
theorem branch_self (hl : lk ≠ 3#2) (ht : branchTaken s dec cond = true)
    (hself : branchTarget s ca disp = s.codeAddr 7) :
    branch c lk ca disp dec cond s = s.raise c (.plain causeBT) := by
  unfold branch
  rw [if_neg hl, ht]
  exact if_pos hself

/-- A taken branch in its own segment sets ip (46 R744, R745). -/
theorem branch_near (hl : lk ≠ 3#2) (ht : branchTaken s dec cond = true)
    (hself : branchTarget s ca disp ≠ s.codeAddr 7) (hca : ca = 0#3 ∨ ca = 7#3) :
    branch c lk ca disp dec cond s = .next ((s.linked c.size lk dec).setIp (branchTarget s ca disp).off) := by
  unfold branch
  rw [if_neg hl, ht]
  exact (if_neg hself).trans (if_pos ((nearBase_iff ca).2 hca))

/-- A taken branch through another code address is a far jump from the state with link register and LC written
(46 R745). -/
theorem branch_far (hl : lk ≠ 3#2) (ht : branchTaken s dec cond = true)
    (hself : branchTarget s ca disp ≠ s.codeAddr 7) (hca : ¬(ca = 0#3 ∨ ca = 7#3)) :
    branch c lk ca disp dec cond s = finish c ((s.linked c.size lk dec).jumpFar (branchTarget s ca disp)) := by
  unfold branch
  rw [if_neg hl, ht]
  exact (if_neg hself).trans (if_neg fun h => hca ((nearBase_iff ca).1 h))

end

/-- An instruction that runs as a branch has the five cases of one (46 R744 to R748, R780). -/
theorem branchesAt_of_branch {i : Instr} {s : State} {lk : BitVec 2} {ca : BitVec 3} {disp : Word} {dec cond : Bool}
    (h : exec i s = branch (Instr.ctx i) lk ca disp dec cond s) : BranchesAt i s lk ca disp dec cond := by
  unfold BranchesAt
  intro taken base target
  have htarget : target = branchTarget s ca disp := (branchTarget_eq s ca disp).symm
  rw [h, htarget]
  refine ⟨branch_reserved _, fun hl => ⟨branch_not_taken _ hl, branch_self _ hl, branch_near _ hl,
    fun ht hself h0 h7 d u hu => ?far⟩⟩
  case far =>
    rw [branch_far _ hl ht hself (not_or.2 ⟨h0, h7⟩)]
    exact congrArg (finish _) (State.jumpFar_ok _ _ d u hu)

/-! ### Conditional branches -/

/-- The bit that BBC tests is B modulo 64 (46 R750). -/
theorem testBitClear_eq (a b : Word) : testBitClear a b = !a.getLsbD (b.toNat % 64) :=
  congrArg (fun n => !a.getLsbD n) (shiftAmount_eq b)

/-- The bit that BBS tests is B modulo 64 (46 R751). -/
theorem testBitSet_eq (a b : Word) : testBitSet a b = a.getLsbD (b.toNat % 64) :=
  congrArg a.getLsbD (shiftAmount_eq b)

/-- BNE tests that A and B differ, BNEZ that A and 0 do (46 R753, R766). -/
theorem testNotEqual_eq (a b : Word) : testNotEqual a b = decide (a ≠ b) := (decide_not (p := a = b)).symm

/-- A conditional branch with a scalar operand branches where its test holds (46 R741). -/
theorem branchesAt_of_branchBR {i : Instr} {f : Fmt.BR} {s : State} {dec cond : Bool} {test : Word → Word → Bool}
    {b : Word} (h : exec i s = branchBR (Instr.ctx i) f dec test s) (hb : (opnd f.tb f.rb).scalar s = some b)
    (hc : test (s.reg f.ra) b = cond) : BranchesAt i s f.lk f.ca (sext (f.target ++ f.tgt)) dec cond := by
  apply branchesAt_of_branch
  rw [h, branchBR, hb, ← hc]
  rfl

/-- A conditional branch with a vector register as operand is refused (93 U30). -/
theorem branchBR_refused (c : Ctx) {f : Fmt.BR} (dec : Bool) (test : Word → Word → Bool) {s : State}
    (hb : (opnd f.tb f.rb).scalar s = none) : branchBR c f dec test s = .refused .vectorOperandInScalar := by
  rw [branchBR, hb]

/-- A compare with zero branches where its test holds (46 R743). -/
theorem branchesAt_of_branchBZ {i : Instr} {f : Fmt.BZ} {s : State} {cond : Bool} {test : Word → Bool}
    (h : exec i s = branchBZ (Instr.ctx i) f test s) (hc : test (s.reg f.ra) = cond) :
    BranchesAt i s f.lk f.ca (sext (f.tgtHi ++ f.tgtLo)) false cond := by
  apply branchesAt_of_branch
  rw [h, branchBZ, hc]
  rfl

/-- Settles O45: each instruction runs as the one branch, under its own condition. -/
theorem branches : Obligations.Branches := by
  unfold Obligations.Branches
  refine ⟨⟨fun f s => ⟨fun b hb => ?conditional, fun hb => ?refused⟩, fun f s => ?zero, fun f s => ?jump⟩,
    fun s => ⟨rfl, s.countLoop_lc_toNat, rfl⟩⟩
  case conditional =>
    exact ⟨branchesAt_of_branchBR rfl hb (testBitClear_eq _ b),
      branchesAt_of_branchBR rfl hb (testBitSet_eq _ b),
      branchesAt_of_branchBR rfl hb (test := testEqual) rfl,
      branchesAt_of_branchBR rfl hb (testNotEqual_eq _ b),
      branchesAt_of_branchBR rfl hb (test := testLess) rfl,
      branchesAt_of_branchBR rfl hb (test := testGreaterEqual) rfl,
      branchesAt_of_branchBR rfl hb (test := testLessEqual) rfl,
      branchesAt_of_branchBR rfl hb (test := testGreater) rfl,
      branchesAt_of_branchBR rfl hb (test := testBelow) rfl,
      branchesAt_of_branchBR rfl hb (test := testAboveEqual) rfl,
      branchesAt_of_branchBR rfl hb (test := testBelowEqual) rfl,
      branchesAt_of_branchBR rfl hb (test := testAbove) rfl,
      branchesAt_of_branchBR rfl hb (testBitClear_eq _ b),
      branchesAt_of_branchBR rfl hb (testBitSet_eq _ b),
      branchesAt_of_branchBR rfl hb (test := testEqual) rfl,
      branchesAt_of_branchBR rfl hb (testNotEqual_eq _ b),
      branchesAt_of_branchBR rfl hb (test := testLess) rfl,
      branchesAt_of_branchBR rfl hb (test := testGreaterEqual) rfl,
      branchesAt_of_branchBR rfl hb (test := testLessEqual) rfl,
      branchesAt_of_branchBR rfl hb (test := testGreater) rfl,
      branchesAt_of_branchBR rfl hb (test := testBelow) rfl,
      branchesAt_of_branchBR rfl hb (test := testAboveEqual) rfl,
      branchesAt_of_branchBR rfl hb (test := testBelowEqual) rfl,
      branchesAt_of_branchBR rfl hb (test := testAbove) rfl⟩
  case refused =>
    have refused {c : Ctx} {dec : Bool} {test : Word → Word → Bool} :
        branchBR c f dec test s = .refused .vectorOperandInScalar := branchBR_refused c dec test hb
    simp only [List.forall_mem_cons]
    exact ⟨refused, refused, refused, refused, refused, refused, refused, refused, refused, refused, refused, refused,
      refused, refused, refused, refused, refused, refused, refused, refused, refused, refused, refused, refused,
      List.forall_mem_nil _⟩
  case zero =>
    exact ⟨branchesAt_of_branchBZ rfl (test := (· == 0)) rfl,
      branchesAt_of_branchBZ rfl (test := (· != 0)) (testNotEqual_eq _ 0)⟩
  case jump =>
    exact ⟨branchesAt_of_branch rfl, branchesAt_of_branch rfl, branchesAt_of_branch rfl, branchesAt_of_branch rfl,
      branchesAt_of_branch rfl⟩

end Sys2Proof.Machine
end

section
/-! System instructions that MACHINE_ONLY names, and the hardware queues. -/

namespace Sys2Proof.Machine

/-! ### The MACHINE_ONLY check -/

/-- Below machine mode an instruction that MACHINE_ONLY names raises PRIV instead of running (47 R821). -/
theorem State.machineOnly_of_named {s : State} {op : Config.SysOp} (hm : s.om ≠ 3#2) (hop : op ∈ s.config.machineOnly)
    (r : Res Unit) : s.machineOnly op r = .trap (.plain causePRIV) s := if_pos ⟨hop, hm⟩

/-- The check stands before the sequential advance (47 R821). -/
theorem finishSeq_machineOnly_of_named {s : State} {op : Config.SysOp} (hm : s.om ≠ 3#2)
    (hop : op ∈ s.config.machineOnly) (c : Ctx) (r : Res Unit) :
    finishSeq c (s.machineOnly op r) = s.raise c (.plain causePRIV) := by
  rw [State.machineOnly_of_named hm hop, finishSeq_trap]

/-- Settles O60: each of the instructions makes the check before anything else. -/
theorem machineOnly : Obligations.MachineOnly := by
  unfold Obligations.MachineOnly
  intro s hm
  have named {op : Config.SysOp} (c : Ctx) (r : Res Unit) (hop : op ∈ s.config.machineOnly) :
      finishSeq c (s.machineOnly op r) = s.raise c (.plain causePRIV) := finishSeq_machineOnly_of_named hm hop c r
  exact ⟨fun f => ⟨named _ _, named _ _, named _ _, named _ _, named _ _, named _ _, named _ _, named _ _, named _ _,
    fun hop => if_pos ⟨hop, hm⟩, fun hop => if_pos ⟨hop, hm⟩⟩,
    fun f => named _ _, fun f => named _ _, fun f hop => if_pos ⟨hop, hm⟩⟩

/-- Where the check passes, an instruction with a scalar operand B does its action (47 R820). -/
theorem withB_allowed {f : Fmt.OSR2} {s : State} {op : Config.SysOp} {b : Word} (ha : s.allows op)
    (hb : (opnd f.tb f.rb).scalar s = some b) (c : Ctx) (act : Word → State → Res Unit) :
    withB c f op act s = finishSeq c (act b s) := by
  rw [withB, State.machineOnly_of_allows ha, hb]

/-- Where the check passes, a vector register as B is refused (93 U30). -/
theorem withB_refused {f : Fmt.OSR2} {s : State} {op : Config.SysOp} (ha : s.allows op)
    (hb : (opnd f.tb f.rb).scalar s = none) (c : Ctx) (act : Word → State → Res Unit) :
    withB c f op act s = .refused .vectorOperandInScalar := by
  rw [withB, State.machineOnly_of_allows ha, hb]
  rfl

/-! ### Hardware queues -/

/-- The bits of an entry that a width keeps (47 R835). -/
theorem entryBits_getLsbD (n : Nat) (e : BitVec 112) (i : Nat) :
    (entryBits n e).getLsbD i = (decide (i < n) && e.getLsbD i) := by
  have hpower : 1#112 <<< n = BitVec.ofNat 112 (2 ^ n) := BitVec.eq_of_toNat_eq (BitVec.toNat_twoPow 112 n)
  have hmask : (1#112 <<< n) - 1 = BitVec.ofNat 112 (2 ^ n - 1) := by
    rw [hpower]
    exact BitVec.ofNat_sub_ofNat_of_le _ 1 (by decide) Nat.one_le_two_pow
  rw [entryBits, hmask, BitVec.getLsbD_and, BitVec.getLsbD_ofNat, Nat.testBit_two_pow_sub_one]
  by_cases hi : i < 112
  · rw [decide_eq_true hi, Bool.true_and, Bool.and_comm]
  · rw [BitVec.getLsbD_of_ge e i (by omega), Bool.false_and, Bool.and_false]

/-- The entry that a push appends: the low bits of A in the queue's width (47 R836). -/
theorem pushed_getLsbD (width : Nat) (a : Word) (i : Nat) :
    (entryBits (min 64 width) (a.setWidth 112)).getLsbD i = (decide (i < width) && a.getLsbD i) := by
  rw [entryBits_getLsbD, BitVec.getLsbD_setWidth]
  by_cases hi : i < 64
  · rw [decide_eq_true (show i < 112 by omega), Bool.true_and,
      decide_eq_decide.mpr (show i < min 64 width ↔ i < width by omega)]
  · rw [BitVec.getLsbD_of_ge a i (by omega), Bool.and_false, Bool.and_false, Bool.and_false]

namespace State

variable (s : State) (q : BitVec 4)

/-- A push to a queue with room (47 R835, R836). -/
theorem push_room (a : Word) (h : (s.queue q).length < s.config.qdepth.get q.toFin) : s.push q a =
    s.setQueue q (s.queue q ++ [entryBits (min 64 (s.config.qwidth.get q.toFin)) (a.setWidth 112)]) := if_pos h

/-- A push to a full queue leaves some content within its width and depth (47 R835, 93 U40). -/
theorem push_full (a : Word) (h : s.config.qdepth.get q.toFin ≤ (s.queue q).length) :
    ∃ l, s.push q a = (s.setQueue q l).fresh ∧ l.length ≤ s.config.qdepth.get q.toFin ∧
      ∀ e ∈ l, ∀ i, s.config.qwidth.get q.toFin ≤ i → e.getLsbD i = false := by
  refine ⟨_, if_neg (Nat.not_lt.mpr h), ?_, fun e he i hi => ?_⟩
  · rw [List.length_map]
    exact List.length_take_le _ _
  · obtain ⟨x, _, rfl⟩ := List.mem_map.mp he
    rw [entryBits_getLsbD, decide_eq_false (Nat.not_lt.mpr hi), Bool.false_and]

/-- A queue written with its own content. -/
theorem setQueue_self : s.setQueue q (s.queue q) = s := by
  have h : s.queues.set q.toNat (s.queue q) q.isLt = s.queues := Vector.set_getElem_self q.isLt
  unfold setQueue
  rw [h]

/-- The head of an empty queue is a free value (47 R837, 93 U40). -/
theorem queueHead_nil (h : s.queue q = []) : s.queueHead q = s.free 0 := by rw [queueHead, h]

/-- The head of a queue (47 R837). -/
theorem queueHead_cons {e : BitVec 112} {l : List (BitVec 112)} (h : s.queue q = e :: l) :
    s.queueHead q = e.extractLsb' 0 64 := by rw [queueHead, h]

/-- The upper bits of the oldest entry in the status of a queue (47 R839). -/
theorem queueHigh_cons {e : BitVec 112} {l : List (BitVec 112)} (h : s.queue q = e :: l) :
    s.queueHigh q = if s.config.qwidth.get q.toFin ≤ 64 then 0 else e.extractLsb' 64 48 := by rw [queueHigh, h]

/-- The fields of the status of a queue (47 R839). -/
theorem queueStatus_fields : (s.queueStatus q).getLsbD 63 = (s.queue q).isEmpty ∧
    (s.queueStatus q).getLsbD 62 = !(s.queue q).isEmpty ∧
    (s.queueStatus q).extractLsb' 48 14 = BitVec.ofNat 14 (s.queue q).length ∧
    (s.queueStatus q).extractLsb' 0 48 = s.queueHigh q := by
  unfold queueStatus
  generalize BitVec.ofNat 14 (s.queue q).length = count
  generalize s.queueHigh q = high
  refine ⟨?_, ?_, ?_, ?_⟩
  · rw [BitVec.getLsbD_append, if_neg (by decide), BitVec.getLsbD_append, if_neg (by decide), BitVec.getLsbD_append,
      if_neg (by decide)]
    cases (s.queue q).isEmpty <;> rfl
  · rw [BitVec.getLsbD_append, if_neg (by decide), BitVec.getLsbD_append, if_neg (by decide), BitVec.getLsbD_append,
      if_pos (by decide)]
    cases (s.queue q).isEmpty <;> rfl
  · rw [field_high _ _ 48 14 (by omega), field_low _ _ _ 14 (by omega), field_whole]
  · rw [field_low _ _ 0 48 (by omega), field_whole]

end State

/-! The queue instructions as actions on the operand B (47 R836 to R840). -/

theorem exec_pushq (f : Fmt.OSR2) (s : State) : exec (.pushq f) s = withB (Instr.ctx (.pushq f)) f .pushq
    (fun b s1 => .ok () (s1.push (queueNumber b) (s1.reg f.ra))) s := rfl

theorem exec_popq (f : Fmt.OSR2) (s : State) : exec (.popq f) s = withB (Instr.ctx (.popq f)) f .popq
    (fun b s1 => .ok () ((s1.setQueue (queueNumber b) (s1.queue (queueNumber b)).tail).setReg f.rt
      (s1.queueHead (queueNumber b)))) s := rfl

theorem exec_peekq (f : Fmt.OSR2) (s : State) : exec (.peekq f) s = withB (Instr.ctx (.peekq f)) f .peekq
    (fun b s1 => .ok () (s1.setReg f.rt (s1.queueHead (queueNumber b)))) s := rfl

theorem exec_statq (f : Fmt.OSR2) (s : State) : exec (.statq f) s = withB (Instr.ctx (.statq f)) f .statq
    (fun b s1 => .ok () (s1.setReg f.rt (s1.queueStatus (queueNumber b)))) s := rfl

theorem exec_resetq (f : Fmt.OSR2) (s : State) : exec (.resetq f) s = withB (Instr.ctx (.resetq f)) f .resetq
    (fun b s1 => .ok () (s1.setQueue (queueNumber b) [])) s := rfl

/-- Settles O52, by the instruction and the content of its queue. -/
theorem queues : Obligations.Queues := by
  unfold Obligations.Queues
  refine fun f s => ⟨?refused, fun b hb => ?runs⟩
  case refused =>
    simp only [List.forall_mem_cons]
    exact ⟨fun ha hb => (exec_pushq f s).trans (withB_refused ha hb _ _),
      fun ha hb => (exec_popq f s).trans (withB_refused ha hb _ _),
      fun ha hb => (exec_peekq f s).trans (withB_refused ha hb _ _),
      fun ha hb => (exec_statq f s).trans (withB_refused ha hb _ _),
      fun ha hb => (exec_resetq f s).trans (withB_refused ha hb _ _), List.forall_mem_nil _⟩
  case runs =>
    refine ⟨fun ha => ?push, fun ha => ?pop, fun ha => ?peek, fun ha => ?status, fun ha => ?reset⟩
    case push =>
      have hrun := (exec_pushq f s).trans (withB_allowed ha hb _ _)
      refine ⟨fun h => ?_, fun h => ?_⟩
      · rw [s.push_room (queueNumber b) _ h] at hrun
        exact ⟨_, hrun, pushed_getLsbD _ _⟩
      · obtain ⟨l, hl, hdepth, hwidth⟩ := s.push_full (queueNumber b) (s.reg f.ra) h
        rw [hl] at hrun
        exact ⟨l, _, hrun, hdepth, hwidth⟩
    case pop =>
      have hrun := (exec_popq f s).trans (withB_allowed ha hb _ _)
      refine ⟨fun e l (h : s.queue (queueNumber b) = e :: l) => ?_, fun (h : s.queue (queueNumber b) = []) => ?_⟩
      · rw [s.queueHead_cons (queueNumber b) h, h] at hrun
        exact hrun
      · rw [s.queueHead_nil (queueNumber b) h, h, List.tail_nil, ← h, s.setQueue_self] at hrun
        exact hrun
    case peek =>
      have hrun := (exec_peekq f s).trans (withB_allowed ha hb _ _)
      refine ⟨fun e l h => ?_, fun h => ?_⟩
      · rw [s.queueHead_cons (queueNumber b) h] at hrun
        exact hrun
      · rw [s.queueHead_nil (queueNumber b) h] at hrun
        exact hrun
    case status =>
      obtain ⟨hempty, hvalid, hcount, hhigh⟩ := s.queueStatus_fields (queueNumber b)
      exact ⟨_, (exec_statq f s).trans (withB_allowed ha hb _ _), hempty, hvalid, hcount,
        fun e l h => hhigh.trans (s.queueHigh_cons _ h)⟩
    case reset => exact (exec_resetq f s).trans (withB_allowed ha hb _ _)

end Sys2Proof.Machine
end

section
/-! Trap entries with TVEC settled and the traps by instruction: BRK, SYS, INT and PFI. -/

namespace Sys2Proof.Machine

/-! ### Trap entries -/

namespace State

variable (s : State) (t : TrapInfo)

/-- The mode entry that a trap pushes is machine mode (60 R1020 c). -/
theorem saveForTrap_om : (s.saveForTrap t).om = 3#2 := by
  show (s.mode.pmStack.extractLsb' 0 56 ++ trapEntry s t.level).extractLsb' 4 2 = 3#2
  rw [field_low _ _ 4 2 (by omega), trapEntry, field_high _ _ 4 2 (by omega), field_high _ _ _ 2 (by omega),
    field_low _ _ _ 2 (by omega), field_whole]

/-- The mode entry that a trap pushes has the level of the interrupt, or the old one (60 R1020 c). -/
theorem saveForTrap_ipl : (s.saveForTrap t).ipl = t.level.getD s.ipl := by
  show (s.mode.pmStack.extractLsb' 0 56 ++ trapEntry s t.level).extractLsb' 1 3 = _
  rw [field_low _ _ 1 3 (by omega), trapEntry, field_high _ _ 1 3 (by omega), field_low _ _ _ 3 (by omega), field_whole]

/-- The mode entry that a trap pushes masks interrupts (60 R1020 c). -/
theorem saveForTrap_im : (s.saveForTrap t).im = 1#1 := by
  show (s.mode.pmStack.extractLsb' 0 56 ++ trapEntry s t.level).extractLsb' 0 1 = 1#1
  rw [field_low _ _ 0 1 (by omega), trapEntry, field_low _ _ 0 1 (by omega), field_whole]

/-- A trap pushes the mode stack (60 R1020 c). -/
theorem saveForTrap_pushed :
    (s.saveForTrap t).mode.pmStack.extractLsb' 8 56 = s.mode.pmStack.extractLsb' 0 56 := by
  show (s.mode.pmStack.extractLsb' 0 56 ++ trapEntry s t.level).extractLsb' 8 56 = _
  rw [field_high _ _ 8 56 (by omega), field_whole]

variable {s t}

/-- With TVEC settled and the descriptor of the vector's selector loading, a trap entry saves, switches and jumps to the
vector (60 R1020, R1021). -/
theorem takeTrap_settled {d : Descriptor} {u : State} (hs : s.pending.tvec = [])
    (hl : (s.saveForTrap t).loadDescriptor (s.csr.tvec.get 3).sel false = .ok d u) :
    ∃ v, s.takeTrap t = .ok () v ∧ Jumped (s.saveForTrap t) v (vectorOf (s.csr.tvec.get 3) s.om) d := by
  unfold takeTrap
  rw [useTvec_settled s 3 hs]
  exact ⟨_, jumpFar_ok _ _ d u hl, jumped_of_load _ (vectorOf (s.csr.tvec.get 3) s.om) d u hl⟩

end State

/-- The trap entry of the instruction in progress (60 R1004, R1020, R1021). -/
theorem trapsTo_takeTrap (s : State) (t : TrapInfo) : TrapsTo (s.abandonFetch.takeTrap t).outcome s t := by
  refine ⟨rfl, fun d u hs hl => ?_⟩
  obtain ⟨v, hv, hj⟩ := State.takeTrap_settled (s := s.abandonFetch) hs hl
  have kept {α : Type} (p : State → α) := congrArg p hj.frame
  refine ⟨v, congrArg Res.outcome hv, ?_, hj.target, hj.descriptor, kept fun q => q.csr.cause,
    (kept fun q => q.mode.pmStack.extractLsb' 8 56).trans (s.saveForTrap_pushed t),
    (kept State.om).trans (s.saveForTrap_om t), (kept State.im).trans (s.saveForTrap_im t),
    (kept State.ipl).trans (s.saveForTrap_ipl t), kept fun q => q.regs, kept fun q => q.mem⟩
  exact (hj.others 6#3 (by decide)).trans ((s.saveForTrap_codeAddr t 6#3).trans (if_pos rfl))

/-! ### Traps by instruction -/

/-- PFI polls where MACHINE_ONLY does not keep it from this mode (47 R827). -/
theorem execPfi_allowed (f : Fmt.OSR2) (s : State) (ha : s.allows .pfi) :
    execPfi f s = pollInterrupt (Instr.ctx (.pfi f)) f.rt s :=
  if_neg fun ⟨hop, hm⟩ => ha.elim hm fun hn => hn hop

/-- Settles O49: each instruction goes on, or enters the trap at the state it has reached. -/
theorem softwareTraps : Obligations.SoftwareTraps := by
  unfold Obligations.SoftwareTraps
  refine fun s => ⟨fun f => trapsTo_takeTrap s _, fun f => trapsTo_takeTrap s _, fun f h => if_pos h, fun f h => ?int,
    fun f ha => ?pfi⟩
  case int =>
    have hrun : exec (.int f) s = _ := if_neg (BitVec.not_le.mpr h)
    rw [hrun]
    exact trapsTo_takeTrap s _
  case pfi =>
    have hrun : exec (.pfi f) s = _ := execPfi_allowed f s ha
    refine ⟨fun h => hrun.trans (if_pos h), fun h => ?_⟩
    rw [hrun, pollInterrupt, if_neg h]
    exact trapsTo_takeTrap (s.setReg f.rt _) _

end Sys2Proof.Machine
end

section
/-! RTE: what it restores, where it returns to and what it leaves. -/

namespace Sys2Proof.Machine

/-! ### What a return restores -/

/-- The mode stack shifted down, with machine mode and everything masked above (47 R844). -/
theorem popMode_eq (pm : Word) : 0x3F#8 ++ pm.extractLsb' 8 56 = (pm >>> 8) ||| 0x3F00000000000000#64 := by
  rw [show 0x3F00000000000000#64 = 0x3F#8 ++ 0#56 from rfl]
  apply BitVec.eq_of_getLsbD_eq
  intro i hi
  simp only [BitVec.getLsbD_or, BitVec.getLsbD_ushiftRight, BitVec.getLsbD_append, BitVec.getLsbD_extractLsb',
    BitVec.getLsbD_zero]
  by_cases hlow : i < 56
  · rw [if_pos hlow, if_pos hlow, decide_eq_true hlow, Bool.true_and, Bool.or_false]
  · rw [if_neg hlow, if_neg hlow, BitVec.getLsbD_of_ge pm _ (by omega), Bool.false_or]

/-- The handler kind popped (60 R1022). -/
theorem popKind_eq (k : BitVec 8) : 0#1 ++ k.extractLsb' 1 7 = k >>> 1 :=
  (BitVec.ushiftRight_eq_extractLsb'_of_lt (by decide)).symm

/-- The debug bit of M_CR0 cleared (10_state R126). -/
theorem setDebugBit_false (cr0 : Word) : setDebugBit cr0 false = cr0 &&& 0x7FFFFFFFFFFFFFFF#64 := by
  rw [show 0x7FFFFFFFFFFFFFFF#64 = BitVec.ofNat 64 (2 ^ 63 - 1) from rfl]
  apply BitVec.eq_of_getLsbD_eq
  intro i hi
  rw [BitVec.getLsbD_and, BitVec.getLsbD_ofNat, Nat.testBit_two_pow_sub_one, decide_eq_true hi, Bool.true_and,
    setDebugBit, BitVec.getLsbD_append, BitVec.getLsbD_extractLsb']
  by_cases hlow : i < 63
  · rw [if_pos hlow, decide_eq_true hlow, Bool.true_and, Bool.and_true, Nat.zero_add]
  · rw [if_neg hlow, decide_eq_false hlow, Bool.and_false, show BitVec.ofBool false = 0#1 from rfl,
      BitVec.getLsbD_zero]

/-- The fields of M_DBCR after the single-step bit is popped (60 R1024, 10_state R100). -/
theorem popSingleStep_fields (dbcr : Word) : (popSingleStep dbcr).getLsbD 63 = dbcr.getLsbD 55 ∧
    (popSingleStep dbcr).extractLsb' 55 8 = 0#1 ++ dbcr.extractLsb' 56 7 ∧
    (popSingleStep dbcr).extractLsb' 0 55 = dbcr.extractLsb' 0 55 := by
  unfold popSingleStep
  refine ⟨?_, ?_, ?_⟩
  · rw [BitVec.getLsbD_append, if_neg (by decide), BitVec.getLsbD_append, if_neg (by decide), BitVec.getLsbD_append,
      if_neg (by decide), BitVec.getLsbD_extractLsb']
    rfl
  · rw [field_high _ _ 55 8 (by omega), BitVec.append_assoc, BitVec.extractLsb'_cast, field_low _ _ _ 8 (by omega),
      field_whole]
  · rw [field_low _ _ 0 55 (by omega), field_whole]

/-- Semaphore 0 and one more cleared (47 R844). -/
theorem clearSemaphores_getLsbD (w : Word) (k : BitVec 6) (j : Nat) :
    (w &&& ~~~(1#64 ||| 1#64 <<< k.toNat)).getLsbD j = (w.getLsbD j && decide (j ≠ 0) && decide (j ≠ k.toNat)) := by
  have hbits : 1#64 ||| 1#64 <<< k.toNat = BitVec.twoPow 64 0 ||| BitVec.twoPow 64 k.toNat := rfl
  by_cases hj : j < 64
  · rw [hbits, BitVec.getLsbD_and, BitVec.getLsbD_not, BitVec.getLsbD_or, BitVec.getLsbD_twoPow,
      BitVec.getLsbD_twoPow, decide_eq_true hj, decide_eq_true (show 0 < 64 by decide),
      decide_eq_true (show k.toNat < 64 from k.isLt), Bool.true_and, Bool.true_and, Bool.true_and, Bool.not_or,
      ← Bool.and_assoc, decide_not, decide_not, decide_eq_decide.mpr (eq_comm (a := j) (b := 0)),
      decide_eq_decide.mpr (eq_comm (a := j))]
  · rw [BitVec.getLsbD_of_ge _ j (by omega), BitVec.getLsbD_of_ge w j (by omega)]
    rfl

/-! ### The return -/

namespace State

variable {s : State}

/-- A return whose descriptor loads restores and jumps to c6 plus the offset; the old pair of CS is kept for uses before
MEMSB, and what else it changes is what `ReturnKeeps` leaves out (47 R844, 60 R1024, 70_reset R1093). -/
theorem returnFromTrap_of_load (offset : BitVec 12) {k : BitVec 6} {d : Descriptor} {u : State}
    (h : (s.restoreFromTrap k).loadDescriptor (s.codeAddr 6).sel false = .ok d u) :
    ∃ t, s.returnFromTrap offset k = .ok () t ∧
      Jumped (s.restoreFromTrap k) t ⟨(s.codeAddr 6).off + offset.setWidth 64, (s.codeAddr 6).sel⟩ d ∧
      t.pending.sel = notePending s.pending.sel 7 ⟨s.cs, s.csDesc⟩ ⟨(s.codeAddr 6).sel, some d⟩ ∧ s.ReturnKeeps t := by
  refine ⟨_, jumpFar_ok _ ⟨_, _⟩ d u h, jumped_of_load _ ⟨_, _⟩ d u h, ?_⟩
  obtain ⟨n, rfl⟩ := loadDescriptor_frame _ _ false d u h
  exact ⟨rfl, rfl⟩

end State

/-- RTE with a vector register as B is refused (93 U30). -/
theorem execRte_refused (f : Fmt.OSR2) (s : State) (hb : (opnd f.tb f.rb).scalar s = none) :
    execRte f s = .refused .vectorOperandInScalar := by
  unfold execRte withOperandB
  rw [hb]

/-- RTE in user mode (47 R821). -/
theorem execRte_user (f : Fmt.OSR2) (s : State) (b : Word) (hb : (opnd f.tb f.rb).scalar s = some b) (hm : s.om = 0#2) :
    execRte f s = s.raise (Instr.ctx (.rte f)) (.plain causePRIV) := by
  unfold execRte withOperandB
  rw [hb]
  exact if_pos hm

/-- RTE in another mode (47 R844). -/
theorem execRte_return (f : Fmt.OSR2) (s : State) (b : Word) (hb : (opnd f.tb f.rb).scalar s = some b)
    (hm : s.om ≠ 0#2) :
    execRte f s = finish (Instr.ctx (.rte f)) (s.returnFromTrap (f.ra ++ f.rt) (b.extractLsb' 0 6)) := by
  unfold execRte withOperandB
  rw [hb]
  exact if_neg hm

/-- Settles O15, by the operand, the mode and the load of the descriptor. -/
theorem returnFromException : Obligations.ReturnFromException := by
  unfold Obligations.ReturnFromException
  refine fun f s => ⟨execRte_refused f s, fun b hb => ⟨execRte_user f s b hb, fun hm d u hl => ?_⟩⟩
  obtain ⟨t, ht, hj, hpending, hkeeps⟩ := State.returnFromTrap_of_load (f.ra ++ f.rt) hl
  have hrun : exec (.rte f) s = .next t := (execRte_return f s b hb hm).trans (congrArg (finish _) ht)
  have kept {α : Type} (p : State → α) := congrArg p hj.frame
  obtain ⟨hstep, hhistory, hrest⟩ := popSingleStep_fields s.csr.dbcr
  exact ⟨t, hrun, hj.target, hj.descriptor, hj.others,
    (kept fun q => q.mode.pmStack).trans (popMode_eq _),
    (kept fun q => q.csr.dbcr.getLsbD 63).trans hstep, (kept fun q => q.csr.dbcr.extractLsb' 55 8).trans hhistory,
    (kept fun q => q.csr.dbcr.extractLsb' 0 55).trans hrest, kept fun q => q.mode.dbg,
    (kept fun q => q.csr.cr0).trans (setDebugBit_false _), (kept fun q => q.mode.hkind).trans (popKind_eq _),
    fun k => (kept fun q => q.sema.getLsbD k).trans (clearSemaphores_getLsbD s.sema _ k),
    hpending, hkeeps⟩

end Sys2Proof.Machine
end

section
/-! What stands before the fetch: waiting, NMI, maskable interrupts and single step. -/

namespace Sys2Proof.Machine

/-! ### Between instructions -/

/-- With nothing scheduled the core moves (log 5). -/
theorem step_of_unscheduled {s : State} (h : s.env = []) : step s = coreStep s := by
  unfold step nextMove
  rw [h]

/-- A request is recognised above IPL, with neither IM nor di_count holding it off (60 R1031, R1033). -/
theorem State.recognised_iff (s : State) : s.recognised = true ↔
    s.inputs.irqLevel ≠ 0#3 ∧ s.im = 0#1 ∧ s.ipl < s.inputs.irqLevel ∧ s.mode.diCount = 0#3 := by
  simp only [State.recognised, Bool.and_eq_true, bne_iff_ne, beq_iff_eq, decide_eq_true_eq, and_assoc]

/-- A request that is withdrawn, masked, not above IPL or held off is not recognised (60 R1031, R1033). -/
theorem State.not_recognised (s : State) (h : s.inputs.irqLevel = 0#3 ∨ s.im = 1#1 ∨ s.inputs.irqLevel ≤ s.ipl ∨
    s.mode.diCount ≠ 0#3) : s.recognised = false := by
  refine eq_false_of_ne_true fun hr => ?_
  obtain ⟨hlevel, hmask, habove, hcount⟩ := s.recognised_iff.mp hr
  rcases h with h | h | h | h
  · exact hlevel h
  · rw [hmask] at h
    cases h
  · exact absurd habove (BitVec.not_lt.mpr h)
  · exact h hcount

/-- A core that waits without a request stays as it is (47 R829). -/
theorem State.waitStep_idle {s : State} (hi : s.inputs.irqLevel = 0#3) (hn : s.inputs.nmi = false) :
    s.waitStep = .next s := by
  simp [State.waitStep, State.requested, hi, hn]

/-- A request ends the wait (47 R829, 60 R1036). -/
theorem State.waitStep_requested {s : State} (h : s.inputs.irqLevel ≠ 0#3 ∨ s.inputs.nmi = true) :
    s.waitStep = .next (State.advance { s with mode := { s.mode with waiting := false } } 2) := by
  refine if_pos ?_
  rwa [State.requested, Bool.or_eq_true, bne_iff_ne]

/-- Settles O12, in the order of the step of the core. -/
theorem betweenInstructions : Obligations.BetweenInstructions := by
  unfold Obligations.BetweenInstructions
  intro s henv
  rw [step_of_unscheduled henv]
  refine ⟨fun hw hi hn => ?_, fun hw h => ?_, fun hw hn => ?_, fun hw hn hi hm hl hd => ?_, s.not_recognised,
    fun hw hn hr hs => ?_⟩
  · exact (if_pos hw).trans (State.waitStep_idle hi hn)
  · exact (if_pos hw).trans (State.waitStep_requested h)
  · simp only [coreStep, hw, hn, Bool.false_eq_true, if_false, if_true]
    rfl
  · have hr := s.recognised_iff.mpr ⟨hi, hm, hl, hd⟩
    simp only [coreStep, hw, hn, hr, Bool.false_eq_true, if_false, if_true]
    rfl
  · simp only [coreStep, hw, hn, hr, hs, Bool.false_eq_true, if_false, if_true]
    rfl

end Sys2Proof.Machine
end

section
/-! The mode stack: the operations that keep it, the trap entry that pushes it, and what each instruction run in user
mode can do to it. -/

namespace Sys2Proof.Machine

/-! ### What keeps the mode stack -/

/-- `t` has the mode stack of `s`. -/
def SameStack (s t : State) : Prop := t.mode.pmStack = s.mode.pmStack

namespace SameStack

variable {s t u : State}

theorem refl (s : State) : SameStack s s := rfl

theorem trans (h : SameStack s t) (k : SameStack t u) : SameStack s u := Eq.trans k h

/-- Nothing but the mode holds the mode stack. -/
theorem of_mode (h : t.mode = s.mode) : SameStack s t := congrArg Mode.pmStack h

/-- A load or a fetch keeps the mode stack. -/
theorem of_touched (h : Touched s t) : SameStack s t :=
  h.keeps (fun x => x.mode.pmStack) fun _ _ _ _ _ _ _ => rfl

/-- A store keeps the mode stack. -/
theorem of_stored (h : Stored s t) : SameStack s t :=
  h.frame.keeps (fun x => x.mode.pmStack) fun _ _ _ _ _ _ _ => rfl

end SameStack

/-- What an operation leaves, weakened. -/
theorem Res.Leaves.imp {α : Type} {P Q : State → Prop} {r : Res α} (h : r.Leaves P) (hPQ : ∀ t, P t → Q t) :
    r.Leaves Q := by
  cases r with
  | ok _ t => exact hPQ t h
  | trap _ t => exact hPQ t h
  | stop => trivial

/-- Two operations that keep the mode stack, in sequence. -/
theorem Res.Leaves.bind_stack {α β : Type} {s : State} {r : Res α} {f : α → State → Res β}
    (h : r.Leaves (SameStack s)) (hf : ∀ a t, (f a t).Leaves (SameStack t)) : (r.bind f).Leaves (SameStack s) :=
  Res.leaves_bind h (fun _ k => k) fun a t k => (hf a t).imp fun _ => k.trans

/-- A loop whose elements keep the mode stack keeps it. -/
theorem elementLoop_keepsStack {mask : Word} {act : Nat → State → Res Unit} {off : Nat → State → State}
    (hact : ∀ x t, (act x t).Leaves (SameStack t)) (hoff : ∀ x t, SameStack t (off x t)) (n x : Nat) (s : State) :
    (elementLoop mask act off n x s).Leaves (SameStack s) := by
  induction n generalizing x s with
  | zero => exact .refl s
  | succ n ih =>
    rw [elementLoop_succ]
    split
    · have h := hact x s
      generalize act x s = r at h
      cases r with
      | ok _ t => exact (ih (x + 1) t).imp fun _ => h.trans
      | trap e t => exact h
      | stop => trivial
    · exact (ih (x + 1) (off x s)).imp fun _ => (hoff x s).trans

namespace State

/-- A dependent use keeps the mode stack. -/
theorem useFrom_keepsStack {α : Type} (s : State) (olds : List α) (new : α) : SameStack s (s.useFrom olds new).2 :=
  .of_touched (s.useFrom_touched olds new)

/-- A vector instruction whose elements keep the mode stack keeps it. -/
theorem vectorLoop_keepsStack (s : State) (m : BitVec 3) {act : Nat → State → Res Unit}
    {off : Nat → State → State} (hact : ∀ x t, (act x t).Leaves (SameStack t)) (hoff : ∀ x t, SameStack t (off x t)) :
    (s.vectorLoop m act off).Leaves (SameStack s) :=
  Res.Leaves.bind_stack ((elementLoop_keepsStack hact hoff _ _ _).imp fun _ => (s.useFrom_keepsStack _ _).trans)
    fun _ t => .refl t

/-- A loop over every element keeps the mode stack where its elements do. -/
theorem everyElement_keepsStack (s : State) {act : Nat → State → State} (hact : ∀ x t, SameStack t (act x t)) :
    (s.everyElement act).Leaves (SameStack s) :=
  have hloop := elementLoop_keepsStack (act := fun x t => .ok () (act x t)) hact (fun _ t => .refl t) _ _ _
  Res.Leaves.bind_stack (hloop.imp fun _ => (s.useFrom_keepsStack _ _).trans) fun _ t => .refl t

end State

/-- A register write keeps the mode stack. -/
theorem setReg_keepsStack (s : State) (n : RegNum) (w : Word) : SameStack s (s.setReg n w) :=
  .of_mode (s.setReg_mode n w)

/-- A write of a vector element keeps the mode stack. -/
theorem setVec_keepsStack (s : State) (n : RegNum) (x : Nat) (w : Word) : SameStack s (s.setVec n x w) :=
  .of_mode (s.setVec_mode n x w)

/-- A disabled element keeps the mode stack. -/
theorem zeroing_keepsStack (z : BitVec 1) (rt : RegNum) (x : Nat) (s : State) : SameStack s (zeroing z rt x s) := by
  unfold zeroing
  split
  · exact setVec_keepsStack s rt x 0
  · exact .refl s

/-! ### Far jumps and descriptor loads -/

/-- A descriptor load keeps the mode stack. -/
theorem State.loadDescriptor_keepsStack (s : State) (sel : Selector) (system : Bool) :
    (s.loadDescriptor sel system).Leaves (SameStack s) := by
  cases h : s.loadDescriptor sel system with
  | ok d u =>
    obtain ⟨k, rfl⟩ := s.loadDescriptor_frame sel system d u h
    exact .refl s
  | trap e u => exact absurd h (s.loadDescriptor_trap sel system e u)
  | stop => trivial

/-- A write of a selector register keeps the mode stack. -/
theorem State.putSelector_keepsStack (s : State) (n : Nat) (r : SegReg) : SameStack s (s.putSelector n r) := by
  unfold State.putSelector
  dsimp only
  split
  · exact .refl s
  · split
    · exact .refl s
    · split <;> exact .refl s

/-- A far jump keeps the mode stack. -/
theorem State.jumpFar_keepsStack (s : State) (c : CodeAddr) : (s.jumpFar c).Leaves (SameStack s) :=
  (s.loadDescriptor_keepsStack c.sel false).bind_stack fun d t => t.putSelector_keepsStack 7 ⟨c.sel, some d⟩

/-- A write of a selector by MTSEL or a CSR keeps the mode stack. -/
theorem State.writeSelector_keepsStack (s : State) (n : Nat) (sel : Selector) :
    (s.writeSelector n sel).Leaves (SameStack s) := by
  unfold State.writeSelector
  split
  · exact .refl s
  · split
    · exact (s.loadDescriptor_keepsStack sel false).bind_stack fun d t => t.putSelector_keepsStack n _
    · split
      · exact s.putSelector_keepsStack n _
      · split
        · exact (s.loadDescriptor_keepsStack sel true).bind_stack fun d t => t.putSelector_keepsStack n _
        · trivial

/-! ### Outcomes -/

/-- `t` has the mode stack of `s` with an entry of machine mode, IM set, pushed (60 R1020 c). -/
def StackPushed (s t : State) : Prop :=
  t.om = 3#2 ∧ t.im = 1#1 ∧ t.mode.pmStack.extractLsb' 8 56 = s.mode.pmStack.extractLsb' 0 56

/-- A next state has the mode stack of `s`, or a trap has pushed it. -/
def KeepsMode (s : State) (o : Outcome) : Prop := ∀ t, o = .next t → SameStack s t ∨ StackPushed s t

variable {s u : State}

/-- A next state with the same mode stack. -/
theorem SameStack.keepsMode_next (h : SameStack s u) : KeepsMode s (.next u) := fun t ht => by
  cases ht
  exact .inl h

/-- An outcome from a state with the same mode stack. -/
theorem KeepsMode.of_sameStack {o : Outcome} (h : SameStack s u) (k : KeepsMode u o) : KeepsMode s o := fun t ht =>
  (k t ht).imp h.trans fun ⟨hom, him, hpush⟩ => ⟨hom, him, hpush.trans (congrArg (BitVec.extractLsb' 0 56) h)⟩

/-- A refusal has no next state. -/
theorem keepsMode_refused (r : Refusal) : KeepsMode s (.refused r) := fun _ h => nomatch h

/-- A stop has no next state. -/
theorem keepsMode_halt (h : Halt) : KeepsMode s h.outcome := fun _ ht => by cases h <;> cases ht

/-- A trap entry pushes the mode stack (60 R1020). -/
theorem State.takeTrap_stackPushed {i : TrapInfo} {v : State} (h : u.takeTrap i = .ok () v) : StackPushed u v := by
  obtain ⟨k, d, hj⟩ := u.takeTrap_inv i v h
  have kept {α : Type} (p : State → α) := congrArg p hj.frame
  exact ⟨(kept State.om).trans (State.saveForTrap_om _ i), (kept State.im).trans (State.saveForTrap_im _ i),
    (kept fun q => q.mode.pmStack.extractLsb' 8 56).trans (State.saveForTrap_pushed _ i)⟩

/-- The outcome of a trap entry. -/
theorem SameStack.keepsMode_takeTrap (h : SameStack s u) (i : TrapInfo) : KeepsMode s (u.takeTrap i).outcome :=
  fun t ht => by
    obtain ⟨hom, him, hpush⟩ := State.takeTrap_stackPushed
      (State.outcome_next _ t (fun e v => u.takeTrap_trap i e v) ht)
    exact .inr ⟨hom, him, hpush.trans (congrArg _ h)⟩

/-- An exception of the instruction at ip (60 R1011). -/
theorem SameStack.keepsMode_raise (h : SameStack s u) (c : Ctx) (e : Exc) : KeepsMode s (u.raise c e) :=
  SameStack.keepsMode_takeTrap (u := u.abandonFetch) h _

/-- An instruction whose operation keeps the mode stack. -/
theorem Res.Leaves.keepsMode_finish {r : Res Unit} (h : r.Leaves (SameStack s)) (c : Ctx) :
    KeepsMode s (finish c r) := by
  cases r with
  | ok _ t => exact SameStack.keepsMode_next h
  | trap e t => exact SameStack.keepsMode_raise h c e
  | stop e => exact keepsMode_halt e

/-- The same of one that ends with the sequential advance. -/
theorem Res.Leaves.keepsMode_finishSeq {r : Res Unit} (h : r.Leaves (SameStack s)) (c : Ctx) :
    KeepsMode s (finishSeq c r) :=
  (Res.Leaves.bind_stack (f := fun _ t => .ok () (t.advance c.size)) h fun _ t =>
    SameStack.refl t).keepsMode_finish c


/-! ### Computational instructions -/

/-- Whatever its operands, the rule keeps the mode stack. -/
def Rule.KeepsStack (f : Rule) : Prop := ∀ x a b d t, (f x a b d t).Leaves (SameStack t)

/-- The scalar form of a rule that keeps the mode stack. -/
theorem runScalar_keepsStack (o : Operands) {f : Rule} (s : State) (hf : f.KeepsStack) :
    (runScalar o f s).Leaves (SameStack s) := by
  unfold runScalar
  split
  · exact (hf 0 _ _ _ s).bind_stack fun w t => setReg_keepsStack t o.rt w
  · trivial

/-- The vector form of a rule that keeps the mode stack. -/
theorem runVector_keepsStack (o : Operands) {f : Rule} (s : State) (hf : f.KeepsStack) :
    (runVector o f s).Leaves (SameStack s) :=
  s.vectorLoop_keepsStack o.m (fun x t => (hf x _ _ _ t).bind_stack fun w u => setVec_keepsStack u o.rt x w)
    (zeroing_keepsStack o.z o.rt)

/-- A computational instruction in either form. -/
theorem Rule.KeepsStack.keepsMode {f : Rule} (hf : f.KeepsStack) (s : State) (c : Ctx) (o : Operands) :
    KeepsMode s (run c o f s) := by
  refine Res.Leaves.keepsMode_finishSeq ?_ c
  split
  · exact runVector_keepsStack o s hf
  · exact runScalar_keepsStack o s hf

/-- A rule with a free value changes nothing. -/
theorem freeRule_keepsStack (g : Word → Word → Word → Word → Word) : (freeRule g).KeepsStack :=
  fun _ _ _ _ t => .refl t

/-- An instruction that computes with a free value. -/
theorem keepsMode_computeFree (s : State) (c : Ctx) (o : Operands) (g : Word → Word → Word → Word → Word) :
    KeepsMode s (computeFree c o g s) := (freeRule_keepsStack g).keepsMode s c o

/-- An instruction that computes from its operands alone. -/
theorem keepsMode_compute (s : State) (c : Ctx) (o : Operands) (g : Word → Word → Word → Word) :
    KeepsMode s (compute c o g s) :=
  Rule.KeepsStack.keepsMode (f := pureRule g) (fun _ _ _ _ t => SameStack.refl t) s c o

/-- A bounds check changes nothing, whether it passes or raises. -/
theorem checkRule_keepsStack (cn : BitVec 3) : (checkRule cn).KeepsStack := fun x a b d t => by
  unfold checkRule
  split <;> exact .refl t

/-- A floating-point rule changes U_FSTAT only. -/
theorem fpRule_keepsStack (rm : Option (BitVec 3)) (g : BitVec 3 → Word → Word → Word → Word → FpResult) :
    (fpRule rm g).KeepsStack := fun x a b d t => by
  unfold fpRule State.fpCommit
  dsimp only
  split <;> exact .refl t

/-- FTX and DFTX change U_FSTAT only. -/
theorem State.fpTrigger_keepsStack (s : State) (f : Fmt.F1) : (s.fpTrigger f).Leaves (SameStack s) := by
  unfold State.fpTrigger
  dsimp only
  split <;> exact .refl s

/-- A lookup without an access keeps the mode stack. -/
theorem State.linearToPhysical_keepsStack (s : State) (la : Word) (k : Nat) :
    SameStack s (s.linearToPhysical la k).2 := by
  have hl := SameStack.of_touched (s.tlbLookup_touched la)
  unfold State.linearToPhysical
  split
  · generalize s.tlbLookup la = q at hl
    obtain ⟨_ | w, t⟩ := q <;> exact hl
  · exact .refl s

/-- The rule of LIN2PHL keeps the mode stack. -/
theorem linearToPhysicalRule_keepsStack : linearToPhysicalRule.KeepsStack :=
  fun x a _ _ t => t.linearToPhysical_keepsStack a x

/-! ### Loads and stores -/

/-- Whatever its address, the access keeps the mode stack. -/
def Move.KeepsStack (act : Move) : Prop := ∀ l n sel ea t, (act l n sel ea t).Leaves (SameStack t)

/-- A write of a register or of an element keeps the mode stack. -/
theorem State.writeLane_keepsStack (s : State) (l : Lane) (n : RegNum) (w : Word) :
    SameStack s (s.writeLane l n w) := by
  cases l with
  | none => exact setReg_keepsStack s n w
  | some x => exact setVec_keepsStack s n x w

/-- A load keeps the mode stack. -/
theorem loadMove_keepsStack (n : Nat) (ext : Word → Word) : Move.KeepsStack (loadMove n ext) := fun l rt sel ea t =>
  ((t.memRead_touched sel.toNat ea n).imp fun _ => SameStack.of_touched).bind_stack fun _ u =>
    u.writeLane_keepsStack l rt _

/-- A store keeps the mode stack. -/
theorem State.memWrite_keepsStack (s : State) (seg : Nat) (va : Word) (n : Nat) (v : Word) :
    (s.memWrite seg va n v).Leaves (SameStack s) := (s.memWrite_stored seg va n v).imp fun _ => SameStack.of_stored

/-- A store of a register or an element keeps the mode stack. -/
theorem storeMove_keepsStack (n : Nat) : Move.KeepsStack (storeMove n) := fun _ _ sel ea t =>
  t.memWrite_keepsStack sel.toNat ea n _

/-- An address without an access keeps the mode stack. -/
theorem State.linear_keepsStack (s : State) (seg : Nat) (va : Word) : SameStack s (s.linear seg va).2 :=
  s.useFrom_keepsStack _ _

/-- LLAL keeps the mode stack. -/
theorem linearMove_keepsStack : Move.KeepsStack linearMove := fun l rt sel ea t =>
  (t.linear_keepsStack sel.toNat ea).trans (State.writeLane_keepsStack _ l rt _)

/-- LLAH keeps the mode stack. -/
theorem linearHighMove_keepsStack : Move.KeepsStack linearHighMove := fun l rt _ _ t => t.writeLane_keepsStack l rt 0

/-- A conditional store keeps the mode stack. -/
theorem State.storeConditional_keepsStack (s : State) (sel : BitVec 3) (ea v : Word) :
    (s.storeConditional sel ea v).Leaves (SameStack s) := by
  unfold State.storeConditional
  split
  · exact (s.memWrite_keepsStack sel.toNat ea 8 v).bind_stack fun _ t => .refl t
  · exact .refl s

/-- STOC keeps the mode stack. -/
theorem conditionalMove8_keepsStack : Move.KeepsStack conditionalMove8 := fun _ _ sel ea t =>
  t.storeConditional_keepsStack sel ea _

/-- Invalidating a line keeps the mode stack. -/
theorem State.invalidateAt_keepsStack (s : State) (sel : BitVec 3) (ea : Word) :
    SameStack s (s.invalidateAt sel ea) := by
  have h := s.linear_keepsStack sel.toNat ea
  unfold State.invalidateAt
  generalize s.linear sel.toNat ea = u at h
  have hl := SameStack.of_touched (u.2.tlbLookup_touched u.1)
  dsimp only
  split
  · generalize u.2.tlbLookup u.1 = q at hl
    obtain ⟨_ | w, t⟩ := q <;> exact h.trans hl
  · exact h

/-- An instruction cache command keeps the mode stack. -/
theorem State.instructionCacheCommand_keepsStack (s : State) (ic sel : BitVec 3) (ea : Word) :
    SameStack s (s.instructionCacheCommand ic sel ea) := by
  unfold State.instructionCacheCommand
  split
  · exact s.invalidateAt_keepsStack sel ea
  · split
    · exact .refl s
    · exact .refl s

/-- A data cache command changes M_CR0 only. -/
theorem State.dataCacheCommand_keepsStack (s : State) (dc : BitVec 3) : SameStack s (s.dataCacheCommand dc) := by
  unfold State.dataCacheCommand
  split
  · exact .refl s
  · split <;> exact .refl s

/-- CACHE keeps the mode stack. -/
theorem cacheMove_keepsStack : Move.KeepsStack cacheMove := fun _ _ sel ea t =>
  (t.instructionCacheCommand_keepsStack _ sel ea).trans (State.dataCacheCommand_keepsStack _ _)

/-- The MACHINE_ONLY check before an operation that keeps the mode stack. -/
theorem State.machineOnly_keepsStack {s u : State} (op : Config.SysOp) {r : Res Unit} (h : SameStack s u)
    (hr : r.Leaves (SameStack s)) : (u.machineOnly op r).Leaves (SameStack s) := by
  unfold State.machineOnly
  split
  · exact h
  · exact hr

section
variable {act : Move} (h : act.KeepsStack)
include h

/-- The displacement format. -/
theorem Move.KeepsStack.keepsMode_LSD (c : Ctx) (f : Fmt.LSD) (s : State) : KeepsMode s (moveLSD c f act s) :=
  (h none f.rt f.sel _ s).keepsMode_finishSeq c

/-- The short displacement format. -/
theorem Move.KeepsStack.keepsMode_LSDS (c : Ctx) (f : Fmt.LSDS) (s : State) : KeepsMode s (moveLSDS c f act s) :=
  (h none f.rt f.sel _ s).keepsMode_finishSeq c

/-- The indexed format before the sequential advance. -/
theorem Move.KeepsStack.indexedMove (f : Fmt.LSX) {off : Nat → State → State} (s : State)
    (hoff : ∀ x t, SameStack t (off x t)) : (indexedMove f act off s).Leaves (SameStack s) := by
  unfold Machine.indexedMove
  split
  · exact s.vectorLoop_keepsStack f.m (fun x t => h _ _ _ _ t) hoff
  · split
    · exact h _ _ _ _ s
    · trivial

/-- A load in the indexed format. -/
theorem Move.KeepsStack.keepsMode_loadLSX (c : Ctx) (f : Fmt.LSX) (s : State) : KeepsMode s (loadLSX c f act s) :=
  (h.indexedMove f s (zeroing_keepsStack f.z f.rt)).keepsMode_finishSeq c

/-- A store in the indexed format. -/
theorem Move.KeepsStack.keepsMode_storeLSX (c : Ctx) (f : Fmt.LSX) (s : State) : KeepsMode s (storeLSX c f act s) :=
  (h.indexedMove f s fun _ t => .refl t).keepsMode_finishSeq c

end

/-- The store-register long format. -/
theorem keepsMode_moveLSR (c : Ctx) (f : Fmt.LSR) {act : BitVec 3 → Word → Word → State → Res Unit}
    (h : ∀ sel ea b t, (act sel ea b t).Leaves (SameStack t)) (s : State) : KeepsMode s (moveLSR c f act s) := by
  refine Res.Leaves.keepsMode_finishSeq ?_ c
  split
  · exact h _ _ _ s
  · trivial

/-! ### Branches -/

/-- The link register and the loop counter are no part of the mode stack. -/
theorem link_countLoop_keepsStack (s : State) (dec : Bool) (lk : BitVec 2) (ret : Word) :
    SameStack s ((s.countLoop dec).link lk ret) :=
  .of_mode (((s.countLoop dec).link_mode lk ret).trans (s.countLoop_mode dec))

/-- A branch goes on, jumps or takes BT. -/
theorem keepsMode_branch (c : Ctx) (lk : BitVec 2) (ca : BitVec 3) (disp : Word) (dec cond : Bool) (s : State) :
    KeepsMode s (branch c lk ca disp dec cond s) := by
  have h := link_countLoop_keepsStack s dec lk (nextIp s.ip c.size)
  unfold branch
  dsimp only
  split
  · exact keepsMode_refused _
  · split
    · split
      · exact (SameStack.refl s).keepsMode_raise c _
      · split
        · exact SameStack.keepsMode_next h
        · exact ((State.jumpFar_keepsStack _ _).imp fun _ => h.trans).keepsMode_finish c
    · exact SameStack.keepsMode_next h

/-- A conditional branch on A and B. -/
theorem keepsMode_branchBR (c : Ctx) (f : Fmt.BR) (dec : Bool) (test : Word → Word → Bool) (s : State) :
    KeepsMode s (branchBR c f dec test s) := by
  unfold branchBR
  split
  · exact keepsMode_branch c f.lk f.ca _ dec _ s
  · exact keepsMode_refused _

/-- JGATE jumps through its gate or takes BT. -/
theorem keepsMode_jgate (f : Fmt.JGATE) (s : State) : KeepsMode s (execJgate f s) := by
  unfold execJgate
  split
  · exact keepsMode_refused _
  · cases hr : s.readDescriptor f.selector with
    | ok d t =>
      obtain ⟨k, rfl⟩ := s.readDescriptor_frame f.selector d t hr
      dsimp only
      unfold gateJump
      split
      · split
        · exact SameStack.keepsMode_raise (u := { s with draw := k }) rfl _ _
        · have h : SameStack s (({ s with draw := k } : State).link f.lk (nextIp s.ip 6)) :=
            .of_mode (State.link_mode _ _ _)
          exact ((State.jumpFar_keepsStack _ _).imp fun _ => h.trans).keepsMode_finish _
      · exact keepsMode_refused _
    | trap e t => exact absurd hr (s.readDescriptor_trap f.selector e t)
    | stop h => exact keepsMode_halt h

/-- RTS jumps or takes BT. -/
theorem keepsMode_rts (f : Fmt.RTS) (s : State) : KeepsMode s (execRts f s) := by
  unfold execRts
  split
  · exact keepsMode_refused _
  · split
    · exact (SameStack.refl s).keepsMode_raise _ _
    · exact ((State.jumpFar_keepsStack _ _).imp fun _ => (setReg_keepsStack s 27#6 _).trans).keepsMode_finish _

/-! ### Immediate prefixes -/

/-- The instruction after an EXI, run with the joined immediate. -/
theorem keepsMode_prefixedMeaning {root : Byte} {g : Fmt.RIL → Word → Ctx → State → Outcome}
    (hg : prefixedMeaning root = some g) (f : Fmt.RIL) (imm : Word) (c : Ctx) (s : State) :
    KeepsMode s (g f imm c s) := by
  by_cases h : ∀ e ∈ prefixedOperations, e.1 ≠ root
  · rw [prefixedMeaning_none h] at hg
    cases hg
  · obtain ⟨⟨root', op⟩, hentry⟩ := Classical.not_forall.mp h
    obtain ⟨he, hroot⟩ := Classical.not_imp.mp hentry
    obtain rfl := Classical.not_not.mp hroot
    obtain ⟨g', hg', hc⟩ := prefixedMeaning_some he
    rw [hg'] at hg
    cases hg
    rw [hc]
    exact keepsMode_computeFree s c _ _

/-- An EXI runs the instruction after it, or takes the exception of the fetch or UNIMP. -/
theorem keepsMode_runPrefix {w : Nat} (size : Nat) (p : BitVec w) (s : State) : KeepsMode s (runPrefix size p s) := by
  have hf := (s.fetchPair_touched size).imp fun _ => SameStack.of_touched
  unfold runPrefix
  cases hr : s.fetchPair size with
  | stop h => exact keepsMode_halt h
  | trap e t =>
    rw [hr] at hf
    exact SameStack.keepsMode_takeTrap (u := t.fresh) hf _
  | ok bs t =>
    rw [hr] at hf
    dsimp only
    cases hm : prefixedMeaning (bs.headD 0) with
    | some g =>
      dsimp only
      split
      · exact keepsMode_refused _
      · exact .of_sameStack hf (keepsMode_prefixedMeaning hm _ _ _ t)
    | none =>
      dsimp only
      split
      · exact SameStack.keepsMode_raise (u := { s with draw := t.draw }) rfl _ _
      · exact keepsMode_refused _


/-! ### Control registers -/

/-- A CSR read keeps the mode stack. -/
theorem State.csrRead_keepsStack (s : State) (n : CsrName) : SameStack s (s.csrRead n).2 := by
  cases n with
  | tvecLow n => exact s.useFrom_keepsStack _ _
  | tvecHigh n => exact s.useFrom_keepsStack _ _
  | _ => exact .refl s

/-- A control register other than M_PM_STACK is no part of the mode stack. -/
theorem State.csrWrite_keepsStack (s : State) {n : CsrName} (w : Word) (hn : n ≠ .pmStack) :
    (s.csrWrite n w).Leaves (SameStack s) := by
  cases n with
  | pmStack => exact absurd rfl hn
  | selector n => exact s.writeSelector_keepsStack n _
  | time => dsimp only [State.csrWrite]; split <;> exact .refl s
  | codeLow k => dsimp only [State.csrWrite]; split <;> exact .refl s
  | codeHigh k => dsimp only [State.csrWrite]; split <;> exact .refl s
  | _ => exact .refl s

/-- A choice between two registers that are not the third. -/
theorem csrChoice_ne {p : Prop} [Decidable p] {a b c : Option CsrName} (ha : a ≠ c) (hb : b ≠ c) :
    (if p then a else b) ≠ c := by
  split <;> assumption

/-- M_PM_STACK has a number of machine mode only (10_state R104). -/
theorem csrName_pmStack {r : BitVec 16} (h : csrName r = some .pmStack) : (r.extractLsb' 12 4).toNat = 3 := by
  have hper : ∀ k low, csrPerMode k low ≠ some .pmStack := fun k low => by
    unfold csrPerMode
    exact csrChoice_ne nofun (csrChoice_ne nofun (csrChoice_ne nofun (csrChoice_ne nofun (csrChoice_ne nofun nofun))))
  have huser : ∀ low, csrUser low ≠ some .pmStack := fun low => by
    unfold csrUser
    exact csrChoice_ne nofun (csrChoice_ne nofun nofun)
  have hsupervisor : ∀ low, csrSupervisor low ≠ some .pmStack := fun low => by
    unfold csrSupervisor
    exact csrChoice_ne nofun (csrChoice_ne nofun (csrChoice_ne nofun nofun))
  have hdebug : ∀ low, csrDebug low ≠ some .pmStack := fun low => by
    unfold csrDebug
    exact csrChoice_ne nofun (csrChoice_ne nofun nofun)
  have hneither : ∀ {a b : Option CsrName}, a ≠ some .pmStack → b ≠ some .pmStack →
      (a.orElse fun _ => b) ≠ some .pmStack := fun {a b} ha hb => by cases a <;> assumption
  unfold csrName at h
  dsimp only at h
  split at h
  · exact absurd h (hneither (hper _ _) (huser _))
  · exact absurd h (hneither (hper _ _) (hsupervisor _))
  · exact absurd h (hper _ _)
  · assumption
  · exact absurd h (hdebug _)
  · cases h

/-- A CSR access to another number than that of M_PM_STACK. -/
theorem csrAccess_keepsStack (rt : RegNum) {n : Option CsrName} (a : Word) (g : CsrUpdate) (s : State)
    (hn : n ≠ some .pmStack) : (csrAccess rt n a g s).Leaves (SameStack s) := by
  cases n with
  | none => exact setReg_keepsStack s rt 0
  | some n =>
    have h := (s.csrRead_keepsStack n).trans (setReg_keepsStack (s.csrRead n).2 rt (s.csrRead n).1)
    unfold csrAccess
    dsimp only
    split
    · exact h
    · exact (State.csrWrite_keepsStack _ _ fun e => hn (congrArg some e)).imp fun _ => h.trans

/-- In user mode a CSR instruction does not reach M_PM_STACK (10_state R62). -/
theorem keepsMode_csrInstruction (c : Ctx) (f : Fmt.CSR) (g : CsrUpdate) {s : State} (hu : s.om = 0#2) :
    KeepsMode s (csrInstruction c f g s) := by
  refine Res.Leaves.keepsMode_finishSeq ?_ c
  split
  · exact SameStack.refl s
  · rename_i hp
    refine csrAccess_keepsStack f.rt _ g s fun hn => hp ?_
    unfold csrPrivileged
    rw [csrName_pmStack hn, hu]
    decide

/-! ### System instructions -/

/-- A system instruction with an operand B. -/
theorem keepsMode_withB (c : Ctx) (f : Fmt.OSR2) (op : Config.SysOp) {act : Word → State → Res Unit} {s : State}
    (h : ∀ b, (act b s).Leaves (SameStack s)) : KeepsMode s (withB c f op act s) := by
  refine (State.machineOnly_keepsStack op (.refl s) ?_).keepsMode_finishSeq c
  split
  · exact h _
  · trivial

/-- The trap of BRK, SYS, INT and PFI. -/
theorem keepsMode_softTrap (c : Ctx) (cause : BitVec 8) (epc : Word) (level : Option (BitVec 3))
    (debug interrupt : Bool) (s : State) : KeepsMode s (s.softTrap c cause epc level debug interrupt) :=
  SameStack.keepsMode_takeTrap (u := s.abandonFetch) rfl _

/-- INT goes on at or below IPL, else it traps. -/
theorem keepsMode_int (f : Fmt.INT) (s : State) : KeepsMode s (execInt f s) := by
  unfold execInt
  split
  · exact SameStack.keepsMode_next rfl
  · exact keepsMode_softTrap _ _ _ _ _ _ s

/-- PFI goes on without a request, else it traps. -/
theorem keepsMode_pfi (f : Fmt.OSR2) (s : State) : KeepsMode s (execPfi f s) := by
  unfold execPfi pollInterrupt
  split
  · exact (SameStack.refl s).keepsMode_raise _ _
  · split
    · exact SameStack.keepsMode_next rfl
    · exact .of_sameStack (setReg_keepsStack s f.rt _) (keepsMode_softTrap _ _ _ _ _ _ _)

/-- WFI waits or goes on. -/
theorem keepsMode_wfi (f : Fmt.S16) (s : State) : KeepsMode s (execWfi f s) := by
  unfold execWfi
  split
  · exact (SameStack.refl s).keepsMode_raise _ _
  · split
    · exact SameStack.keepsMode_next rfl
    · exact SameStack.keepsMode_next rfl

/-- SEI takes PRIV in user mode (47 R828). -/
theorem keepsMode_sei (f : Fmt.OSR2) {s : State} (hu : s.om = 0#2) : KeepsMode s (execSei f s) := by
  cases hb : (opnd f.tb f.rb).scalar s with
  | none =>
    rw [execSei_refused f s hb]
    exact keepsMode_refused _
  | some b =>
    rw [execSei_user f s b hb (by rw [hu]; decide)]
    exact (SameStack.refl s).keepsMode_raise _ _

/-- RTE takes PRIV in user mode (47 R821). -/
theorem keepsMode_rte (f : Fmt.OSR2) {s : State} (hu : s.om = 0#2) : KeepsMode s (execRte f s) := by
  cases hb : (opnd f.tb f.rb).scalar s with
  | none =>
    rw [execRte_refused f s hb]
    exact keepsMode_refused _
  | some b =>
    rw [execRte_user f s b hb hu]
    exact (SameStack.refl s).keepsMode_raise _ _

/-- REX takes PRIV in user mode, which is below no other (47 R843). -/
theorem keepsMode_rex (f : Fmt.OSR2) {s : State} (hu : s.om = 0#2) : KeepsMode s (execRex f s) := by
  have hle : ∀ tm, s.om ≤ tm := fun tm => by rw [hu]; exact Nat.zero_le tm.toNat
  unfold execRex redirectException
  rw [if_pos (hle _)]
  split
  · exact (SameStack.refl s).keepsMode_raise _ _
  · split
    · exact keepsMode_refused _
    · exact (SameStack.refl s).keepsMode_raise _ _

/-- A push to a hardware queue keeps the mode stack. -/
theorem State.append_keepsStack (s : State) (q : BitVec 4) (e : BitVec 112) : SameStack s (s.append q e) := by
  unfold State.append
  dsimp only
  split <;> exact .refl s

/-- TLBRW keeps the mode stack. -/
theorem State.tlbReadWrite_keepsStack (s : State) (rt : RegNum) (a b : Word) : SameStack s (s.tlbReadWrite rt a b) := by
  unfold State.tlbReadWrite
  dsimp only
  split <;> exact setReg_keepsStack s rt _

/-! ### Vector, mask and accelerator instructions -/

/-- A vector instruction with a scalar B. -/
theorem keepsMode_withScalarB (c : Ctx) (f : Fmt.R3) {act : Word → State → Res Unit} {s : State}
    (h : ∀ b, (act b s).Leaves (SameStack s)) : KeepsMode s (withScalarB c f act s) := by
  refine Res.Leaves.keepsMode_finishSeq ?_ c
  split
  · exact h _
  · trivial

/-- V2BITS writes a register only. -/
theorem vectorToBits_keepsStack (f : Fmt.R3) (b : Word) (s : State) : (vectorToBits f b s).Leaves (SameStack s) :=
  s.vectorLoop_keepsStack f.m (fun _ t => setReg_keepsStack t f.rt _) fun x t => by
    dsimp only
    split
    · exact setReg_keepsStack t f.rt _
    · exact .refl t

/-- A loop over the enabled elements keeps the mode stack where its elements do. -/
theorem State.enabledElements_keepsStack (s : State) (m : BitVec 3) {act : Nat → State → State}
    (hact : ∀ x t, SameStack t (act x t)) : (s.enabledElements m act).Leaves (SameStack s) :=
  s.vectorLoop_keepsStack m hact fun _ t => .refl t

/-- VEINS keeps the mode stack. -/
theorem insertElement_keepsStack (f : Fmt.R3) (b : Word) (s : State) : (insertElement f b s).Leaves (SameStack s) := by
  unfold insertElement
  dsimp only
  split
  · exact setVec_keepsStack s f.rt _ b
  · trivial

/-- VEX keeps the mode stack. -/
theorem extractElement_keepsStack (f : Fmt.R3) (s : State) : (extractElement f s).Leaves (SameStack s) := by
  unfold extractElement
  dsimp only
  split
  · trivial
  · split
    · exact setReg_keepsStack s f.rt _
    · trivial

/-- MTVL writes VL only. -/
theorem keepsMode_mtvl (f : Fmt.VM) (s : State) : KeepsMode s (execMtvl f s) := by
  unfold execMtvl
  split
  · exact keepsMode_refused _
  · exact SameStack.keepsMode_next rfl

/-- A one-source instruction of an accelerator. -/
theorem keepsMode_withA (c : Ctx) (f : Fmt.R1) {act : Word → State → Res Unit} {s : State}
    (h : ∀ a, (act a s).Leaves (SameStack s)) : KeepsMode s (withA c f act s) := by
  refine Res.Leaves.keepsMode_finishSeq ?_ c
  split
  · trivial
  · exact h _

/-- A two-source instruction of an accelerator. -/
theorem keepsMode_withAB (c : Ctx) (f : Fmt.R3) {act : Word → Word → State → Res Unit} {s : State}
    (h : ∀ a b, (act a b s).Leaves (SameStack s)) : KeepsMode s (withAB c f act s) := by
  refine Res.Leaves.keepsMode_finishSeq ?_ c
  split
  · trivial
  · split
    · exact h _ _
    · trivial

/-- NNA_TRIG keeps the mode stack. -/
theorem triggerNeurons_keepsStack (sel : BitVec 8) (s : State) : (triggerNeurons sel s).Leaves (SameStack s) := by
  unfold triggerNeurons
  split
  · trivial
  · exact SameStack.refl s

/-- NNA_MTWT and NNA_MTIN keep the mode stack. -/
theorem arrayWrite_keepsStack (rt : RegNum) (put : Nat → BitVec 32 → Neuron → Neuron) (a b : Word) (s : State) :
    (arrayWrite rt put a b s).Leaves (SameStack s) := by
  unfold arrayWrite
  dsimp only
  split
  · trivial
  · exact setReg_keepsStack (s.updateNeurons _ _) rt _

/-- RW_COEFF keeps the mode stack. -/
theorem exchangeCoefficient_keepsStack (rt : RegNum) (a b : Word) (s : State) :
    (exchangeCoefficient rt a b s).Leaves (SameStack s) := by
  unfold exchangeCoefficient
  dsimp only
  split
  · exact setReg_keepsStack (s.setGreg _ _) rt _
  · split
    · exact setReg_keepsStack { s with gfx := _ } rt _
    · trivial

/-! ### Every instruction -/

/-- An instruction in user mode keeps the mode stack or takes a trap (60 R1002). -/
theorem exec_keepsMode (i : Instr) {s : State} (hu : s.om = 0#2) : KeepsMode s (exec i s) := by
  cases i with
  | exi7 f | exi23 f | exi41 f | exi55 f =>
    exact keepsMode_runPrefix _ _ s
  | add f | addS f | addi f | ldi f | sub f | subfi f | neg f | mul f | mulh f | muli f | mulf f | mulfi f
  | ptrdif f | dif f | abs f | min f | max f | cmp f | cmpi f | cmpu f | cmpui f | seq f | seqi f | sne f | snei f
  | slt f | slti f | sltu f | sge f | sgeu f | sgti f | sgtui f | slei f | andS f | and f | andc f | orS f | or f
  | orc f | eorS f | eor f | enor f | nand f | nor f | mux f | andi f | ori f | eori f | sllS f | sllp f | srlp f
  | srl f | sra f | rol f | ror f | cntlz f | cntpop f | revbit sz f | mor f | mxor f | mort f | mxort f | bmap f
  | clmul f | clmulh f | bytndx f | bytndxi f | wydendx f | utf21ndx f | fabs f | fneg f | fclass f | ffinite f
  | isnan f | fman f | fsign f | dfabs f | dfneg f | dfman f | dfsign f | lin2phh f | aes64ds f | aes64dsm f
  | aes64es f | aes64esm f | sha256sig0 f | sha256sig1 f | sha256sum0 f | sha256sum1 f | sha512sig0 f
  | sha512sig1 f | sha512sum0 f | sha512sum1 f | sm3p0 f | sm3p1 f | sm4ed f | sm4ks f | blend f | addil f
  | cmpil f | seqil f | sneil f | sltil f | sgtil f | sgtuil f | andil f | oril f | eoril f | wydendxi f
  | utf21ndxi f =>
    exact keepsMode_compute s _ _ _
  | div f | divi f | divu f | divui f | divsu f | bfalign f | bfffo f | bfextu f | bfext f | andm f | bfset f
  | bfchg f | bfclr f | com f | mov f | movsxb f | movsxw f | movsxt f | movzxb f | movzxw f | movzxt f | bcdadd f
  | bcdsub f | bcdmul f | divil f =>
    exact keepsMode_computeFree s _ _ _
  | cmovnz f | mkbool f | not f | vbits2vC f | cpuid f | vbits2v f =>
    refine Rule.KeepsStack.keepsMode ?_ s _ _
    exact fun _ _ _ _ t => SameStack.refl t
  | chk f | chki f =>
    exact (checkRule_keepsStack _).keepsMode s _ _
  | fsqrt f | frsqrte f | fsigmoid f | ftoi f | itof f | ftrunc f | fadd f | faddL f | fsub f | fsubL f | fmul f
  | fmulL f | fdiv f | fdivL f | fcmp f | fseq f | fslt f | fsne f | fcmpb f | fma f | fms f | fnma f | fnms f
  | dftoi f | itodf f | dfadd f | dfaddL f | dfsub f | dfsubL f | dfmul f | dfmulL f | dfdiv f | dfdivL f | dfcmp f
  | dfcmpb f | dfma f | dfmaL f | dfms f | dfmsL f | dfnma f | dfnmaL f | dfnms f | dfnmsL f =>
    exact (fpRule_keepsStack _ _).keepsMode s _ _
  | lin2phl f =>
    exact linearToPhysicalRule_keepsStack.keepsMode s _ _
  | ftx f | dftx f =>
    exact (s.fpTrigger_keepsStack f).keepsMode_finishSeq _
  | ldb f | ldbu f | ldw f | ldwu f | ldt f | ldtu f | ldo f =>
    exact (loadMove_keepsStack _ _).keepsMode_LSD _ f s
  | stb f | stw f | stt f | sto f =>
    exact (storeMove_keepsStack _).keepsMode_LSD _ f s
  | ldos f =>
    exact (loadMove_keepsStack _ _).keepsMode_LSDS _ f s
  | stos f =>
    exact (storeMove_keepsStack _).keepsMode_LSDS _ f s
  | llal f =>
    exact linearMove_keepsStack.keepsMode_LSD _ f s
  | llah f =>
    exact linearHighMove_keepsStack.keepsMode_LSD _ f s
  | stoc f =>
    exact conditionalMove8_keepsStack.keepsMode_LSD _ f s
  | cache f =>
    exact Move.KeepsStack.keepsMode_LSD (fun l n sel ea t =>
      State.machineOnly_keepsStack .cache (.refl t) (cacheMove_keepsStack l n sel ea t)) _ f s
  | ldbx f | ldbux f | ldwx f | ldwux f | ldtx f | ldtux f | ldox f =>
    exact (loadMove_keepsStack _ _).keepsMode_loadLSX _ f s
  | llalx f =>
    exact linearMove_keepsStack.keepsMode_loadLSX _ f s
  | llahx f =>
    exact linearHighMove_keepsStack.keepsMode_loadLSX _ f s
  | stbx f | stwx f | sttx f | stox f =>
    exact (storeMove_keepsStack _).keepsMode_storeLSX _ f s
  | stocx f =>
    exact conditionalMove8_keepsStack.keepsMode_storeLSX _ f s
  | cachex f =>
    exact (State.machineOnly_keepsStack .cachex (.refl s)
      (cacheMove_keepsStack.indexedMove f s fun _ t => .refl t)).keepsMode_finishSeq _
  | stwl f | sttl f | stol f =>
    exact keepsMode_moveLSR _ f (fun sel ea b t => t.memWrite_keepsStack sel.toNat ea _ b) s
  | stocl f =>
    exact keepsMode_moveLSR _ f (fun sel ea b t => t.storeConditional_keepsStack sel ea b) s
  | bbc f | bbs f | beq f | bne f | blt f | bge f | ble f | bgt f | bltu f | bgeu f | bleu f | bgtu f | dbbc f
  | dbbs f | dbeq f | dbne f | dblt f | dbge f | dble f | dbgt f | dbltu f | dbgeu f | dbleu f | dbgtu f =>
    exact keepsMode_branchBR _ f _ _ s
  | beqz f | bnez f | jmp f | bra f | bsr f | jsr f | dbra f =>
    exact keepsMode_branch _ _ _ _ _ _ s
  | jgate f =>
    exact keepsMode_jgate f s
  | rts f =>
    exact keepsMode_rts f s
  | csrrd f | csrrw f | csrrs f | csrrc f =>
    exact keepsMode_csrInstruction _ f _ hu
  | brk f | sys f =>
    exact keepsMode_softTrap _ _ _ _ _ _ s
  | int f =>
    exact keepsMode_int f s
  | pfi f =>
    exact keepsMode_pfi f s
  | wfi f =>
    exact keepsMode_wfi f s
  | sei f =>
    exact keepsMode_sei f hu
  | rte f =>
    exact keepsMode_rte f hu
  | rex f =>
    exact keepsMode_rex f hu
  | fcx f | fex f | fdx f | frm f | dfcx f | dfex f | dfdx f | dfrm f | nop f | memdb f | memsb f | sync f | mtvm f
  | vmsll f | vmsrl f | vmfill f | vmadd f | vmsub f | vmand f | vmor f | vmxor f =>
    exact SameStack.keepsMode_next rfl
  | fstat f | dfstat f | mfvm f | vmcntpop f | vmfirst f | vmlast f =>
    exact SameStack.keepsMode_next (setReg_keepsStack s _ _)
  | mfvl f =>
    exact SameStack.keepsMode_next ((s.useFrom_keepsStack _ _).trans (setReg_keepsStack _ _ _))
  | mtvl f =>
    exact keepsMode_mtvl f s
  | di f | resetq f =>
    unfold exec
    refine keepsMode_withB _ f _ fun _ => ?_
    exact SameStack.refl s
  | mfsel f =>
    unfold exec
    refine keepsMode_withB _ f _ fun b => ?_
    dsimp only
    split
    · trivial
    · exact (s.useFrom_keepsStack _ _).trans (setReg_keepsStack _ f.rt _)
  | mtsel f =>
    unfold exec
    refine keepsMode_withB _ f _ fun _ => ?_
    exact s.writeSelector_keepsStack _ _
  | pushq f =>
    unfold exec
    refine keepsMode_withB _ f _ fun _ => ?_
    exact s.append_keepsStack _ _
  | popq f =>
    unfold exec
    refine keepsMode_withB _ f _ fun _ => ?_
    exact setReg_keepsStack (s.setQueue _ _) f.rt _
  | peekq f | statq f =>
    unfold exec
    refine keepsMode_withB _ f _ fun _ => ?_
    exact setReg_keepsStack s f.rt _
  | tlbrw f =>
    unfold exec
    refine keepsMode_withB _ f _ fun _ => ?_
    exact s.tlbReadWrite_keepsStack f.rt _ _
  | v2bits f =>
    refine keepsMode_withScalarB _ f fun b => ?_
    exact vectorToBits_keepsStack f b s
  | vgidx f =>
    refine keepsMode_withScalarB _ f fun _ => ?_
    exact s.enabledElements_keepsStack f.m fun _ t => setVec_keepsStack t f.rt _ _
  | vcmprss f =>
    exact (s.enabledElements_keepsStack f.m fun _ t => setVec_keepsStack t f.rt _ _).keepsMode_finishSeq _
  | vscan f =>
    exact (s.everyElement_keepsStack fun x t => setVec_keepsStack t f.rt x _).keepsMode_finishSeq _
  | vsllv f | vsrlv f =>
    refine keepsMode_withScalarB _ f fun _ => ?_
    exact s.everyElement_keepsStack fun x t => setVec_keepsStack t f.rt x _
  | veins f =>
    refine keepsMode_withScalarB _ f fun b => ?_
    exact insertElement_keepsStack f b s
  | vex f =>
    exact (extractElement_keepsStack f s).keepsMode_finishSeq _
  | nnaTrig f =>
    unfold exec
    refine keepsMode_withA _ f fun a => ?_
    exact triggerNeurons_keepsStack _ s
  | nnaStat f | clip f | transform f =>
    unfold exec
    refine keepsMode_withA _ f fun _ => ?_
    exact setReg_keepsStack s f.rt _
  | nnaMfact f =>
    unfold exec
    refine keepsMode_withA _ f fun a => ?_
    split
    · trivial
    · exact setReg_keepsStack s f.rt _
  | nnaMtwt f | nnaMtin f =>
    unfold exec
    refine keepsMode_withAB _ f fun a b => ?_
    exact arrayWrite_keepsStack f.rt _ a b s
  | nnaMtbias f | nnaMtfb f | nnaMtmc f | nnaMtbc f =>
    unfold exec
    refine keepsMode_withAB _ f fun _ _ => ?_
    exact SameStack.refl s
  | rwCoeff f =>
    unfold exec
    refine keepsMode_withAB _ f fun a b => ?_
    exact exchangeCoefficient_keepsStack f.rt a b s

/-- Settles O10, by what each instruction does to the mode stack. -/
theorem userModeLeftByTraps : Obligations.UserModeLeftByTraps := by
  unfold Obligations.UserModeLeftByTraps
  exact fun i s t hu => exec_keepsMode i hu t

end Sys2Proof.Machine
end

section
/-! The reset line's values and the invariant of the state after reset. -/

namespace Sys2Proof.Machine

/-- A vector of equal entries reads that entry. -/
theorem vector_get_replicate {α : Type} {n : Nat} (x : α) (i : Fin n) : (Vector.replicate n x).get i = x :=
  Vector.getElem_replicate i.isLt

/-- Settles O7: the registers of the reset state, evaluated. -/
theorem resetValues : Obligations.ResetValues := by
  unfold Obligations.ResetValues
  decide

/-- A neuron with nothing written is well formed. -/
theorem resetNeuron_wf : State.resetNeuron.wf :=
  ⟨rfl, rfl, fun _ h => absurd h List.not_mem_nil, fun _ h => absurd h List.not_mem_nil⟩

/-- Settles O8, clause by clause of the invariant. -/
theorem resetInv : Obligations.ResetInv where
  memory := reset_memory_wf
  addresses := fun _ h => absurd h List.not_mem_nil
  tlb := rfl
  ways := fun _ h => absurd h List.not_mem_nil
  r0 := rfl
  v0 := vector_get_replicate _ 0
  reservation := rfl
  vlmax := by decide
  length := Nat.zero_le _
  lengths := fun _ h => absurd h List.not_mem_nil
  queues := fun q => by
    rw [show State.reset.queues.get q = [] from vector_get_replicate [] q]
    exact Nat.zero_le _
  neurons := fun n => by
    rw [show State.reset.nna.get n = State.resetNeuron from vector_get_replicate _ n]
    exact resetNeuron_wf

end Sys2Proof.Machine
end

section
/-! Trap entries: the fields that they write, the vector that they go to, and what they leave. -/

namespace Sys2Proof.Machine

/-! ### The fields of a trap entry -/

/-- A push: the low bits of a stack above a new entry are the stack shifted up, with the entry. -/
theorem push_eq {n k : Nat} (x : BitVec (n + k)) (e : BitVec k) :
    x.extractLsb' 0 n ++ e = (x <<< k) ||| e.setWidth (n + k) := by
  apply BitVec.eq_of_getLsbD_eq
  intro i hi
  simp only [BitVec.getLsbD_or, BitVec.getLsbD_shiftLeft, BitVec.getLsbD_append, BitVec.getLsbD_extractLsb',
    BitVec.getLsbD_setWidth, hi, decide_true, Bool.true_and]
  by_cases hlow : i < k
  · simp [hlow]
  · rw [if_neg hlow, decide_eq_true (show i - k < n by omega), BitVec.getLsbD_of_ge e i (by omega), Nat.zero_add]
    simp [hlow]

/-- The fields of M_DBCR after the single-step bit is pushed (60 R1020 g, 10_state R100). -/
theorem pushSingleStep_fields (dbcr : Word) : (pushSingleStep dbcr).getLsbD 63 = false ∧
    (pushSingleStep dbcr).extractLsb' 55 8 = dbcr.extractLsb' 55 7 ++ dbcr.extractLsb' 63 1 ∧
    (pushSingleStep dbcr).extractLsb' 0 55 = dbcr.extractLsb' 0 55 := by
  unfold pushSingleStep
  refine ⟨?_, ?_, ?_⟩
  · rw [BitVec.getLsbD_append, if_neg (by decide), BitVec.getLsbD_append, if_neg (by decide), BitVec.getLsbD_append,
      if_neg (by decide)]
    rfl
  · rw [field_high _ _ 55 8 (by omega), BitVec.append_assoc, BitVec.extractLsb'_cast, field_low _ _ _ 8 (by omega),
      field_whole]
  · rw [field_low _ _ 0 55 (by omega), field_whole]

/-- The fields of M_CR0 after its debug bit is set (10_state R93). -/
theorem setDebugBit_fields (cr0 : Word) (b : Bool) : (setDebugBit cr0 b).getLsbD 63 = b ∧
    (setDebugBit cr0 b).extractLsb' 0 63 = cr0.extractLsb' 0 63 := by
  unfold setDebugBit
  refine ⟨?_, ?_⟩
  · rw [BitVec.getLsbD_append, if_neg (by decide)]
    cases b <;> rfl
  · rw [field_low _ _ 0 63 (by omega), field_whole]

/-- The vector of a mode in the terms of 60 R1021. -/
theorem vectorOf_eq (c : CodeAddr) (m : BitVec 2) :
    vectorOf c m = ⟨(c.off &&& ~~~0xFF#64) + 0x20#64 * m.setWidth 64, c.sel⟩ := by
  have haligned : c.off.extractLsb' 8 56 ++ 0#8 = c.off &&& ~~~0xFF#64 := by
    rw [show ~~~0xFF#64 = BitVec.allOnes 56 ++ 0#8 from rfl]
    apply BitVec.eq_of_getLsbD_eq
    intro i hi
    rw [BitVec.getLsbD_and, BitVec.getLsbD_append, BitVec.getLsbD_append, BitVec.getLsbD_extractLsb']
    by_cases hlow : i < 8
    · rw [if_pos hlow, if_pos hlow, BitVec.getLsbD_zero, Bool.and_false]
    · rw [if_neg hlow, if_neg hlow, BitVec.getLsbD_allOnes, decide_eq_true (show i - 8 < 56 by omega), Bool.true_and,
        Bool.and_true, show 8 + (i - 8) = i by omega]
  unfold vectorOf
  rw [haligned]

namespace State

variable {s u v : State} {t : TrapInfo}

/-- CS and its descriptor as a trap entry saves them. -/
theorem saveForTrap_selector (s : State) (t : TrapInfo) : (s.saveForTrap t).selector 7 = ⟨s.cs, s.csDesc⟩ := by
  have h := s.saveForTrap_codeAddr t 7#3
  rw [if_neg (by decide)] at h
  exact congrArg (fun c : CodeAddr => SegReg.mk c.sel s.csDesc) h

/-- M_BADADDR after the saving of a trap entry (60 R1020). -/
theorem saveForTrap_badaddr (s : State) (t : TrapInfo) : (s.saveForTrap t).csr.badaddr =
    (match t.badAddr with
      | some a => s.csr.badaddr.set 3 a
      | none => s.csr.badaddr) := rfl

/-- What a trap entry has left where it answers with descriptor d, from a draw of free values (60 R1020, 70_reset
R1093). -/
theorem saveForTrap_jump_keeps (s : State) (t : TrapInfo) (k n : Nat) (c : CodeAddr) (d : Descriptor) :
    s.TrapKeeps
      ((putSelector { ({ s with draw := k }.saveForTrap t) with draw := n } 7 ⟨c.sel, some d⟩).setIp c.off) :=
  rfl

/-- A trap entry that answers changes only what `TrapKeeps` leaves out. -/
theorem takeTrap_keeps (h : s.takeTrap t = .ok () v) : s.TrapKeeps v := by
  obtain ⟨k, hk⟩ := s.useTvec_frame 3
  unfold takeTrap jumpFar at h
  dsimp only at h
  rw [hk] at h
  cases hl : ({ s with draw := k }.saveForTrap t).loadDescriptor (vectorOf (s.useTvec 3).1 s.om).sel false with
  | ok d u =>
    obtain ⟨n, rfl⟩ := loadDescriptor_frame _ _ false d u hl
    rw [hl] at h
    cases h
    exact saveForTrap_jump_keeps s t k n _ d
  | trap e u =>
    rw [hl] at h
    cases h
  | stop e =>
    rw [hl] at h
    cases h

/-- With TVEC settled, a trap entry whose descriptor loads keeps the old pair of CS for uses before MEMSB (70_reset
R1093). -/
theorem takeTrap_of_load {d : Descriptor} (hs : s.pending.tvec = [])
    (hl : (s.saveForTrap t).loadDescriptor (s.csr.tvec.get 3).sel false = .ok d u) :
    ∃ v, s.takeTrap t = .ok () v ∧ Jumped (s.saveForTrap t) v (vectorOf (s.csr.tvec.get 3) s.om) d ∧
      v.pending.sel = notePending s.pending.sel 7 ⟨s.cs, s.csDesc⟩ ⟨(s.csr.tvec.get 3).sel, some d⟩ := by
  have hv := jumpFar_ok _ (vectorOf (s.csr.tvec.get 3) s.om) d u hl
  have hj := jumped_of_load _ (vectorOf (s.csr.tvec.get 3) s.om) d u hl
  obtain ⟨n, rfl⟩ := loadDescriptor_frame _ _ false d u hl
  refine ⟨_, ?_, hj, ?_⟩
  · unfold takeTrap
    rw [useTvec_settled s 3 hs]
    exact hv
  · exact congrArg (notePending s.pending.sel 7 · _) (s.saveForTrap_selector t)

/-- With TVEC settled, a trap entry goes to the vector of the mode at the moment of the trap (60 R1021). -/
theorem takeTrap_vector (hs : s.pending.tvec = []) (h : s.takeTrap t = .ok () v) :
    v.codeAddr 7 = vectorOf (s.csr.tvec.get 3) s.om := by
  obtain ⟨k, d, hj⟩ := s.takeTrap_inv t v h
  rw [hj.target, useTvec_settled s 3 hs]
  rfl

end State

/-- Settles O14, from the bits of the aligned address and the jump of a trap entry. -/
theorem vectorAddress : Obligations.VectorAddress := by
  unfold Obligations.VectorAddress
  refine ⟨vectorOf_eq, fun sel => ?_, fun s v t => State.takeTrap_vector⟩
  simp only [vectorOf_eq, CodeAddr.mk.injEq, and_true]
  decide

/-! ### A return right after a trap -/

/-- The fields of a low field are fields of the word. -/
theorem field_of_low {a : Nat} (x : BitVec a) (len lo n : Nat) (h : lo + n ≤ len) :
    (x.extractLsb' 0 len).extractLsb' lo n = x.extractLsb' lo n := by
  apply BitVec.eq_of_getLsbD_eq
  intro i hi
  simp only [BitVec.getLsbD_extractLsb', decide_eq_true hi, decide_eq_true (show lo + i < len by omega), Bool.true_and,
    Nat.zero_add]

/-- The single-step bit pushed and popped: only the oldest entry is lost (60 R1020 g, 60 R1024). -/
theorem popSingleStep_push (dbcr : Word) :
    popSingleStep (pushSingleStep dbcr) = dbcr.extractLsb' 63 1 ++ 0#1 ++ dbcr.extractLsb' 0 62 := by
  unfold popSingleStep pushSingleStep
  rw [field_low _ _ 0 55 (by omega), field_high _ _ 55 1 (by omega), field_low _ _ _ 1 (by omega),
    field_high _ _ 56 7 (by omega), field_high _ _ _ 7 (by omega), field_low _ _ _ 7 (by omega), field_whole,
    field_whole, field_whole]
  apply BitVec.eq_of_getLsbD_eq
  intro i hi
  simp only [BitVec.getLsbD_append, BitVec.getLsbD_extractLsb', BitVec.getLsbD_zero]
  by_cases hlow : i < 55
  · simp [hlow, show i < 62 by omega]
  · by_cases hmid : i < 62
    · simp [hlow, hmid, show i - 55 < 7 by omega, show 55 + (i - 55) = i by omega]
    · simp [hlow, hmid, show ¬ i - 55 < 7 by omega, show i - 55 - 7 = i - 62 by omega]

/-- The debug bit set and set again (10_state R93). -/
theorem setDebugBit_setDebugBit (cr0 : Word) (b c : Bool) : setDebugBit (setDebugBit cr0 b) c = setDebugBit cr0 c := by
  unfold setDebugBit
  rw [field_low _ _ 0 63 (by omega), field_whole]

namespace State

variable {s u v : State}

/-- What a return has left where it answers with descriptor d and a draw of free values. -/
theorem restoreFromTrap_jump_keeps (s : State) (k : BitVec 6) (n : Nat) (c : CodeAddr) (d : Descriptor) :
    s.ReturnKeeps ((putSelector { (s.restoreFromTrap k) with draw := n } 7 ⟨c.sel, some d⟩).setIp c.off) :=
  rfl

/-- A return that answers changes only what `ReturnKeeps` leaves out (47 R844, 60 R1024). -/
theorem returnFromTrap_keeps {offset : BitVec 12} {k : BitVec 6} (h : s.returnFromTrap offset k = .ok () v) :
    s.ReturnKeeps v := by
  unfold returnFromTrap jumpFar at h
  dsimp only at h
  cases hl : (s.restoreFromTrap k).loadDescriptor (s.codeAddr 6).sel false with
  | ok d u =>
    obtain ⟨n, rfl⟩ := loadDescriptor_frame _ _ false d u hl
    rw [hl] at h
    cases h
    exact restoreFromTrap_jump_keeps s k n _ d
  | trap e u =>
    rw [hl] at h
    cases h
  | stop e =>
    rw [hl] at h
    cases h

/-- What a trap entry and then a return leave, the semaphores apart, a trap entry leaves. -/
theorem TrapKeeps.trans_return (ht : s.TrapKeeps u) (hr : u.ReturnKeeps v) : s.TrapKeeps { v with sema := s.sema } := by
  unfold TrapKeeps at ht ⊢
  have kept {α : Type} (p : State → α) := congrArg p ht
  have hsema : u.sema = s.sema := kept State.sema
  rw [← hsema]
  exact (congrArg (fun q : State => { q with
    creg := s.creg, csDesc := s.csDesc, draw := s.draw, pending := { q.pending with sel := s.pending.sel }
    mode := { q.mode with
      pmStack := s.mode.pmStack, hkind := s.mode.hkind, dbg := s.mode.dbg, diCount := s.mode.diCount
      stepPending := s.mode.stepPending, waiting := s.mode.waiting }
    csr := { q.csr with
      cause := s.csr.cause, badaddr := s.csr.badaddr, badInstr := s.csr.badInstr, dbcr := s.csr.dbcr
      cr0 := s.csr.cr0 } }) hr).trans ht

/-- The current mode entry below an entry shifted in at the top. -/
theorem entry_of_restored {m : Word} (lo n : Nat) (hn : lo + n ≤ 56) {x : BitVec 8}
    (h : m = x ++ s.mode.pmStack.extractLsb' 0 56) :
    m.extractLsb' lo n = s.mode.pmStack.extractLsb' lo n := by
  rw [h, field_low _ _ lo n (by omega), field_of_low _ 56 lo n hn]

end State

/-- Settles O16, from the states that the entry's jump and the return's jump leave. -/
theorem trapThenReturn : Obligations.TrapThenReturn := by
  unfold Obligations.TrapThenReturn
  intro s u v t offset k hu hv
  obtain ⟨n, d, hentry⟩ := State.takeTrap_inv _ _ _ hu
  obtain ⟨e, hreturn⟩ := State.returnFromTrap_inv _ _ _ _ hv
  have entered {α : Type} (p : State → α) := congrArg p hentry.frame
  have returned {α : Type} (p : State → α) := congrArg p hreturn.frame
  have hc6 : u.codeAddr 6 = ⟨t.epc, s.cs⟩ :=
    (hentry.others 6#3 (by decide)).trans ((State.saveForTrap_codeAddr _ t 6#3).trans (if_pos rfl))
  have hstack : v.mode.pmStack = 0x3F#8 ++ s.mode.pmStack.extractLsb' 0 56 := by
    refine (returned fun q => q.mode.pmStack).trans (congrArg (0x3F#8 ++ ·) ?_)
    exact (entered fun q => q.mode.pmStack.extractLsb' 8 56).trans (State.saveForTrap_pushed _ t)
  refine ⟨?_, State.entry_of_restored 4 2 (by omega) hstack, State.entry_of_restored 1 3 (by omega) hstack,
    State.entry_of_restored 0 1 (by omega) hstack, hstack, ?_, ?_, ?_, ?_, fun m h6 h7 => ?_, fun j => ?_,
    (State.takeTrap_keeps hu).trans_return (State.returnFromTrap_keeps hv)⟩
  · rw [hreturn.target, hc6]
  · refine (returned fun q => q.mode.hkind).trans (congrArg (0#1 ++ ·) ?_)
    refine (entered fun q => q.mode.hkind.extractLsb' 1 7).trans ?_
    exact (field_high _ _ 1 7 (by omega)).trans (field_whole _)
  · refine (returned fun q => q.mode.dbg).trans ?_
    exact (entered fun q => q.csr.cr0.getLsbD 63).trans (setDebugBit_fields _ _).1
  · refine (returned fun q => q.csr.dbcr).trans ?_
    exact (entered fun q => popSingleStep q.csr.dbcr).trans (popSingleStep_push _)
  · refine (returned fun q => q.csr.cr0).trans ?_
    exact (entered fun q => setDebugBit q.csr.cr0 false).trans (setDebugBit_setDebugBit _ _ false)
  · refine (hreturn.others m h7).trans ((hentry.others m h7).trans ?_)
    exact (State.saveForTrap_codeAddr _ t m).trans (if_neg h6)
  · refine (returned fun q => q.sema.getLsbD j).trans ((clearSemaphores_getLsbD u.sema k j).trans ?_)
    rw [show u.sema = s.sema from entered State.sema]

end Sys2Proof.Machine

namespace Sys2Proof

open Machine

/-- Settles O13, from the fields of the saved state and the jump to the vector. -/
theorem trapEntry : Obligations.TrapEntry := by
  unfold Obligations.TrapEntry
  refine ⟨fun s u t d hs hl => ?entry, fun s v t => State.takeTrap_keeps, fun _ _ _ => rfl, fun s v c e h => ?raise,
    fun _ => rfl, ?causes⟩
  case entry =>
    obtain ⟨v, hv, hj, hsel⟩ := State.takeTrap_of_load hs hl
    have kept {α : Type} (p : State → α) := congrArg p hj.frame
    obtain ⟨hstep, hhistory, hrest⟩ := pushSingleStep_fields s.csr.dbcr
    obtain ⟨hdebug, hcr0⟩ := setDebugBit_fields s.csr.cr0 s.mode.dbg
    refine ⟨v, hv, ?_, hj.target.trans (vectorOf_eq _ _), fun n h6 h7 => ?_, hj.descriptor,
      (kept fun q => q.mode.pmStack).trans (push_eq (n := 56) (k := 8) _ _), kept fun q => q.csr.cause,
      kept fun q => q.csr.badInstr, kept fun q => q.csr.badaddr, kept fun q => q.mode.diCount,
      (kept fun q => q.csr.dbcr.getLsbD 63).trans hstep, (kept fun q => q.csr.dbcr.extractLsb' 55 8).trans hhistory,
      (kept fun q => q.csr.dbcr.extractLsb' 0 55).trans hrest, (kept fun q => q.csr.cr0.getLsbD 63).trans hdebug,
      (kept fun q => q.csr.cr0.extractLsb' 0 63).trans hcr0, kept fun q => q.mode.dbg,
      (kept fun q => q.mode.hkind).trans (push_eq (n := 7) (k := 1) _ _), kept fun q => q.mode.stepPending,
      kept fun q => q.mode.waiting, hsel, State.takeTrap_keeps hv⟩
    · exact (hj.others 6#3 (by decide)).trans ((s.saveForTrap_codeAddr t 6#3).trans (if_pos rfl))
    · exact (hj.others n h7).trans ((s.saveForTrap_codeAddr t n).trans (if_neg h6))
  case raise =>
    have ht := s.raise_inv c e v h
    obtain ⟨k, d, hj⟩ := State.takeTrap_inv _ _ v ht
    have kept {α : Type} (p : State → α) := congrArg p hj.frame
    refine ⟨?_, kept fun q => q.csr.badInstr,
      (kept fun q => q.csr.cause.get 3).trans (vector_get_set _ 3 (by decide) _ 3), kept fun q => q.mode.dbg,
      (kept fun q => q.mode.hkind.getLsbD 0).trans ?_,
      (kept State.ipl).trans (State.saveForTrap_ipl _ _), (kept State.om).trans (State.saveForTrap_om _ _),
      (kept State.im).trans (State.saveForTrap_im _ _), fun a ha => (kept fun q => q.csr.badaddr.get 3).trans ?_,
      fun ha => (kept fun q => q.csr.badaddr).trans ?_, State.takeTrap_keeps ht⟩
    · exact (hj.others 6#3 (by decide)).trans ((State.saveForTrap_codeAddr _ _ 6#3).trans (if_pos rfl))
    · show (s.mode.hkind.extractLsb' 0 7 ++ BitVec.ofBool false).getLsbD 0 = false
      rw [BitVec.getLsbD_append, if_pos (by decide)]
      rfl
    · rw [State.saveForTrap_badaddr]
      dsimp only
      rw [ha]
      exact vector_get_set _ 3 (by decide) a 3
    · rw [State.saveForTrap_badaddr]
      dsimp only
      rw [ha]
      rfl
  case causes => decide

end Sys2Proof
end

section
/-! Hazards: what a use of VL, TVEC or a selector can get before its barrier. -/

namespace Sys2Proof.Machine

/-- A note keeps what was noted before. -/
theorem mem_notePending_of_mem {κ α : Type} [DecidableEq κ] [DecidableEq α] {l : List (κ × α)} {e : κ × α}
    (h : e ∈ l) (k : κ) (old new : α) : e ∈ notePending l k old new := by
  unfold notePending
  split
  · exact h
  · exact List.mem_cons_of_mem _ h

/-- What is noted is the old value or was noted before. -/
theorem mem_or_eq_of_mem_notePending {κ α : Type} [DecidableEq κ] [DecidableEq α] {l : List (κ × α)} {e : κ × α}
    {k : κ} {old new : α} (h : e ∈ notePending l k old new) : e ∈ l ∨ e = (k, old) := by
  unfold notePending at h
  split at h
  · exact .inl h
  · exact (List.mem_cons.mp h).symm

/-- An old value that differs from the new one is noted. -/
theorem old_mem_notePending {κ α : Type} [DecidableEq κ] [DecidableEq α] (l : List (κ × α)) (k : κ) {old new : α}
    (h : old ≠ new) : (k, old) ∈ notePending l k old new := by
  unfold notePending
  split
  next hor => exact hor.resolve_left h
  next => exact List.mem_cons_self

/-- The low half of a word, as a change of width. -/
theorem low32_eq_setWidth (w : Word) : w.extractLsb' 0 32 = w.setWidth 32 := by
  apply BitVec.eq_of_getLsbD_eq
  intro i hi
  rw [BitVec.getLsbD_extractLsb', BitVec.getLsbD_setWidth, Nat.zero_add]

/-- A selector widened and cut again. -/
theorem selector_cut (sel : Selector) : (sel.setWidth 64).setWidth 32 = sel := by
  rw [BitVec.setWidth_setWidth_of_le _ (by decide), BitVec.setWidth_eq]

namespace State

variable (s : State)

/-- A use with kept values under a key gives the register's value or one kept under the key (70_reset R1090). -/
theorem useFrom_kept {κ α : Type} [DecidableEq κ] (l : List (κ × α)) (k : κ) (new : α) :
    (s.useFrom (pendingFor l k) new).1 = new ∨ (k, (s.useFrom (pendingFor l k) new).1) ∈ l :=
  (List.mem_cons.mp (s.useFrom_mem (pendingFor l k) new)).imp_right (mem_pendingFor l k _).mp

/-- A use changes the draw counter at most. -/
theorem useFrom_unchanged {α : Type} (olds : List α) (new : α) :
    { (s.useFrom olds new).2 with draw := s.draw } = s := by
  obtain ⟨k, hk⟩ := s.useFrom_frame olds new
  rw [hk]

/-- A new length is kept in VL, the old one beside those kept before (70_reset R1091). -/
theorem setVl_pending {n : BitVec 8} (h : s.vl ≠ n) :
    s.vl ∈ (s.setVl n).pending.vl ∧ ∀ m ∈ (s.setVl n).pending.vl, m = s.vl ∨ m ∈ s.pending.vl := by
  by_cases hold : s.vl ∈ s.pending.vl
  · have hsame : (s.setVl n).pending.vl = s.pending.vl := if_pos (.inr hold)
    rw [hsame]
    exact ⟨hold, fun m => .inr⟩
  · have hnoted : (s.setVl n).pending.vl = s.vl :: s.pending.vl := if_neg (not_or.mpr ⟨h, hold⟩)
    rw [hnoted]
    exact ⟨List.mem_cons_self, fun m => List.mem_cons.mp⟩

/-- A use of a whole TVEC entry takes each half from a register or from the values kept for it (70_reset R1092). -/
theorem useTvec_halves (n : BitVec 2) :
    ((s.useTvec n).1.off = (s.csr.tvec.get n.toFin).off ∨ (n ++ 0#1, (s.useTvec n).1.off) ∈ s.pending.tvec) ∧
      ∃ w, (w = (s.csr.tvec.get n.toFin).sel.setWidth 64 ∨ (n ++ 1#1, w) ∈ s.pending.tvec) ∧
        (s.useTvec n).1.sel = w.setWidth 32 := by
  refine ⟨s.useFrom_kept _ _ _, ((s.useTvecLow n).2.useTvecHigh n).1, ?_, rfl⟩
  obtain ⟨k, hk⟩ := s.useFrom_frame (pendingFor s.pending.tvec (n ++ 0#1)) (s.csr.tvec.get n.toFin).off
  have hlow : (s.useTvecLow n).2 = { s with draw := k } := hk
  rw [hlow]
  exact useFrom_kept _ _ _ _

/-- A use of a whole TVEC entry changes the draw counter at most. -/
theorem useTvec_unchanged (n : BitVec 2) : { (s.useTvec n).2 with draw := s.draw } = s := by
  obtain ⟨k, hk⟩ := s.useTvec_frame n
  rw [hk]

/-- The start of a fetch uses CS once and keeps what it got for the whole fetch (70_reset R1093, log 10). -/
theorem beginFetch_uses : s.beginFetch.fetching.marks = [] ∧
    { s.beginFetch with draw := s.draw, fetching := s.fetching } = s ∧
    (s.beginFetch.fetching.cs = s.selector 7 ∨ (7, s.beginFetch.fetching.cs) ∈ s.pending.sel) ∧
    ∀ va bs u, s.fetchInstruction va = .ok bs u → u.fetching.cs = s.fetching.cs := by
  obtain ⟨k, hk⟩ := s.beginFetch_frame
  refine ⟨?_, ?_, s.useFrom_kept _ _ _, fun va bs u h => ?_⟩
  · rw [hk]
  · rw [hk]
  · have htouched := s.fetchInstruction_touched va
    rw [h] at htouched
    have kept {α : Type} (p : State → α) := congrArg p htouched.frame
    exact kept fun q => q.fetching.cs

/-- A new pair put into a selector register leaves the old one kept (70_reset R1093). -/
theorem putSelector_pending (n : Nat) {r : SegReg} (h : s.selector n ≠ r) :
    (n, s.selector n) ∈ (s.putSelector n r).pending.sel := by
  have hnoted := old_mem_notePending s.pending.sel n h
  unfold putSelector
  split
  · exact hnoted
  · split
    · exact hnoted
    · split <;> exact hnoted

end State

/-- MTVL with a new length keeps the old one until SYNC (70_reset R1091). -/
theorem exec_mtvl_pending (f : Fmt.VM) (s : State) (hle : (s.reg (f.hi ++ f.mid)).toNat ≤ s.config.vlmax)
    (hne : s.vl ≠ (s.reg (f.hi ++ f.mid)).extractLsb' 0 8) : ∃ t, exec (.mtvl f) s = .next t ∧
      t.vl = (s.reg (f.hi ++ f.mid)).extractLsb' 0 8 ∧ s.vl ∈ t.pending.vl ∧
      ∀ n ∈ t.pending.vl, n = s.vl ∨ n ∈ s.pending.vl :=
  ⟨_, if_neg (Nat.not_lt.mpr hle), rfl, s.setVl_pending hne⟩

/-- A trap entry goes to a vector whose TVEC halves are the register's or kept ones (70_reset R1092). -/
theorem takeTrap_vector_pending {s v : State} {t : TrapInfo} (h : s.takeTrap t = .ok () v) :
    ∃ off w, (off = (s.csr.tvec.get 3).off ∨ (3#2 ++ 0#1, off) ∈ s.pending.tvec) ∧
      (w = (s.csr.tvec.get 3).sel.setWidth 64 ∨ (3#2 ++ 1#1, w) ∈ s.pending.tvec) ∧
      v.codeAddr 7 = vectorOf ⟨off, w.setWidth 32⟩ s.om := by
  obtain ⟨hlow, w, hhigh, hsel⟩ := s.useTvec_halves 3#2
  obtain ⟨k, d, hj⟩ := s.takeTrap_inv t v h
  refine ⟨_, w, hlow, hhigh, ?_⟩
  rw [hj.target, ← hsel]
  rfl

/-- A write of a new low half of TVEC keeps the old half beside those kept before (70_reset R1092). -/
theorem csrWrite_tvecLow_pending {s t : State} {n : BitVec 2} {w : Word}
    (h : s.csrWrite (.tvecLow n) w = .ok () t) : (∀ e ∈ s.pending.tvec, e ∈ t.pending.tvec) ∧
      (∀ e ∈ t.pending.tvec, e ∈ s.pending.tvec ∨ e = (n ++ 0#1, (s.csr.tvec.get n.toFin).off)) ∧
      ((s.csr.tvec.get n.toFin).off ≠ w → (n ++ 0#1, (s.csr.tvec.get n.toFin).off) ∈ t.pending.tvec) := by
  cases h
  exact ⟨fun e he => mem_notePending_of_mem he _ _ _, fun e => mem_or_eq_of_mem_notePending,
    fun hne => old_mem_notePending _ _ hne⟩

/-- A write of a new high half of TVEC keeps the old half beside those kept before (70_reset R1092). -/
theorem csrWrite_tvecHigh_pending {s t : State} {n : BitVec 2} {w : Word}
    (h : s.csrWrite (.tvecHigh n) w = .ok () t) : (∀ e ∈ s.pending.tvec, e ∈ t.pending.tvec) ∧
      (∀ e ∈ t.pending.tvec, e ∈ s.pending.tvec ∨ e = (n ++ 1#1, (s.csr.tvec.get n.toFin).sel.setWidth 64)) ∧
      ((s.csr.tvec.get n.toFin).sel ≠ w.setWidth 32 →
        (n ++ 1#1, (s.csr.tvec.get n.toFin).sel.setWidth 64) ∈ t.pending.tvec) := by
  cases h
  refine ⟨fun e he => mem_notePending_of_mem he _ _ _, fun e => mem_or_eq_of_mem_notePending,
    fun hne => old_mem_notePending _ _ fun heq => hne ?_⟩
  rw [← low32_eq_setWidth, ← selector_cut (s.csr.tvec.get n.toFin).sel, heq, selector_cut]

/-- Settles O59, use by use and barrier by barrier. -/
theorem hazards : Obligations.Hazards := by
  unfold Obligations.Hazards
  refine ⟨exec_mtvl_pending, fun s => ⟨?length, s.useFrom_unchanged _ _, s.useVl_settled⟩, fun s n => ?tvec,
    fun s t n w => ⟨csrWrite_tvecLow_pending, csrWrite_tvecHigh_pending⟩, State.beginFetch_uses,
    fun s n => ⟨s.useFrom_kept _ _ _, s.useFrom_unchanged _ _, s.useSelector_settled n⟩,
    fun s n r => s.putSelector_pending n, fun f s t => ⟨fun h => ?sync, fun h => ?memsb⟩⟩
  case length => exact List.mem_cons.mp (s.useFrom_mem s.pending.vl s.vl)
  case tvec =>
    obtain ⟨hlow, hhigh⟩ := s.useTvec_halves n
    refine ⟨s.useFrom_kept _ _ _, s.useFrom_unchanged _ _, s.useFrom_kept _ _ _, s.useFrom_unchanged _ _, hlow, hhigh,
      s.useTvec_unchanged n, s.useTvec_settled n, fun hn t v h => ?_⟩
    subst hn
    exact takeTrap_vector_pending h
  case sync =>
    cases h
    exact ⟨rfl, rfl⟩
  case memsb =>
    cases h
    rfl

end Sys2Proof.Machine
end

section
/-! The mask registers: the instructions of the mask group, MTVL and MFVL. -/

namespace Sys2Proof.Machine

/-! ### Scans of a mask -/

/-- VMFIRST of a mask without a one (48 R914). -/
theorem maskFirst_zero : maskFirst 0 = 65536 := rfl

/-- VMLAST of a mask without a one (48 R915). -/
theorem maskLast_zero : maskLast 0 = 65536 := rfl

/-- VMFIRST gives the lowest one (48 R914). -/
theorem maskFirst_of_lowest {w : Word} {i : Nat} (hset : w.getLsbD i = true) (hlow : ∀ j < i, w.getLsbD j = false) :
    maskFirst w = BitVec.ofNat 64 i := by
  have hfind : ((List.range 64).find? fun i => w.getLsbD i) = some i :=
    List.find?_range_eq_some.mpr ⟨hset, List.mem_range.mpr (BitVec.lt_of_getLsbD hset), fun j hj => by
      rw [hlow j hj]
      rfl⟩
  unfold maskFirst
  rw [hfind]

/-- VMLAST gives the highest one (48 R915). -/
theorem maskLast_of_highest {w : Word} {i : Nat} (hset : w.getLsbD i = true)
    (hhigh : ∀ j, i < j → w.getLsbD j = false) : maskLast w = BitVec.ofNat 64 i := by
  have hlt : i < 64 := BitVec.lt_of_getLsbD hset
  have hback : 63 - (63 - i) = i := by omega
  have hfind : ((List.range 64).find? fun k => w.getLsbD (63 - k)) = some (63 - i) := by
    refine List.find?_range_eq_some.mpr ⟨?_, List.mem_range.mpr (by omega), fun j hj => ?_⟩
    · rw [hback]
      exact hset
    · rw [hhigh (63 - j) (by omega)]
      rfl
  unfold maskLast
  rw [hfind]
  exact congrArg (BitVec.ofNat 64) hback

/-! ### VMFILL -/

/-- VMFILL sets the bits from Mb to Me (48 R918). -/
theorem maskRange_getLsbD (free : Word) {mb me : BitVec 6} (h : mb ≤ me) {i : Nat} (hi : i < 64) :
    (maskRange free mb me).getLsbD i = (decide (mb.toNat ≤ i) && decide (i ≤ me.toNat)) := by
  unfold maskRange
  rw [if_neg (BitVec.not_lt.mpr h)]
  exact bitsOf_getLsbD _ 64 i hi

/-! ### The mask registers -/

/-- A mask register after a write of one. -/
theorem State.setMask_mask (s : State) (n k : BitVec 3) (w : Word) :
    (s.setMask n w).mask k = if n = k then w else s.mask k :=
  (vector_get_set s.masks n.toNat n.isLt w k.toFin).trans (ite_cond_congr (propext BitVec.toNat_inj))

/-- MFVL with no old length kept gives VL (48 R900). -/
theorem exec_mfvl_settled (f : Fmt.VM) {s : State} (h : s.pending.vl = []) :
    exec (.mfvl f) s = .next (s.result 4 (f.mid ++ f.lo) (s.vl.setWidth 64)) := by
  unfold exec execMfvl
  rw [s.useVl_settled h]
  rfl

/-- VMFIRST writes the scan from below (48 R914). -/
theorem exec_vmfirst (f : Fmt.VM) (s : State) :
    exec (.vmfirst f) s = .next (s.result 4 (f.mid ++ f.lo) (maskFirst (s.mask f.hi))) := rfl

/-- VMLAST writes the scan from above (48 R915). -/
theorem exec_vmlast (f : Fmt.VM) (s : State) :
    exec (.vmlast f) s = .next (s.result 4 (f.mid ++ f.lo) (maskLast (s.mask f.hi))) := rfl

/-- Settles O54, instruction by instruction. -/
theorem masks : Obligations.Masks := by
  unfold Obligations.Masks
  refine ⟨fun f s => ⟨rfl, rfl, fun h => if_pos h, fun h => ⟨_, if_neg (Nat.not_lt.mpr h)⟩, exec_mfvl_settled f, rfl,
    rfl, rfl, rfl, rfl, rfl, fun hzero => ⟨?firstOfZero, ?lastOfZero⟩, fun i hset => ⟨fun h => ?first, fun h => ?last⟩⟩,
    fun f s => ⟨rfl, rfl⟩,
    fun f s => ⟨maskRange (s.free 0) f.mb f.me, rfl, fun h i => maskRange_getLsbD _ h, fun h => if_pos h⟩,
    State.setMask_mask⟩
  case firstOfZero => rw [exec_vmfirst, hzero, maskFirst_zero]
  case lastOfZero => rw [exec_vmlast, hzero, maskLast_zero]
  case first => rw [exec_vmfirst, maskFirst_of_lowest hset h]
  case last => rw [exec_vmlast, maskLast_of_highest hset h]

end Sys2Proof.Machine
end

section
/-! The cryptographic functions and BLEND. -/

namespace Sys2Proof.Machine

/-- A bit of a rotation to the right (49 R931). -/
theorem rotateRight_getLsbD {w : Nat} (x : BitVec w) (n : Nat) {i : Nat} (hi : i < w) :
    (x.rotateRight n).getLsbD i = x.getLsbD ((i + n) % w) := by
  have hn : n % w < w := Nat.mod_lt _ (by omega)
  have hsum : (i + n) % w = (n % w + i) % w := by rw [Nat.mod_add_mod, Nat.add_comm]
  rw [BitVec.getLsbD_rotateRight, hsum]
  by_cases hlow : i < w - n % w
  · rw [decide_eq_true hlow, cond_true,
      Nat.mod_eq_of_lt (show n % w + i < w by omega)]
  · rw [decide_eq_false hlow, cond_false, decide_eq_true hi, Bool.true_and,
      Nat.mod_eq_sub_mod (show w ≤ n % w + i by omega), Nat.mod_eq_of_lt (show n % w + i - w < w by omega),
      show i - (w - n % w) = n % w + i - w by omega]

/-- A bit of a rotation to the left (49 R939). -/
theorem rotateLeft_getLsbD {w : Nat} (x : BitVec w) (n : Nat) {i : Nat} (hi : i < w) :
    (x.rotateLeft n).getLsbD ((i + n) % w) = x.getLsbD i := by
  have hn : n % w < w := Nat.mod_lt _ (by omega)
  have hsum : (i + n) % w = (i + n % w) % w := (Nat.add_mod_mod i n w).symm
  rw [BitVec.getLsbD_rotateLeft, hsum]
  by_cases hwrap : i + n % w < w
  · rw [Nat.mod_eq_of_lt hwrap, decide_eq_false (by omega), cond_false, decide_eq_true hwrap, Bool.true_and,
      Nat.add_sub_cancel]
  · rw [Nat.mod_eq_sub_mod (show w ≤ i + n % w by omega), Nat.mod_eq_of_lt (show i + n % w - w < w by omega),
      decide_eq_true (by omega), cond_true, show w - n % w + (i + n % w - w) = i by omega]

/-- The bits of a function of the low 32 bits: its result, sign-extended (49 R932). -/
theorem low32_getLsbD (g : BitVec 32 → BitVec 32) (a : Word) :
    (∀ i < 32, (low32 g a).getLsbD i = (g (a.setWidth 32)).getLsbD i) ∧
      ∀ i, 32 ≤ i → i < 64 → (low32 g a).getLsbD i = (g (a.setWidth 32)).getLsbD 31 := by
  unfold low32
  rw [low32_eq_setWidth]
  refine ⟨fun i hi => ?_, fun i hlow hi => ?_⟩
  · rw [BitVec.getLsbD_signExtend, if_pos hi, decide_eq_true (by omega), Bool.true_and]
  · rw [BitVec.getLsbD_signExtend, if_neg (by omega), decide_eq_true hi, Bool.true_and, BitVec.msb_eq_getLsbD_last]

/-- Settles O55, instruction by instruction, and the rotations bit by bit. -/
theorem cryptoAndBlend : Obligations.CryptoAndBlend := by
  unfold Obligations.CryptoAndBlend
  refine ⟨⟨fun f => computes_pure (.aes64ds f) _ _ _ (fun _ => rfl) rfl,
      fun f => computes_pure (.aes64dsm f) _ _ _ (fun _ => rfl) rfl,
      fun f => computes_pure (.aes64es f) _ _ _ (fun _ => rfl) rfl,
      fun f => computes_pure (.aes64esm f) _ _ _ (fun _ => rfl) rfl,
      fun f => computes_pure (.sha256sig0 f) _ _ _ (fun _ => rfl) rfl,
      fun f => computes_pure (.sha256sig1 f) _ _ _ (fun _ => rfl) rfl,
      fun f => computes_pure (.sha256sum0 f) _ _ _ (fun _ => rfl) rfl,
      fun f => computes_pure (.sha256sum1 f) _ _ _ (fun _ => rfl) rfl,
      fun f => computes_pure (.sha512sig0 f) _ _ _ (fun _ => rfl) rfl,
      fun f => computes_pure (.sha512sig1 f) _ _ _ (fun _ => rfl) rfl,
      fun f => computes_pure (.sha512sum0 f) _ _ _ (fun _ => rfl) rfl,
      fun f => computes_pure (.sha512sum1 f) _ _ _ (fun _ => rfl) rfl,
      fun f => computes_pure (.sm3p0 f) _ _ _ (fun _ => rfl) rfl,
      fun f => computes_pure (.sm3p1 f) _ _ _ (fun _ => rfl) rfl,
      fun f => computes_pure (.sm4ed f) _ _ _ (fun _ => rfl) rfl,
      fun f => computes_pure (.sm4ks f) _ _ _ (fun _ => rfl) rfl,
      fun f => computes_pure (.blend f) _ _ _ (fun _ => rfl) rfl⟩,
    low32_getLsbD, fun w n i hi => ⟨rotateRight_getLsbD w n hi, rotateLeft_getLsbD w n hi⟩,
    fun a n i hi => rotateRight_getLsbD a n hi⟩

end Sys2Proof.Machine
end

section
/-! The accelerators: the neural network and graphics instructions and the steps of the two engines. -/

namespace Sys2Proof.Machine

/-! ### The forms of an accelerator's instruction -/

/-- The vector form of a one-source instruction of an accelerator is refused (49 R950). -/
theorem withA_refused {f : Fmt.R1} (hv : f.v = 1#1) (c : Ctx) (act : Word → State → Res Unit) (s : State) :
    withA c f act s = .refused .vectorFormRefused := by
  rw [withA, if_pos hv, finishSeq_stop]
  rfl

/-- The scalar form of a one-source instruction of an accelerator does its action. -/
theorem withA_scalar {f : Fmt.R1} (hv : f.v = 0#1) (c : Ctx) (act : Word → State → Res Unit) (s : State) :
    withA c f act s = finishSeq c (act (s.reg f.ra) s) := by
  rw [withA, if_neg (by rw [hv]; decide)]

/-- The vector form of a two-source instruction of an accelerator is refused (49 R950). -/
theorem withAB_refused {f : Fmt.R3} (hv : f.v = 1#1) (c : Ctx) (act : Word → Word → State → Res Unit) (s : State) :
    withAB c f act s = .refused .vectorFormRefused := by
  rw [withAB, if_pos hv, finishSeq_stop]
  rfl

/-- The scalar form of a two-source instruction of an accelerator does its action. -/
theorem withAB_scalar {f : Fmt.R3} {s : State} {b : Word} (hv : f.v = 0#1) (hb : (opnd f.tb f.rb).scalar s = some b)
    (c : Ctx) (act : Word → Word → State → Res Unit) :
    withAB c f act s = finishSeq c (act (s.reg f.ra) b s) := by
  rw [withAB, if_neg (by rw [hv]; decide), hb]

/-- A vector register as B of an accelerator's instruction is refused (93 U30). -/
theorem withAB_vectorOperand {f : Fmt.R3} {s : State} (hv : f.v = 0#1) (hb : (opnd f.tb f.rb).scalar s = none)
    (c : Ctx) (act : Word → Word → State → Res Unit) : withAB c f act s = .refused .vectorOperandInScalar := by
  rw [withAB, if_neg (by rw [hv]; decide), hb, finishSeq_stop]
  rfl

/-! ### The instructions and their actions -/

theorem exec_nnaTrig (f : Fmt.R1) (s : State) : exec (.nnaTrig f) s = withA (Instr.ctx (.nnaTrig f)) f
    (fun a s1 => triggerNeurons (a.extractLsb' 0 8) s1) s := rfl

theorem exec_nnaStat (f : Fmt.R1) (s : State) : exec (.nnaStat f) s = withA (Instr.ctx (.nnaStat f)) f
    (fun _ s1 => .ok () (s1.setReg f.rt (zext (neuronStatus s1)))) s := rfl

theorem exec_nnaMfact (f : Fmt.R1) (s : State) : exec (.nnaMfact f) s = withA (Instr.ctx (.nnaMfact f)) f
    (fun a s1 => if a.getLsbD 3 then .stop (.refuse .neuronNumber)
      else .ok () (s1.setReg f.rt (sext (s1.neuron (a.extractLsb' 0 3)).act))) s := rfl

theorem exec_clip (f : Fmt.R1) (s : State) : exec (.clip f) s = withA (Instr.ctx (.clip f)) f
    (fun a s1 => .ok () (s1.setReg f.rt (clipPoint s1 a))) s := rfl

theorem exec_transform (f : Fmt.R1) (s : State) : exec (.transform f) s = withA (Instr.ctx (.transform f)) f
    (fun a s1 => .ok () (s1.setReg f.rt (transformPoint s1 a))) s := rfl

theorem exec_nnaMtwt (f : Fmt.R3) (s : State) : exec (.nnaMtwt f) s = withAB (Instr.ctx (.nnaMtwt f)) f
    (arrayWrite f.rt Neuron.putWeight) s := rfl

theorem exec_nnaMtin (f : Fmt.R3) (s : State) : exec (.nnaMtin f) s = withAB (Instr.ctx (.nnaMtin f)) f
    (arrayWrite f.rt Neuron.putInput) s := rfl

theorem exec_nnaMtbias (f : Fmt.R3) (s : State) : exec (.nnaMtbias f) s = withAB (Instr.ctx (.nnaMtbias f)) f
    (fun a b s1 => .ok () (s1.updateNeurons (b.extractLsb' 0 8) fun x => { x with bias := a.extractLsb' 0 32 })) s :=
  rfl

theorem exec_nnaMtfb (f : Fmt.R3) (s : State) : exec (.nnaMtfb f) s = withAB (Instr.ctx (.nnaMtfb f)) f
    (fun a b s1 => .ok () (s1.updateNeurons (b.extractLsb' 0 8) fun x => { x with feedback := a.extractLsb' 0 32 }))
    s := rfl

theorem exec_nnaMtmc (f : Fmt.R3) (s : State) : exec (.nnaMtmc f) s = withAB (Instr.ctx (.nnaMtmc f)) f
    (fun a b s1 => .ok () (s1.updateNeurons (b.extractLsb' 0 8) fun x => { x with max := a.extractLsb' 0 16 })) s :=
  rfl

theorem exec_nnaMtbc (f : Fmt.R3) (s : State) : exec (.nnaMtbc f) s = withAB (Instr.ctx (.nnaMtbc f)) f
    (fun a b s1 => .ok () (s1.updateNeurons (b.extractLsb' 0 8) fun x => { x with base := a.extractLsb' 0 16 })) s :=
  rfl

theorem exec_rwCoeff (f : Fmt.R3) (s : State) : exec (.rwCoeff f) s = withAB (Instr.ctx (.rwCoeff f)) f
    (exchangeCoefficient f.rt) s := rfl

/-- The one-source instructions refuse their vector form (49 R950). -/
theorem exec_oneSource_refused {f : Fmt.R1} (hv : f.v = 1#1) (s : State) :
    ∀ i ∈ [Instr.nnaTrig f, .nnaStat f, .nnaMfact f, .clip f, .transform f],
      exec i s = .refused .vectorFormRefused := by
  simp only [List.forall_mem_cons, exec_nnaTrig, exec_nnaStat, exec_nnaMfact, exec_clip, exec_transform,
    withA_refused hv, List.not_mem_nil, false_implies, implies_true, and_self]

/-- The two-source instructions are all one wrapper of their actions. -/
theorem exec_twoSource {f : Fmt.R3} {s : State} {o : Outcome}
    (h : ∀ (c : Ctx) (act : Word → Word → State → Res Unit), withAB c f act s = o) :
    ∀ i ∈ [Instr.nnaMtwt f, .nnaMtin f, .nnaMtbias f, .nnaMtfb f, .nnaMtmc f, .nnaMtbc f, .rwCoeff f],
      exec i s = o := by
  simp only [List.forall_mem_cons, exec_nnaMtwt, exec_nnaMtin, exec_nnaMtbias, exec_nnaMtfb, exec_nnaMtmc,
    exec_nnaMtbc, exec_rwCoeff, h, List.not_mem_nil, false_implies, implies_true, and_self]

/-! ### The neurons -/

namespace State

variable (s : State)

/-- A neuron after a change of the selected ones. -/
theorem updateNeurons_get (sel : BitVec 8) (g : Neuron → Neuron) (n : Fin 8) :
    (s.updateNeurons sel g).nna.get n = if sel.getLsbD n then g (s.nna.get n) else s.nna.get n :=
  Vector.getElem_mapFinIdx n.isLt

/-- A neuron by its number. -/
theorem nna_get? (n : Fin 8) : s.nna[n.val]?.getD resetNeuron = s.nna.get n := by
  rw [Vector.getElem?_eq_getElem n.isLt]
  rfl

/-- A change of neurons with a result in a register changes the neurons and that register. -/
theorem updateNeurons_result (sel : BitVec 8) (g : Neuron → Neuron) (size : Nat) (n : RegNum) (w : Word) :
    { ((s.updateNeurons sel g).setReg n w).advance size with nna := s.nna } = s.result size n w := by
  unfold result setReg
  split <;> rfl

end State

/-- An instruction that writes a field of the selected neurons and nothing else (49 R957 to R960). -/
theorem finishSeq_updateNeurons (s : State) (c : Ctx) (sel : BitVec 8) (g : Neuron → Neuron) :
    ∃ t, finishSeq c (.ok () (s.updateNeurons sel g)) = .next t ∧ { t with nna := s.nna } = s.advance c.size ∧
      ∀ n : Fin 8, t.nna.get n = if sel.getLsbD n then g (s.nna.get n) else s.nna.get n :=
  ⟨_, finishSeq_ok c _, rfl, s.updateNeurons_get sel g⟩

/-- An array write within its array (49 R955, R956). -/
theorem finishSeq_arrayWrite (s : State) (c : Ctx) (rt : RegNum) (put : Nat → BitVec 32 → Neuron → Neuron) (a b : Word)
    (h : (b.extractLsb' 0 16).toNat ≤ 1023) :
    ∃ t, finishSeq c (arrayWrite rt put a b s) = .next t ∧
      { t with nna := s.nna } = s.result c.size rt (b.extractLsb' 16 48 ++ (b.extractLsb' 0 16 + 1)) ∧
      ∀ n : Fin 8, t.nna.get n = if (b.extractLsb' 32 8).getLsbD n
        then put (b.extractLsb' 0 16).toNat (a.extractLsb' 0 32) (s.nna.get n) else s.nna.get n := by
  refine ⟨_, (congrArg (finishSeq c) (if_neg (Nat.not_lt.mpr h))).trans (finishSeq_ok c _),
    s.updateNeurons_result _ _ _ _ _, fun n => ?_⟩
  rw [State.advance_nna, State.setReg_nna]
  exact s.updateNeurons_get _ _ n

/-- An array write beyond its array is refused. -/
theorem finishSeq_arrayWrite_refused (s : State) (c : Ctx) (rt : RegNum)
    (put : Nat → BitVec 32 → Neuron → Neuron) (a b : Word) (h : 1023 < (b.extractLsb' 0 16).toNat) :
    finishSeq c (arrayWrite rt put a b s) = .refused .neuronArrayIndex := by
  rw [arrayWrite, if_pos h]
  rfl

/-- The bounds of a neuron within which an evaluation has a meaning (49 R951). -/
theorem inBounds_iff (x : Neuron) : x.inBounds = true ↔ x.max.toNat ≤ 1023 ∧ x.base.toNat ≤ x.max.toNat := by
  rw [Neuron.inBounds, Bool.and_eq_true, decide_eq_true_iff, decide_eq_true_iff]

/-- A bit of the selection byte. -/
theorem low8_getLsbD (a : Word) (n : Fin 8) : (a.extractLsb' 0 8).getLsbD n = a.getLsbD n := by
  rw [BitVec.getLsbD_extractLsb', decide_eq_true n.isLt, Bool.true_and, Nat.zero_add]

/-- NNA_TRIG refuses exactly a selection with a neuron out of bounds (49 R952). -/
theorem anyOutOfBounds_iff (a : Word) (s : State) :
    ((List.range 8).any fun i => (a.extractLsb' 0 8).getLsbD i &&
      !((s.nna[i]?.getD State.resetNeuron).inBounds)) = true ↔
    ¬ ∀ n : Fin 8, a.getLsbD n = true →
      (s.nna.get n).max.toNat ≤ 1023 ∧ (s.nna.get n).base.toNat ≤ (s.nna.get n).max.toNat := by
  simp only [← inBounds_iff, Classical.not_forall, exists_prop, List.any_eq_true, List.mem_range, Bool.and_eq_true,
    Bool.not_eq_true', Bool.not_eq_true]
  refine ⟨fun ⟨i, hi, hsel, hout⟩ => ⟨⟨i, hi⟩, ?_, ?_⟩, fun ⟨n, hsel, hout⟩ => ⟨n, n.isLt, ?_, ?_⟩⟩
  · exact (low8_getLsbD a ⟨i, hi⟩).symm.trans hsel
  · rw [← s.nna_get? ⟨i, hi⟩]
    exact hout
  · exact (low8_getLsbD a n).trans hsel
  · rw [s.nna_get? n]
    exact hout

/-- The status word has a bit for each finished neuron (49 R953). -/
theorem neuronStatus_bits (s : State) : (zext (neuronStatus s)).extractLsb' 8 56 = 0 ∧
    ∀ n : Fin 8, (zext (neuronStatus s)).getLsbD n = (s.nna.get n).done := by
  refine ⟨?_, fun n => ?_⟩
  · apply BitVec.eq_of_getLsbD_eq
    intro i hi
    rw [BitVec.getLsbD_extractLsb', BitVec.getLsbD_setWidth, BitVec.getLsbD_of_ge (neuronStatus s) _ (by omega),
      Bool.and_false, Bool.and_false]
    exact BitVec.getLsbD_zero.symm
  · rw [BitVec.getLsbD_setWidth, decide_eq_true (show n.val < 64 by omega), Bool.true_and, neuronStatus,
      bitsOf_getLsbD _ 8 n n.isLt, s.nna_get? n]

/-! ### Points and coefficients -/

/-- The clip test in the terms of 49 R976. -/
theorem clipPoint_eq (s : State) (a : Word) :
    let x := a.extractLsb' 0 32
    let y := a.extractLsb' 32 32
    let reg := fun k => ((s.greg k).extractLsb' 0 32 : BitVec 32).toInt
    let inside := fun l r t b => reg l ≤ x.toInt ∧ x.toInt ≤ reg r ∧ reg t ≤ y.toInt ∧ y.toInt ≤ reg b
    clipPoint s a =
      if ¬ inside 44 46 45 47 ∨ (s.greg 0).getLsbD 5 = true ∧ ¬ inside 29 31 30 32 then 1 else 0 := by
  unfold clipPoint ofProp
  refine ite_cond_congr (propext ?_)
  simp only [State.between, Bool.or_eq_true, Bool.and_eq_true, Bool.not_eq_true', ← Bool.not_eq_true,
    decide_eq_true_eq, and_assoc]

/-- RW_COEFF of a coefficient (49 R978). -/
theorem exchangeCoefficient_coefficient {rt : RegNum} {a b : Word} {s : State} (h : a.toNat < 12) :
    exchangeCoefficient rt a b s = .ok () ((s.setGreg (17 + a.toNat) ((b.extractLsb' 0 32).setWidth 40)).setReg rt
      (sext ((s.greg (17 + a.toNat)).extractLsb' 0 32))) := if_pos h

/-- RW_COEFF of the transform switch (49 R978). -/
theorem exchangeCoefficient_switch {rt : RegNum} {a b : Word} {s : State} (h : a.toNat = 12) :
    exchangeCoefficient rt a b s =
      .ok () ({ s with gfx := { s.gfx with cmd := b.extractLsb' 0 1 } }.setReg rt (zext s.gfx.cmd)) :=
  (if_neg (by omega)).trans (if_pos h)

/-- RW_COEFF of a number that names nothing (49 R978). -/
theorem exchangeCoefficient_refused {rt : RegNum} {a b : Word} {s : State} (h : 12 < a.toNat) :
    exchangeCoefficient rt a b s = .stop (.refuse .coefficientNumber) :=
  (if_neg (by omega)).trans (if_neg (by omega))

/-- A graphics register after a write of one (49 R970). -/
theorem setGreg_greg (s : State) (n : Nat) (w : BitVec 40) (hn : n < 64) : (s.setGreg n w).greg n = w ∧
    ∀ k, k ≠ n → (s.setGreg n w).greg k = s.greg k := by
  unfold State.setGreg State.greg
  refine ⟨?_, fun k hk => ?_⟩
  · rw [Vector.getElem?_setIfInBounds_self, if_pos hn]
    rfl
  · rw [Vector.getElem?_setIfInBounds_ne hk.symm]

/-! ### The arithmetic of an evaluation -/

/-- A product of two 16.16 numbers is exact where it can be, and less than 2^-16 away (49 R951, log 46). -/
theorem nnaProduct_near (a b : BitVec 32) :
    (a.toInt * b.toInt % 65536 = 0 → nnaProduct a b * 65536 = a.toInt * b.toInt) ∧
      (nnaProduct a b * 65536 - a.toInt * b.toInt).natAbs < 65536 := by
  unfold nnaProduct
  dsimp only
  generalize a.toInt * b.toInt = p
  split
  next hup =>
    obtain ⟨hinexact, _⟩ := hup
    exact ⟨fun hexact => absurd hexact hinexact, by omega⟩
  next => exact ⟨fun hexact => by omega, by omega⟩

/-- Where no order of adding the terms overflows, an evaluation is the activation of their sum (49 R951, log 46). -/
theorem nnaEval_exact (ws xs : List (BitVec 32)) (bias feedback act : BitVec 32)
    (hhigh : ((nnaTerms ws xs bias feedback act).filter fun t => 0 < t).sum < 2 ^ 31)
    (hlow : -2 ^ 31 ≤ ((nnaTerms ws xs bias feedback act).filter fun t => t < 0).sum) :
    nnaEval ws xs bias feedback act =
      Config.nnaActivation (BitVec.ofInt 32 (nnaTerms ws xs bias feedback act).sum) := by
  have hfits : nnaFits (nnaTerms ws xs bias feedback act) = true := by
    rw [nnaFits, decide_eq_true hhigh, decide_eq_true hlow]
    rfl
  rw [nnaEval, nnaSum, if_pos hfits]

/-! ### The steps of the engines -/

/-- A move of another agent (log 5). -/
theorem step_agent {s : State} {e : Event} {rest : List Event} (h : s.env = e :: rest) (he : e ≠ .core) :
    step s = ({ s with env := rest } : State).agentStep e := by
  unfold step nextMove
  rw [h]
  cases e with
  | core => exact absurd rfl he
  | _ => rfl

/-- The completion of an evaluation (49 R952). -/
theorem step_neuronDone {s : State} {n : BitVec 3} {rest : List Event} (h : s.env = .neuronDone n :: rest) :
    ((s.nna.get n.toFin).running = false → step s = .next { s with env := rest }) ∧
    ((s.nna.get n.toFin).running = true → (s.nna.get n.toFin).inBounds = true →
      step s = .next { s with env := rest, nna := s.nna.set n.toNat (s.nna.get n.toFin).finish n.isLt }) := by
  rw [step_agent h nofun]
  refine ⟨fun hidle => ?_, fun hrunning hbounds => ?_⟩
  · exact if_neg (by rw [State.neuron, hidle]; decide)
  · exact (if_pos hrunning).trans (if_pos hbounds)

/-- Which bits of the control register are drawing commands (49 R973). -/
theorem drawingBits_getLsbD (i : Nat) : drawingBits.getLsbD i = true ↔ i ∈ [0, 7, 8, 9, 10, 11, 18, 19] := by
  by_cases hi : i < 40
  · have hall : ∀ i : Fin 40, drawingBits.getLsbD i = true ↔ i.val ∈ [0, 7, 8, 9, 10, 11, 18, 19] := by decide
    exact hall ⟨i, hi⟩
  · rw [BitVec.getLsbD_of_ge _ _ (by omega)]
    refine ⟨fun h => absurd h (by decide), fun h => ?_⟩
    have hbelow : ∀ k ∈ [0, 7, 8, 9, 10, 11, 18, 19], k < 40 := by decide
    exact absurd (hbelow i h) hi

/-- A control value starts drawing where its low field has a drawing command (49 R973). -/
theorem startsDrawing_iff {old val : BitVec 40} {high : BitVec 10} {field : BitVec 30}
    (h : controlAfter old val = high ++ field) :
    startsDrawing old val = true ↔ ∃ i ∈ [0, 7, 8, 9, 10, 11, 18, 19], field.getLsbD i = true := by
  have hlow : ∀ i ∈ [0, 7, 8, 9, 10, 11, 18, 19], i < 30 := by decide
  have hbit : ∀ i, (controlAfter old val &&& drawingBits).getLsbD i = true ↔
      i ∈ [0, 7, 8, 9, 10, 11, 18, 19] ∧ field.getLsbD i = true := fun i => by
    rw [BitVec.getLsbD_and, Bool.and_eq_true, drawingBits_getLsbD, and_comm]
    refine and_congr_right fun hi => ?_
    rw [h, BitVec.getLsbD_append, if_pos (hlow i hi)]
  rw [startsDrawing, bne_iff_ne, ne_eq]
  refine ⟨fun hne => ?_, fun ⟨i, hi, hset⟩ heq => ?_⟩
  · refine Classical.byContradiction fun hnone => ?_
    refine hne (BitVec.eq_of_getLsbD_eq fun i _ => ?_)
    rw [BitVec.getLsbD_zero, ← Bool.not_eq_true, hbit]
    exact fun hset => hnone ⟨i, hset⟩
  · have hzero := (hbit i).mpr ⟨hi, hset⟩
    rw [heq, BitVec.getLsbD_zero] at hzero
    exact absurd hzero (by decide)

/-- The values of a two-bit field. -/
theorem two_bits (op : BitVec 2) : op = 0#2 ∨ op = 1#2 ∨ op = 2#2 ∨ op = 3#2 := by
  revert op
  decide

/-- The low field of the control register after a write, by the operation of the value (49 R972). -/
def controlField (op : BitVec 2) (old low : BitVec 30) : BitVec 30 :=
  match op.toNat with
  | 0 => low
  | 1 => old
  | 2 => old &&& ~~~low
  | _ => old ||| low

/-- The control register after a write of a queue entry's value (49 R972, R973). -/
theorem controlAfter_eq (old : BitVec 40) (e : BitVec 112) : controlAfter old (e.extractLsb' 0 40) =
    old.extractLsb' 30 10 ++ controlField (e.extractLsb' 30 2) (old.extractLsb' 0 30) (e.extractLsb' 0 30) := by
  unfold controlAfter
  rw [field_of_low e 40 30 2 (by omega), field_of_low e 40 0 30 (by omega)]
  obtain h | h | h | h := two_bits (e.extractLsb' 30 2) <;> rw [h] <;> rfl

/-- The step of the graphics engine with an entry in its queue (49 R973). -/
theorem step_graphics_entry {s : State} {e : BitVec 112} {l : List (BitVec 112)} {rest : List Event}
    (h : s.env = .graphics :: rest) (hq : s.queues.get 0 = e :: l) :
    step s =
      let s1 : State := { s with env := rest, queues := s.queues.set 0 l }
      if (e.extractLsb' 56 8).toNat = 0 then
        if startsDrawing (s.greg 0) (e.extractLsb' 0 40) then .refused .graphicsDrawing
        else .next (s1.setGreg 0 (controlAfter (s.greg 0) (e.extractLsb' 0 40)))
      else if (e.extractLsb' 56 8).toNat ≤ 50 then
        .next (s1.setGreg (e.extractLsb' 56 8).toNat (e.extractLsb' 0 40))
      else .next s1 := by
  rw [step_agent h (by decide), State.agentStep, State.graphicsStep]
  dsimp only
  rw [hq]
  rfl

/-- The step of the graphics engine with nothing in its queue (49 R973). -/
theorem step_graphics_empty {s : State} {rest : List Event} (h : s.env = .graphics :: rest)
    (hq : s.queues.get 0 = []) : step s = .next { s with env := rest } := by
  rw [step_agent h (by decide), State.agentStep, State.graphicsStep]
  dsimp only
  rw [hq]

/-- Settles O56, by the form of the instruction, its action and the steps of the engines. -/
theorem accelerators : Obligations.Accelerators := by
  unfold Obligations.Accelerators
  refine ⟨fun f s => ⟨fun hv => exec_oneSource_refused hv s, fun hv => ⟨?trigger, ?triggerRefused, ?status, ?activation,
      ?activationRefused, ?clip, ?switchOff, ?switchOn⟩⟩,
    fun f s => ⟨fun hv => exec_twoSource fun c act => withAB_refused hv c act s, fun hv b hb =>
      ⟨?arraysRefused, fun hi => ⟨?weight, ?input⟩, ?bias, ?feedback, ?max, ?base, ?coefficient, ?switch,
        ?coefficientRefused⟩⟩,
    fun s n rest h => ⟨(step_neuronDone h).1, fun hrunning hmax hbase => ?finish⟩,
    fun s e l rest h hq => ⟨fun hn => ?noRegister, fun hpos hn => ?register, fun hn => ⟨fun hdraws => ?drawing,
      fun hdraws => ?control⟩⟩,
    fun s rest => step_graphics_empty, setGreg_greg,
    fun f s hv hb => exec_twoSource fun c act => withAB_vectorOperand hv hb c act, nnaProduct_near, nnaEval_exact⟩
  case trigger =>
    intro hbounded
    have hrun : triggerNeurons ((s.reg f.ra).extractLsb' 0 8) s =
        .ok () (s.updateNeurons ((s.reg f.ra).extractLsb' 0 8) Neuron.start) :=
      if_neg (mt (anyOutOfBounds_iff _ s).mp fun hout => hout hbounded)
    rw [exec_nnaTrig, withA_scalar hv, hrun]
    obtain ⟨t, ht, hframe, hneurons⟩ :=
      finishSeq_updateNeurons s (Instr.ctx (.nnaTrig f)) ((s.reg f.ra).extractLsb' 0 8) Neuron.start
    refine ⟨t, ht, hframe, fun n => (hneurons n).trans ?_⟩
    rw [low8_getLsbD]
    rfl
  case triggerRefused =>
    intro hout
    rw [exec_nnaTrig, withA_scalar hv, triggerNeurons, if_pos ((anyOutOfBounds_iff _ s).mpr hout)]
    rfl
  case status =>
    rw [exec_nnaStat, withA_scalar hv]
    exact ⟨_, rfl, neuronStatus_bits s⟩
  case activation =>
    intro hnumber
    rw [exec_nnaMfact, withA_scalar hv, hnumber]
    rfl
  case activationRefused =>
    intro hnumber
    rw [exec_nnaMfact, withA_scalar hv, hnumber]
    rfl
  case clip =>
    rw [exec_clip, withA_scalar hv, clipPoint_eq]
    rfl
  case switchOff =>
    intro hcmd
    rw [exec_transform, withA_scalar hv, transformPoint, if_pos hcmd]
    rfl
  case switchOn =>
    intro hcmd
    rw [exec_transform, withA_scalar hv, transformPoint, if_neg (by rw [hcmd]; decide)]
    rfl
  case arraysRefused =>
    intro hi
    simp only [List.forall_mem_cons, exec_nnaMtwt, exec_nnaMtin, withAB_scalar hv hb,
      finishSeq_arrayWrite_refused s _ f.rt _ (s.reg f.ra) b hi, List.not_mem_nil, false_implies, implies_true,
      and_self]
  case weight =>
    rw [exec_nnaMtwt, withAB_scalar hv hb]
    exact finishSeq_arrayWrite s _ f.rt Neuron.putWeight (s.reg f.ra) b hi
  case input =>
    rw [exec_nnaMtin, withAB_scalar hv hb]
    exact finishSeq_arrayWrite s _ f.rt Neuron.putInput (s.reg f.ra) b hi
  case bias =>
    rw [exec_nnaMtbias, withAB_scalar hv hb]
    exact finishSeq_updateNeurons s _ _ _
  case feedback =>
    rw [exec_nnaMtfb, withAB_scalar hv hb]
    exact finishSeq_updateNeurons s _ _ _
  case max =>
    rw [exec_nnaMtmc, withAB_scalar hv hb]
    exact finishSeq_updateNeurons s _ _ _
  case base =>
    rw [exec_nnaMtbc, withAB_scalar hv hb]
    exact finishSeq_updateNeurons s _ _ _
  case coefficient =>
    intro hk
    rw [exec_rwCoeff, withAB_scalar hv hb, exchangeCoefficient_coefficient hk]
    rfl
  case switch =>
    intro hk
    rw [exec_rwCoeff, withAB_scalar hv hb, exchangeCoefficient_switch hk]
    rfl
  case coefficientRefused =>
    intro hk
    rw [exec_rwCoeff, withAB_scalar hv hb, exchangeCoefficient_refused hk]
    rfl
  case finish => exact (step_neuronDone h).2 hrunning ((inBounds_iff _).mpr ⟨hmax, hbase⟩)
  case noRegister => exact (step_graphics_entry h hq).trans ((if_neg (by omega)).trans (if_neg (by omega)))
  case register => exact (step_graphics_entry h hq).trans ((if_neg (by omega)).trans (if_pos hn))
  case drawing =>
    exact (step_graphics_entry h hq).trans
      ((if_pos hn).trans (if_pos ((startsDrawing_iff (controlAfter_eq _ e)).mpr hdraws)))
  case control =>
    refine (step_graphics_entry h hq).trans
      ((if_pos hn).trans ((if_neg (mt (startsDrawing_iff (controlAfter_eq _ e)).mp hdraws)).trans ?_))
    rw [controlAfter_eq]
    rfl

end Sys2Proof.Machine
end

section
/-! The instructions that exist for vectors only: index, compress, scan, slides, bit gather, insert and extract. -/

namespace Sys2Proof.Machine

/-! ### Loops that cannot fail -/

/-- A loop of elements that cannot fail is a fold over its elements. -/
theorem elementLoop_pure (mask : Word) (act off : Nat → State → State) (n x : Nat) (s : State) :
    elementLoop mask (fun y u => .ok () (act y u)) off n x s =
      .ok () ((List.range' x n).foldl (fun u y => if mask.getLsbD y then act y u else off y u) s) := by
  induction n generalizing x s with
  | zero => rfl
  | succ n ih =>
    rw [elementLoop_succ, List.range'_succ, List.foldl_cons]
    split
    · exact ih (x + 1) _
    · exact ih (x + 1) _

/-- A vector instruction whose elements cannot fail (48 R884). -/
theorem State.vectorLoop_pure {s : State} (hvl : s.pending.vl = []) (m : BitVec 3) (act off : Nat → State → State) :
    s.vectorLoop m (fun y u => .ok () (act y u)) off = .ok ()
      ((s.loopElements.foldl (fun u y => if (s.mask m).getLsbD y then act y u else off y u) s).setVstep 0) := by
  rw [State.vectorLoop, State.useVl_settled s hvl, elementLoop_pure, Res.bind_ok]
  rfl

/-- A loop over the enabled elements (48 R884). -/
theorem State.enabledElements_eq {s : State} (hvl : s.pending.vl = []) (m : BitVec 3) (act : Nat → State → State) :
    s.enabledElements m act = .ok () (((s.enabledList m).foldl (fun u y => act y u) s).setVstep 0) := by
  rw [State.enabledElements, State.vectorLoop_pure hvl, State.enabledList, List.foldl_filter]

/-- A loop over every element (48 R895, R896). -/
theorem State.everyElement_eq {s : State} (hvl : s.pending.vl = []) (act : Nat → State → State) :
    s.everyElement act = .ok ()
      (((s.loopElements.filter fun y => (BitVec.allOnes 64).getLsbD y).foldl (fun u y => act y u) s).setVstep 0) := by
  rw [State.everyElement, State.useVl_settled s hvl, elementLoop_pure, Res.bind_ok, List.foldl_filter]
  rfl

/-- The elements of a loop over every element that a register has. -/
theorem mem_everyElement {s : State} {y : Nat} (hy : y < 64) :
    y ∈ s.loopElements.filter (fun y => (BitVec.allOnes 64).getLsbD y) ↔ y ∈ s.loopElements := by
  rw [List.mem_filter, BitVec.getLsbD_allOnes, decide_eq_true hy, and_iff_left rfl]

/-! ### Elements of one register written one after the other -/

/-- Elements of a vector register, written in the order of a list. -/
def State.writeElements (s : State) (rt : RegNum) (g : Nat → Word) (l : List Nat) : State :=
  l.foldl (fun u y => u.setVec rt y (g y)) s

/-- Written elements leave the other vector registers. -/
theorem State.writeElements_others (s : State) (rt : RegNum) (g : Nat → Word) (l : List Nat) {r : RegNum}
    (hr : r ≠ rt) (x : Nat) : (s.writeElements rt g l).vec r x = s.vec r x := by
  induction l generalizing s with
  | nil => rfl
  | cons y l ih =>
    refine (ih (s.setVec rt y (g y))).trans ?_
    rw [State.setVec_vec, if_neg fun h => hr h.1.symm]

/-- Written elements leave all but the vector registers. -/
theorem State.writeElements_frame (s : State) (rt : RegNum) (g : Nat → Word) (l : List Nat) :
    { s.writeElements rt g l with vregs := s.vregs } = s := by
  induction l generalizing s with
  | nil => rfl
  | cons y l ih =>
    have hset : { s.setVec rt y (g y) with vregs := s.vregs } = s := by
      unfold State.setVec
      split <;> rfl
    exact (congrArg (fun q : State => { q with vregs := s.vregs }) (ih (s.setVec rt y (g y)))).trans hset

/-- The written register's elements. -/
theorem State.writeElements_vec (s : State) (rt : RegNum) (g : Nat → Word) (l : List Nat) (y : Nat) :
    (s.writeElements rt g l).vec rt y = if rt ≠ 0#6 ∧ y < 64 ∧ y ∈ l then g y else s.vec rt y := by
  induction l generalizing s with
  | nil => rw [if_neg fun h => List.not_mem_nil h.2.2]; rfl
  | cons x l ih =>
    refine (ih (s.setVec rt x (g x))).trans ?_
    rw [State.setVec_vec]
    by_cases htail : rt ≠ 0#6 ∧ y < 64 ∧ y ∈ l
    · rw [if_pos htail, if_pos ⟨htail.1, htail.2.1, List.mem_cons_of_mem _ htail.2.2⟩]
    · rw [if_neg htail]
      by_cases hhead : rt = rt ∧ x = y ∧ rt ≠ 0#6 ∧ x < 64
      · obtain ⟨-, rfl, hrt, hx⟩ := hhead
        rw [if_pos ⟨rfl, rfl, hrt, hx⟩, if_pos ⟨hrt, hx, List.mem_cons_self⟩]
      · have hneither : ¬ (rt ≠ 0#6 ∧ y < 64 ∧ y ∈ x :: l) := fun ⟨hrt, hy, hmem⟩ => by
          rcases List.mem_cons.mp hmem with rfl | hl
          · exact hhead ⟨rfl, rfl, hrt, hy⟩
          · exact htail ⟨hrt, hy, hl⟩
        rw [if_neg hhead, if_neg hneither]

/-- A vector instruction that has written elements of its target and nothing else; `p` says which, `g'` what. -/
theorem finishSeq_writeElements (s : State) (c : Ctx) (rt : RegNum) {g g' : Nat → Word} {l : List Nat} {p : Nat → Prop}
    [DecidablePred p] (hl : ∀ y < 64, y ∈ l ↔ p y) (hg : ∀ y, p y → g y = g' y) :
    ∃ t, finishSeq c (.ok () ((s.writeElements rt g l).setVstep 0)) = .next t ∧
      ((∀ r, r ≠ rt → ∀ x, t.vec r x = s.vec r x) ∧ { t with vregs := s.vregs } = s.looped.advance c.size) ∧
      ∀ y < 64, t.vec rt y = if rt = 0#6 then 0 else if p y then g' y else s.vec rt y := by
  refine ⟨_, finishSeq_ok c _, ⟨fun r hr x => s.writeElements_others rt g l hr x, ?_⟩, fun y hy => ?_⟩
  · exact congrArg (fun q : State => (q.setVstep 0).advance c.size) (s.writeElements_frame rt g l)
  · refine (s.writeElements_vec rt g l y).trans ?_
    by_cases hrt : rt = 0#6
    · rw [if_neg fun h => h.1 hrt, if_pos hrt, State.vec, if_pos hrt]
    · by_cases hp : p y
      · rw [if_pos ⟨hrt, hy, (hl y hy).mpr hp⟩, if_neg hrt, if_pos hp, hg y hp]
      · rw [if_neg fun h => hp ((hl y hy).mp h.2.2), if_neg hrt, if_neg hp]

/-! ### The rank of an element among the enabled ones -/

/-- The rank of an element counts the enabled ones from the start of the loop. -/
theorem enabledBetween_eq (mask : Word) (lo x : Nat) :
    enabledBetween mask lo x = ((List.range' lo (x - lo)).filter fun y => mask.getLsbD y).length := by
  rw [List.range'_eq_map_range, List.filter_map, List.length_map]
  rfl

/-- A rank is no greater than the element's number. -/
theorem enabledBetween_le (mask : Word) (lo x : Nat) : enabledBetween mask lo x ≤ x := by
  have hlen := List.length_filter_le (fun y => mask.getLsbD y) (List.range' lo (x - lo))
  rw [List.length_range'] at hlen
  rw [enabledBetween_eq]
  omega

/-- The ranks of the enabled elements are 0, 1, 2 and so on. -/
theorem map_enabledBetween (mask : Word) (lo n : Nat) :
    ((List.range' lo n).filter fun y => mask.getLsbD y).map (enabledBetween mask lo) =
      List.range ((List.range' lo n).filter fun y => mask.getLsbD y).length := by
  induction n with
  | zero => rfl
  | succ n ih =>
    rw [List.range'_1_concat, List.filter_append, List.map_append, ih, List.length_append]
    by_cases hset : mask.getLsbD (lo + n) = true
    · have hlast : [lo + n].filter (fun y => mask.getLsbD y) = [lo + n] := List.filter_cons_of_pos hset
      rw [hlast, List.map_singleton, enabledBetween_eq, Nat.add_sub_cancel_left, List.length_singleton, List.range_succ]
    · have hlast : [lo + n].filter (fun y => mask.getLsbD y) = [] := List.filter_cons_of_neg hset
      rw [hlast, List.map_nil, List.append_nil, List.length_nil, Nat.add_zero]

/-- The ranks of a vector instruction's enabled elements. -/
theorem map_rank (s : State) (m : BitVec 3) :
    (s.enabledList m).map (enabledBetween (s.mask m) s.csr.vstep.toNat) = List.range (s.enabledList m).length :=
  map_enabledBetween (s.mask m) s.csr.vstep.toNat _

/-- The enabled element of a rank has that rank. -/
theorem rank_getElem (s : State) (m : BitVec 3) {k : Nat} (hk : k < (s.enabledList m).length) :
    enabledBetween (s.mask m) s.csr.vstep.toNat (s.enabledList m)[k] = k := by
  have hmap := List.getElem_of_eq (map_rank s m) (i := k) (by rw [List.length_map]; exact hk)
  rw [List.getElem_map, List.getElem_range] at hmap
  exact hmap

/-- The rank of an element of the loop counts the enabled elements below it. -/
theorem rank_of_mem {s : State} {y : Nat} (m : BitVec 3) (hy : y ∈ s.loopElements) :
    enabledBetween (s.mask m) s.csr.vstep.toNat y = ((s.enabledList m).filter fun k => decide (k < y)).length := by
  obtain ⟨hlo, hhi⟩ := List.mem_range'_1.mp hy
  have hbelow : s.loopElements.filter (fun k => decide (k < y)) =
      List.range' s.csr.vstep.toNat (y - s.csr.vstep.toNat) := by
    have hparts : s.vl.toNat - s.csr.vstep.toNat =
        (y - s.csr.vstep.toNat) + (s.vl.toNat - s.csr.vstep.toNat - (y - s.csr.vstep.toNat)) := by omega
    have hlow : ∀ k ∈ List.range' s.csr.vstep.toNat (y - s.csr.vstep.toNat), decide (k < y) = true := fun k hk => by
      obtain ⟨hk1, hk2⟩ := List.mem_range'_1.mp hk
      exact decide_eq_true (by omega)
    have hhigh : ∀ k ∈ List.range' (s.csr.vstep.toNat + (y - s.csr.vstep.toNat))
        (s.vl.toNat - s.csr.vstep.toNat - (y - s.csr.vstep.toNat)), ¬ decide (k < y) = true := fun k hk => by
      obtain ⟨hk1, hk2⟩ := List.mem_range'_1.mp hk
      rw [decide_eq_true_iff]
      omega
    rw [State.loopElements, hparts, ← List.range'_append_1, List.filter_append, List.filter_eq_self.mpr hlow,
      List.filter_eq_nil_iff.mpr hhigh, List.append_nil]
  rw [enabledBetween_eq, ← hbelow, State.enabledList, List.filter_filter, List.filter_filter]
  exact congrArg List.length (List.filter_congr fun k _ => Bool.and_comm _ _)

/-! ### Packed results -/

/-- VGIDX writes by rank what depends on the rank alone (48 R891). -/
theorem foldl_rank_eq_writeElements (s : State) (m : BitVec 3) (rt : RegNum) (g : Nat → Word) :
    (s.enabledList m).foldl (fun u x => u.setVec rt (enabledBetween (s.mask m) s.csr.vstep.toNat x)
      (g (enabledBetween (s.mask m) s.csr.vstep.toNat x))) s =
      s.writeElements rt g (List.range (s.enabledList m).length) := by
  rw [State.writeElements, ← map_rank, List.foldl_map]

/-- The element that VCMPRSS packs into place y (48 R892). -/
def State.packedElement (s : State) (m : BitVec 3) (ra : RegNum) (y : Nat) : Word :=
  s.vec ra ((s.enabledList m)[y]?.getD 0)

/-- VCMPRSS reads each element before it is overwritten: what it has packed so far lies below (48 R892). -/
theorem foldl_take_compress (s : State) (m : BitVec 3) (rt ra : RegNum) {k : Nat} (hk : k ≤ (s.enabledList m).length) :
    ((s.enabledList m).take k).foldl (fun u x => u.setVec rt (enabledBetween (s.mask m) s.csr.vstep.toNat x)
      (u.vec ra x)) s = s.writeElements rt (s.packedElement m ra) (List.range k) := by
  induction k with
  | zero => rfl
  | succ k ih =>
    have hlt : k < (s.enabledList m).length := hk
    have hrank := rank_getElem s m hlt
    have hunread : (s.writeElements rt (s.packedElement m ra) (List.range k)).vec ra (s.enabledList m)[k] =
        s.packedElement m ra k := by
      rw [State.packedElement, List.getElem?_eq_getElem hlt, Option.getD_some]
      by_cases hreg : ra = rt
      · have hle := enabledBetween_le (s.mask m) s.csr.vstep.toNat (s.enabledList m)[k]
        rw [hrank] at hle
        rw [hreg, State.writeElements_vec, if_neg fun h => ?_]
        exact absurd (List.mem_range.mp h.2.2) (Nat.not_lt.mpr hle)
      · exact s.writeElements_others rt _ _ hreg _
    rw [← List.take_append_getElem hlt, List.foldl_append, ih (Nat.le_of_lt hlt), List.foldl_cons, List.foldl_nil,
      hrank, hunread, State.writeElements, State.writeElements, List.range_succ, List.foldl_append]
    rfl

/-- VCMPRSS as writes of the packed elements (48 R892). -/
theorem compressVector_eq {s : State} (hvl : s.pending.vl = []) (f : Fmt.R1) : compressVector f s = .ok ()
    ((s.writeElements f.rt (s.packedElement f.m f.ra) (List.range (s.enabledList f.m).length)).setVstep 0) := by
  have hpack := foldl_take_compress s f.m f.rt f.ra (Nat.le_refl (s.enabledList f.m).length)
  rw [List.take_length] at hpack
  rw [compressVector, State.enabledElements_eq hvl, hpack]

/-- VGIDX as writes of the index values (48 R891). -/
theorem generateIndex_eq {s : State} (hvl : s.pending.vl = []) (f : Fmt.R3) (b : Word) : generateIndex f b s = .ok ()
    ((s.writeElements f.rt (fun y => ((s.reg f.ra).extractLsb' 0 24).setWidth 64 * BitVec.ofNat 64 y + b)
      (List.range (s.enabledList f.m).length)).setVstep 0) := by
  rw [generateIndex]
  dsimp only
  rw [State.enabledElements_eq hvl, foldl_rank_eq_writeElements s f.m f.rt
    (fun y => ((s.reg f.ra).extractLsb' 0 24).setWidth 64 * BitVec.ofNat 64 y + b)]

/-! ### The bit gather -/

namespace State

variable {s : State}

/-- The second of two writes of a register stays. -/
theorem setReg_setReg (s : State) (n : RegNum) (a b : Word) : (s.setReg n a).setReg n b = s.setReg n b := by
  unfold setReg
  split
  next => rfl
  next => exact congrArg (fun r => { s with regs := r }) (Vector.set_set a _)

/-- A register written with its own value. -/
theorem setReg_reg_self (s : State) (n : RegNum) : s.setReg n (s.reg n) = s := by
  unfold setReg reg
  split
  next => rfl
  next => exact congrArg (fun r => { s with regs := r }) (Vector.set_getElem_self _)

end State

/-- A word with one bit replaced, bit by bit. -/
theorem setBit_getLsbD (w : Word) (x : Nat) (b : Bool) {i : Nat} (hi : i < 64) :
    (setBit w x b).getLsbD i = if x = i then b else w.getLsbD i := by
  have hone : 1#64 <<< x = BitVec.twoPow 64 x := (BitVec.twoPow_eq 64 x).symm
  rw [setBit, hone, BitVec.getLsbD_or, BitVec.getLsbD_and, BitVec.getLsbD_not, BitVec.getLsbD_twoPow,
    BitVec.getLsbD_shiftLeft, BitVec.getLsbD_setWidth]
  by_cases hx : x = i
  · subst hx
    cases b <;> simp [hi]
  · rw [if_neg hx, decide_eq_false hx, Bool.and_false, Bool.not_false, decide_eq_true hi, Bool.and_true, Bool.and_true]
    by_cases hbelow : i < x
    · simp [hbelow]
    · rw [BitVec.getLsbD_of_ge (BitVec.ofBool b) (i - x) (by omega), Bool.and_false, Bool.and_false, Bool.or_false]

/-- The target word of V2BITS after element y (48 R885). -/
def gatherStep (mask : Word) (z : BitVec 1) (v : Nat → Bool) (w : Word) (y : Nat) : Word :=
  if mask.getLsbD y then setBit w y (v y) else if z = 1#1 then setBit w y false else w

/-- The bits of a target word of V2BITS after element y. -/
theorem gatherStep_getLsbD (mask : Word) (z : BitVec 1) (v : Nat → Bool) (w : Word) (y : Nat) {i : Nat} (hi : i < 64) :
    (gatherStep mask z v w y).getLsbD i =
      if y = i then (if mask.getLsbD i then v i else !(decide (z = 1#1)) && w.getLsbD i) else w.getLsbD i := by
  unfold gatherStep
  by_cases hy : y = i
  · subst hy
    rw [if_pos rfl]
    by_cases hm : mask.getLsbD y = true
    · rw [if_pos hm, if_pos hm, setBit_getLsbD _ _ _ hi, if_pos rfl]
    · rw [if_neg hm, if_neg hm]
      by_cases hz : z = 1#1
      · rw [if_pos hz, setBit_getLsbD _ _ _ hi, if_pos rfl, decide_eq_true hz, Bool.not_true, Bool.false_and]
      · rw [if_neg hz, decide_eq_false hz, Bool.not_false, Bool.true_and]
  · rw [if_neg hy]
    split
    · rw [setBit_getLsbD _ _ _ hi, if_neg hy]
    · split
      · rw [setBit_getLsbD _ _ _ hi, if_neg hy]
      · rfl

/-- The bits of the target word of V2BITS after a list of elements. -/
theorem foldl_gatherStep_getLsbD (mask : Word) (z : BitVec 1) (v : Nat → Bool) (l : List Nat) (w : Word) {i : Nat}
    (hi : i < 64) : (l.foldl (gatherStep mask z v) w).getLsbD i =
      if i ∈ l then (if mask.getLsbD i then v i else !(decide (z = 1#1)) && w.getLsbD i) else w.getLsbD i := by
  induction l generalizing w with
  | nil => rw [if_neg List.not_mem_nil]; rfl
  | cons y l ih =>
    rw [List.foldl_cons, ih, gatherStep_getLsbD _ _ _ _ _ hi]
    by_cases hy : y = i
    · rw [if_pos hy, if_pos (List.mem_cons.mpr (.inl hy.symm))]
      by_cases hl : i ∈ l
      · rw [if_pos hl]
        by_cases hm : mask.getLsbD i = true
        · rw [if_pos hm, if_pos hm]
        · rw [if_neg hm, if_neg hm, ← Bool.and_assoc, Bool.and_self]
      · rw [if_neg hl]
    · rw [if_neg hy]
      refine ite_cond_congr (propext ?_)
      rw [List.mem_cons, or_iff_right fun h => hy h.symm]

/-- What V2BITS does at element y (48 R885). -/
def State.gatherElement (f : Fmt.R3) (mask : Word) (n : Nat) (u : State) (y : Nat) : State :=
  if mask.getLsbD y then u.setReg f.rt (setBit (u.reg f.rt) y ((u.vec f.ra y).getLsbD n))
  else if f.z = 1#1 then u.setReg f.rt (setBit (u.reg f.rt) y false) else u

/-- V2BITS as its elements one after the other (48 R884, R885). -/
theorem vectorToBits_eq {s : State} (hvl : s.pending.vl = []) (f : Fmt.R3) (b : Word) : vectorToBits f b s = .ok ()
    ((s.loopElements.foldl (State.gatherElement f (s.mask f.m) (b.extractLsb' 0 6).toNat) s).setVstep 0) :=
  State.vectorLoop_pure hvl f.m
    (fun y u => u.setReg f.rt (setBit (u.reg f.rt) y ((u.vec f.ra y).getLsbD (b.extractLsb' 0 6).toNat)))
    (fun y u => if f.z = 1#1 then u.setReg f.rt (setBit (u.reg f.rt) y false) else u)

/-- An element of V2BITS after its target was written: the next word of the target, written once. -/
theorem gatherElement_setReg (s : State) (f : Fmt.R3) (mask : Word) (n : Nat) (w : Word) (y : Nat)
    (hrt : f.rt ≠ 0#6) : State.gatherElement f mask n (s.setReg f.rt w) y =
      s.setReg f.rt (gatherStep mask f.z (fun y => (s.vec f.ra y).getLsbD n) w y) := by
  rw [State.gatherElement, State.setReg_reg_same, if_neg hrt, State.setReg_vec, State.setReg_setReg,
    State.setReg_setReg, gatherStep, apply_ite (s.setReg f.rt), apply_ite (s.setReg f.rt)]

/-- The elements of V2BITS, one after the other, are one write of the target (48 R885). -/
theorem foldl_gatherElement (s : State) (f : Fmt.R3) (mask : Word) (n : Nat) (l : List Nat) :
    l.foldl (State.gatherElement f mask n) s =
      s.setReg f.rt (l.foldl (gatherStep mask f.z fun y => (s.vec f.ra y).getLsbD n) (s.reg f.rt)) := by
  by_cases hrt : f.rt = 0#6
  · have hdiscard : ∀ (u : State) (w : Word), u.setReg f.rt w = u := fun u w => if_pos hrt
    have hkeep : State.gatherElement f mask n = fun u _ => u := by
      funext u y
      rw [State.gatherElement, hdiscard, hdiscard, ite_self, ite_self]
    rw [hdiscard, hkeep, foldl_keep]
  · have hwrites : ∀ w : Word, l.foldl (State.gatherElement f mask n) (s.setReg f.rt w) =
        s.setReg f.rt (l.foldl (gatherStep mask f.z fun y => (s.vec f.ra y).getLsbD n) w) := by
      induction l with
      | nil => exact fun w => rfl
      | cons y l ih =>
        intro w
        rw [List.foldl_cons, List.foldl_cons, gatherElement_setReg s f mask n w y hrt, ih]
    have hself := hwrites (s.reg f.rt)
    rw [State.setReg_reg_self] at hself
    exact hself

/-! ### The instructions -/

/-- An instruction of these with a scalar B does its action. -/
theorem withScalarB_scalar {f : Fmt.R3} {s : State} {b : Word} (hb : (opnd f.tb f.rb).scalar s = some b) (c : Ctx)
    (act : Word → State → Res Unit) : withScalarB c f act s = finishSeq c (act b s) := by
  rw [withScalarB, hb]

/-- An instruction of these with a vector register as B is refused (93 U30). -/
theorem withScalarB_refused {f : Fmt.R3} {s : State} (hb : (opnd f.tb f.rb).scalar s = none) (c : Ctx)
    (act : Word → State → Res Unit) : withScalarB c f act s = .refused .vectorOperandInScalar := by
  rw [withScalarB, hb]
  rfl

theorem exec_vcmprss (f : Fmt.R1) (s : State) :
    exec (.vcmprss f) s = finishSeq (Instr.ctx (.vcmprss f)) (compressVector f s) := rfl

theorem exec_vscan (f : Fmt.R1) (s : State) :
    exec (.vscan f) s = finishSeq (Instr.ctx (.vscan f)) (runningSum f s) := rfl

theorem exec_vgidx (f : Fmt.R3) (s : State) :
    exec (.vgidx f) s = withScalarB (Instr.ctx (.vgidx f)) f (generateIndex f) s := rfl

theorem exec_v2bits (f : Fmt.R3) (s : State) :
    exec (.v2bits f) s = withScalarB (Instr.ctx (.v2bits f)) f (vectorToBits f) s := rfl

theorem exec_veins (f : Fmt.R3) (s : State) :
    exec (.veins f) s = withScalarB (Instr.ctx (.veins f)) f (insertElement f) s := rfl

theorem exec_vsllv (f : Fmt.R3) (s : State) :
    exec (.vsllv f) s = withScalarB (Instr.ctx (.vsllv f)) f (slideUp f) s := rfl

theorem exec_vsrlv (f : Fmt.R3) (s : State) :
    exec (.vsrlv f) s = withScalarB (Instr.ctx (.vsrlv f)) f (slideDown f) s := rfl

theorem exec_vex (f : Fmt.R3) (s : State) :
    exec (.vex f) s = finishSeq (Instr.ctx (.vex f)) (extractElement f s) := rfl

/-- The instructions with a scalar B refuse a vector register in its place (93 U30). -/
theorem exec_scalarB_refused {f : Fmt.R3} {s : State} (hb : (opnd f.tb f.rb).scalar s = none) :
    ∀ i ∈ [Instr.vgidx f, .v2bits f, .veins f, .vsllv f, .vsrlv f], exec i s = .refused .vectorOperandInScalar := by
  simp only [List.forall_mem_cons, exec_vgidx, exec_v2bits, exec_veins, exec_vsllv, exec_vsrlv, withScalarB_refused hb,
    List.not_mem_nil, false_implies, implies_true, and_self]

/-- V2BITS: one write of the gathered word (48 R885). -/
theorem exec_v2bits_eq {f : Fmt.R3} {s : State} {b : Word} (hvl : s.pending.vl = [])
    (hb : (opnd f.tb f.rb).scalar s = some b) : exec (.v2bits f) s = .next (s.looped.result 6 f.rt
      (s.loopElements.foldl (gatherStep (s.mask f.m) f.z fun y => (s.vec f.ra y).getLsbD (b.extractLsb' 0 6).toNat)
        (s.reg f.rt))) := by
  have hcommute : ∀ w : Word, (s.setReg f.rt w).setVstep 0 = s.looped.setReg f.rt w := fun w => by
    unfold State.setReg
    split <;> rfl
  rw [exec_v2bits, withScalarB_scalar hb, vectorToBits_eq hvl, foldl_gatherElement, hcommute]
  rfl

/-- The number of the bit that V2BITS takes. -/
theorem low6_toNat (b : Word) : (b.extractLsb' 0 6).toNat = b.toNat % 64 := by
  rw [BitVec.extractLsb'_toNat, Nat.shiftRight_zero]

/-- The B of VEX is a register where the high bit of its form is clear (48 R894). -/
theorem formBit_of_register {tb : BitVec 2} (h : tb = 0#2 ∨ tb = 1#2) : tb.getLsbD 1 = false := by
  rcases h with rfl | rfl <;> rfl

/-- The B of VEX is an immediate where the high bit of its form is set (48 R894). -/
theorem formBit_of_immediate {tb : BitVec 2} (h : tb = 2#2 ∨ tb = 3#2) : tb.getLsbD 1 = true := by
  rcases h with rfl | rfl <;> rfl

/-- Settles O53, instruction by instruction: each writes its elements one after the other, the packing ones by rank. -/
theorem vectorSpecials : Obligations.VectorSpecials := by
  unfold Obligations.VectorSpecials
  refine fun s hvl => ⟨fun f => ⟨?compress, ?scan⟩, fun f => ⟨exec_scalarB_refused, fun b hb => ⟨?index, ?up, ?down,
    ?gather, fun hn => ?insert, fun hn => ?insertRefused⟩, fun hreg => ⟨fun hn => ?extract, fun hn => ?extractRefused⟩,
    fun himm => ?immediate⟩⟩
  case compress =>
    rw [exec_vcmprss, compressVector_eq hvl]
    exact finishSeq_writeElements s _ f.rt (fun _ _ => List.mem_range) fun _ _ => rfl
  case scan =>
    rw [exec_vscan, runningSum, State.everyElement_eq hvl]
    exact finishSeq_writeElements s _ f.rt (fun _ => mem_everyElement) fun y hy =>
      congrArg (fun k => s.reg f.ra * BitVec.ofNat 64 k) (rank_of_mem f.m hy)
  case index =>
    rw [exec_vgidx, withScalarB_scalar hb, generateIndex_eq hvl]
    exact finishSeq_writeElements s _ f.rt (fun _ _ => List.mem_range) fun _ _ => rfl
  case up =>
    rw [exec_vsllv, withScalarB_scalar hb, slideUp, State.everyElement_eq hvl]
    exact finishSeq_writeElements s _ f.rt (fun _ => mem_everyElement) fun _ _ => rfl
  case down =>
    rw [exec_vsrlv, withScalarB_scalar hb, slideDown, State.useVl_settled s hvl, State.everyElement_eq hvl]
    exact finishSeq_writeElements s _ f.rt (fun _ => mem_everyElement) fun _ _ => rfl
  case gather =>
    refine ⟨_, exec_v2bits_eq hvl hb, fun x hx => ?_⟩
    rw [foldl_gatherStep_getLsbD _ _ _ _ _ hx, low6_toNat]
  case insert =>
    rw [exec_veins, withScalarB_scalar hb, insertElement, if_pos hn]
    rfl
  case insertRefused =>
    rw [exec_veins, withScalarB_scalar hb, insertElement, if_neg (Nat.not_lt.mpr hn)]
    rfl
  case extract =>
    rw [exec_vex, extractElement, formBit_of_register hreg, if_neg Bool.false_ne_true, if_pos hn]
    rfl
  case extractRefused =>
    rw [exec_vex, extractElement, formBit_of_register hreg, if_neg Bool.false_ne_true, if_neg (Nat.not_lt.mpr hn)]
    rfl
  case immediate =>
    rw [exec_vex, extractElement, formBit_of_immediate himm, if_pos rfl]
    rfl

end Sys2Proof.Machine
end
